-- ==== Sys2Proof/Word.lean ====
section
/-! DEFINITION. The word types of the model and the sparse table, its one shape for large stores.
A store of the chip (buffer words, planes, record slots, far memory) is far too large to be written out, so each is a
list of (key, value) pairs over a default; `Machine/Sparse.lean` reads and writes them. -/

namespace Sys2Proof

/-- One byte. -/
abbrev Byte := BitVec 8

/-- A 64-bit register value (R4). -/
abbrev Word64 := BitVec 64

/-- A finite table: (key, value) pairs, keys strictly rising, no value equal to the key's default. -/
abbrev Sparse (α : Type) := List (Nat × α)

/-- A tile index (R16). -/
abbrev TileIx := BitVec 10

/-- A buffer word index within a tile (R112). -/
abbrev WordIx := BitVec 11

/-- A sync-object index, 8t + l (R123). -/
abbrev SoIx := BitVec 13

/-- A port index, 0 to 7 for X+ to SP1 (R315, R521). -/
abbrev PortIx := BitVec 3

/-- A queue pair (R458). -/
abbrev QueueIx := BitVec 4

/-- A UCIe module (R457). -/
abbrev UcieIx := BitVec 2

/-- A pass number (R207). -/
abbrev Pass := BitVec 32

/-- A rack position coded as OPT_PORTn_STAT.PEER: bit 8 SPARE, [7:5] x, [4:2] y, [1:0] z (R355). -/
abbrev Pos := BitVec 9

end Sys2Proof
end

