-- ==== Sys2Proof/Syntax.lean ====
section
/-! DEFINITION. The commands of the block, one constructor per row of spec/opcode_table.json, and the data they carry.
The table gives no row an operand: each constructor's operands are the ones its rule's text needs (log entry 1). What
the host, a neighbour or the environment supplies (fetched bytes, counts, codes, received crumbs) is an operand. -/

namespace Sys2Proof

/-- How a host access meets a 64-bit register: whole, or as its aligned low or high 32-bit half (R4). -/
inductive RegWidth where
  | full | low | high
  deriving DecidableEq, Repr

/-- An array of a tile by physical index: an N-array (17) or an S-array (9, the stand-in is 8) (R63). -/
inductive ArrRef where
  | n (i : Fin 17)
  | s (i : Fin 9)
  deriving DecidableEq, Repr

/-- The target of a stand-in order: logical N-array and bank-relative plane, or logical S-array (R95, R108). -/
inductive Target where
  | n (array : BitVec 4) (plane : BitVec 2)
  | s (array : BitVec 3)
  deriving DecidableEq, Repr

/-- The weight formats, in the code order of R370 (R37). -/
inductive WFmt where
  | w1 | wt | w2 | w2s | w4 | w8 | kv8
  deriving DecidableEq, Repr

/-- Requester classes of a buffer bank, in service order (R116). -/
inductive BufClass where
  | tileController | vectorUnit | fillCopy | mesh | management
  deriving DecidableEq, Repr

/-- The guard an operation waited on (R133). -/
inductive Guard where
  | slotRead | slotWrite | windowAck | custody | epochDrain | recipeGuard
  | stream (waitFree : Bool)
  deriving DecidableEq, Repr

/-- The crumb header's fields (R159), the CRC included. -/
structure CrumbHeader where
  slot : BitVec 14
  req : BitVec 12
  pass : BitVec 32
  wepoch : BitVec 8
  repoch : BitVec 8
  variant : BitVec 6
  kind : BitVec 4
  flags : BitVec 8
  pos : BitVec 20
  crc : BitVec 16
  deriving DecidableEq, Repr

/-- A crumb: 16-byte header and 64-byte payload, payload byte 0 first (R159). -/
structure Crumb where
  hdr : CrumbHeader
  payload : List Byte
  deriving DecidableEq, Repr

/-- A node port of the data mesh: north, east, south, west, local (R153, R165). -/
inductive NodePort where
  | north | east | south | west | local'
  deriving DecidableEq, Repr

/-- A vector operand: a vector register, or four consecutive FP32 words of the buffer, with the access slot in which they
reach their banks and whether it is the consumer's last read of a slot's round (R117, R136). -/
inductive VecRef where
  | reg (r : BitVec 4)
  | buf (word : WordIx) (slot : Nat := 0) (last : Bool := false)
  deriving DecidableEq, Repr

/-- A request at a buffer bank (R114 to R116): a whole-word read, perhaps a consumer's last of the round, with the cells that
an upset flips first; a whole-word write; a write of fewer than 64 bytes. -/
inductive BufKind where
  | read (last : Bool) (upset : BitVec 576)
  | write (data : BitVec 512) (poison : Bool)
  | part (offset : BitVec 6) (bytes : List Byte) (upset : BitVec 576)
  deriving DecidableEq, Repr

/-- A request with its word and its requester's class. -/
structure BufReq where
  word : WordIx
  cls : BufClass
  kind : BufKind
  deriving DecidableEq, Repr

/-- An operation that reaches a sync object in a handshake (R132). -/
inductive SoOp where
  | set (count limit : BitVec 24) (tclass : BitVec 3) (auto : Bool)
  | signal (n : BitVec 16)
  | err (code : BitVec 4)
  | expire
  deriving DecidableEq, Repr

/-- What troubles the write of a plane's row (R84): cells that no pulse switches, and, for each read at WRITE_MARGIN, cells
that it senses wrong. -/
structure RowTrouble where
  row : BitVec 9
  stuck : BitVec 1024 := 0
  weak : List (BitVec 1024) := []
  deriving DecidableEq, Repr

/-- Columns that the shifted sense reads otherwise, each with the least number of steps of shift that does so (R78). -/
abbrev WeakCols := List (Nat × Nat)

/-- A row that the start-up check reads: the columns that read wrong and the weak ones (R263). -/
structure RowSense where
  tile : TileIx
  array : Fin 17
  row : BitVec 9
  wrong : List Nat := []
  weak : WeakCols := []
  deriving DecidableEq, Repr

/-- What A8 preparation reads: vectors of FP32, or accumulators of a pass times the scale of the tensor they belong to (R42,
R57). -/
inductive A8Source where
  | vecs (xs : List VecRef)
  | accs (first : BitVec 11) (blocks : Nat) (tensor : Nat) (pass : Pass)
  deriving DecidableEq, Repr

/-- Forms the vector unit loads and stores (R59, R146). -/
inductive VForm where
  | fp32 | bf16
  /-- one A8 block with its block scale byte -/
  | a8 (scale : Byte)
  /-- six accumulators of a pass in the payload form of R59: loaded, they are added; stored, they are read -/
  | accs (first : BitVec 11) (pass : Pass)
  deriving DecidableEq, Repr

/-- The two-operand elementary operations (R138). -/
inductive VArith where
  | add | sub | mul | max | min
  deriving DecidableEq, Repr

/-- Which steps of softmax a tile applies to its part of the scores (R141): all of them; its maximum; the terms against the
combined maximum, with their sum; the division by the combined sum. -/
inductive SoftPart where
  | whole
  | max
  | terms (m : VecRef) (sum : VecRef)
  | norm (m : VecRef) (sum : VecRef)
  deriving DecidableEq, Repr

/-- Which steps of rmsnorm a tile applies to its part of the vector (R142, R146): all of them; the sum of squares; the
scaling by the combined sum. -/
inductive RmsPart where
  | whole
  | squares
  | scale (sum : VecRef)
  deriving DecidableEq, Repr

/-- The HALT scopes (R167, R171). -/
inductive HaltScope where
  | pass (p : Pass)
  | device
  deriving DecidableEq, Repr

/-- What a fault event names besides its source and detail: targets for a stand-in, a pass for a halt (R379). -/
structure EventInfo where
  detail : BitVec 32 := 0
  target : Option (TileIx × Target) := none
  pass : Option Pass := none
  deriving DecidableEq, Repr

/-- The content of a received TRAIN block (R325), its position as the block codes it, with the one-way delay that the
timestamp exchanges of the attempt have measured (R326). -/
structure TrainInfo where
  part : Byte
  lowVer : Byte
  highVer : Byte
  lanes : BitVec 8
  position : BitVec 9
  port : BitVec 3
  phase : Byte
  agreed : Byte
  delayNs : BitVec 16 := 0
  deriving DecidableEq, Repr

/-- A received IDLE block (R318, R319): LSEQ is that of the next CRUMB block; the position is as the block codes it. -/
structure IdleInfo where
  lseq : BitVec 16
  status : BitVec 5
  version : Byte
  part : Byte
  laneMap : BitVec 8
  position : BitVec 9
  deriving DecidableEq, Repr

/-- A scheduling notice between entry-group devices (R271, R306). -/
inductive Notice where
  | admission (req : BitVec 12)
  /-- with F and the reason of the final record (R284, R306) -/
  | cancel (req : BitVec 12) (f : Pass) (reason : Byte)
  deriving DecidableEq, Repr

/-- A pair of measurements of one calibration item: codes and residual in ppm (R409). -/
structure CalMeasure where
  first : Int
  second : Int
  residualPpm : Nat
  deriving DecidableEq, Repr

/-- The commands: one constructor per row of the table of operations and events, in the table's order. -/
inductive Instr where
  -- host accesses
  | hostRegWrite (m : UcieIx) (addr : BitVec 40) (w : RegWidth) (data : Word64)
  | unmappedAccess (m : UcieIx) (addr : BitVec 40) (size : Nat) (write : Bool)
  | subwordRegAccess (m : UcieIx) (addr : BitVec 40) (size : Nat) (write : Bool)
  | hostBufferAccess (m : UcieIx) (addr : BitVec 40) (size : BitVec 8) (write : Option (List Byte)) (slot : Nat) (upset : BitVec 576)
  | hostFarMemoryAccess (m : UcieIx) (addr : BitVec 40) (size : Nat) (write : Option (List Byte))
  | tickNowRead (m : UcieIx) (w : RegWidth)
  | tickClrWrite (m : UcieIx) (clr : Bool)
  | fltSummaryClr (m : UcieIx)
  | fltCtlEnter (m : UcieIx)
  | fltSrcSevereClear (m : UcieIx) (src : BitVec 8) (meets : Option EventInfo)
  | fltSrcStickyClear (m : UcieIx) (src : BitVec 8) (meets : Option EventInfo)
  | evrFlushWrite (m : UcieIx)
  | portRetrainWrite (m : UcieIx) (p : PortIx)
  | portEnableWrite (m : UcieIx) (p : PortIx) (en : Bool)
  | tokenRingTailWrite (m : UcieIx) (tail : BitVec 32)
  | mbxCtlWrite (m : UcieIx) (w : RegWidth) (data : Word64)
  | mbxSqDoorbell (m : UcieIx) (q : QueueIx) (tail : BitVec 6)
  | mbxCqDoorbell (m : UcieIx) (q : QueueIx) (head : BitVec 8)
  | sidebandDoorbell (m : UcieIx) (q : QueueIx) (cq : Bool) (value : BitVec 8)
  | bootLenWrite (m : UcieIx) (w : RegWidth) (data : Word64)
  -- mailbox service
  | commandTake (slot : Nat) (upset : BitVec 576)
  | coalesceIntervalEnd (q : QueueIx)
  | commandTimeout (q : QueueIx)
  | svHello (q : QueueIx)
  | svIdentify (q : QueueIx) (ok : Bool)
  | svRecipeLoad (q : QueueIx)
  | recipeLoadDone (fetched : Option (List Byte))
  | svRecipeArm (q : QueueIx)
  | svRecipeDisarm (q : QueueIx)
  | svRecipeDiscard (q : QueueIx)
  | svRecipeQuery (q : QueueIx) (ok : Bool)
  | svKeyChallenge (q : QueueIx) (ok : Bool)
  | svKeyInstall (q : QueueIx) (blob : Option (List Byte))
  | svOwnerInstall (q : QueueIx) (record : Option (List Byte))
  | svWeightPlan (q : QueueIx) (plan : Option (List Byte))
  | svPlanQuery (q : QueueIx) (ok : Bool)
  | svEpochArm (q : QueueIx)
  | svEpochDisarm (q : QueueIx)
  | svServeConfig (q : QueueIx)
  | svReqSubmit (q : QueueIx) (prompt : Option (List Byte))
  | svReqAdmit (q : QueueIx)
  | svReqCancel (q : QueueIx)
  | svReqRelease (q : QueueIx)
  | svReqQuery (q : QueueIx) (ok : Bool)
  | svSparamWrite (q : QueueIx) (set : Option (List Byte))
  | svPrefixKey (q : QueueIx) (blob : Option (List Byte))
  | svPrefixWalk (q : QueueIx) (tokens : Option (List (BitVec 32)))
  | svPrefixInsert (q : QueueIx) (tokens : Option (List (BitVec 32)))
  | svPrefixEvict (q : QueueIx)
  | svPackInstall (q : QueueIx)
  | packLoadDone (fetched : Option (List Byte))
  | svFaultQuery (q : QueueIx) (ok : Bool)
  | svFaultClear (q : QueueIx) (meets : Option (TileIx × BitVec 5))
  | svEvrRead (q : QueueIx) (ok : Bool)
  | svEvrChallenge (q : QueueIx) (ok : Bool)
  | svEvrClear (q : QueueIx) (sig : Option (List Byte))
  | svCalRun (q : QueueIx)
  | svCalConfig (q : QueueIx)
  | svThermConfig (q : QueueIx)
  | svHkConfig (q : QueueIx)
  | svHkRead (q : QueueIx) (code : BitVec 16) (engineBusy : Bool)
  | svAttest (q : QueueIx) (ok : Bool)
  | svCertRead (q : QueueIx) (ok : Bool)
  | svFwUpdate (q : QueueIx)
  | fwUpdateDone (fetched : Option (List Byte))
  | svFwCommit (q : QueueIx) (programmed : Nat)
  | svLinkQuery (q : QueueIx) (ok : Bool)
  | svPosAssign (q : QueueIx)
  | svLinkConfig (q : QueueIx)
  | svKvRestore (q : QueueIx)
  | kvRestoreComplete
  | svReturnArm (q : QueueIx)
  | svReset (q : QueueIx)
  | mgmtRestartComplete
  -- tile arrays
  | arrayOpIssue (t : TileIx) (slot : Nat)
  | beatAdmit (sector : BitVec 4)
  | proofStart (sector : BitVec 4)
  | proofEnd (sector : BitVec 4)
  | beatComplete (t : TileIx) (a : ArrRef) (wrong : List (Nat × Nat))
  | zeroBeatComplete (t : TileIx) (a : ArrRef)
  | planeSelectComplete (t : TileIx) (n : Fin 17)
  | rowReadComplete (t : TileIx) (a : ArrRef) (wrong : List Nat) (weak : WeakCols)
  | sRowWriteComplete (t : TileIx) (a : Fin 9)
  | planeWriteSlotGrant
  | planeWriteComplete (t : TileIx) (n : Fin 17) (plane : BitVec 2) (trouble : List RowTrouble)
  | planeWriteFail (t : TileIx) (n : Fin 17) (plane : BitVec 2) (trouble : RowTrouble)
  | scrubSlotRead (t : TileIx) (isS : Bool) (wrong : List Nat) (weak : WeakCols)
  | scrubLate (t : TileIx) (isS : Bool)
  | refreshStart (t : TileIx)
  | standin (t : TileIx) (target : Target)
  -- buffer
  | bufferRead (t : TileIx) (w : WordIx) (cls : BufClass) (last : Bool) (slot : Nat) (upset : BitVec 576) (mates : List BufReq)
  | bufferWrite (t : TileIx) (w : WordIx) (cls : BufClass) (data : BitVec 512) (poison : Bool) (slot : Nat) (mates : List BufReq)
  | bufferPartialWrite (t : TileIx) (w : WordIx) (offset : BitVec 6) (bytes : List Byte) (slot : Nat) (upset : BitVec 576) (mates : List BufReq)
  | correctedWriteBack (t : TileIx) (w : WordIx)
  | fill (t : TileIx) (start : WordIx) (length : BitVec 12) (value : Word64) (so : Option (BitVec 3)) (pass : Option Pass)
  | copy (t : TileIx) (src dst : WordIx) (length : BitVec 12) (so : Option (BitVec 3)) (pass : Option Pass)
  | fillCopyDone (t : TileIx) (slot : Nat)
  -- sync objects
  | soSet (i : SoIx) (count limit : BitVec 24) (tclass : BitVec 3) (auto : Bool) (mates : List SoOp)
  | soSignal (i : SoIx) (n : BitVec 16) (mates : List SoOp)
  | soSignalErr (i : SoIx) (code : BitVec 4) (mates : List SoOp)
  | soWait (i : SoIx) (g : Guard)
  | soTimerExpiry (i : SoIx) (mates : List SoOp)
  | strobe
  -- vector unit
  | vuLoad (t : TileIx) (form : VForm) (dst : BitVec 4) (word : WordIx) (slot : Nat) (last : Bool)
  | vuStore (t : TileIx) (form : VForm) (src : BitVec 4) (word : WordIx) (slot : Nat) (layer : BitVec 14)
  | vuArith (t : TileIx) (op : VArith) (dst a b : VecRef)
  | vuConvert (t : TileIx) (toBf16 : Bool) (dst a : VecRef) (layer : BitVec 14)
  | vuFma (t : TileIx) (dst a b c : VecRef)
  | vuExp2 (t : TileIx) (dst a : VecRef)
  | vuReciprocal (t : TileIx) (dst a : VecRef)
  | vuRsqrt (t : TileIx) (dst a : VecRef)
  | vuTreeSum (t : TileIx) (dst : VecRef) (src : List VecRef)
  | vuTreeMax (t : TileIx) (dst : VecRef) (src : List VecRef)
  | vuSoftmax (t : TileIx) (part : SoftPart) (dst src : List VecRef) (c : BitVec 32) (gate : Bool) (layer : BitVec 14)
  | vuRmsnorm (t : TileIx) (part : RmsPart) (dst src g : List VecRef) (invN eps : BitVec 32)
  | vuRotary (t : TileIx) (x y : VecRef) (pos : BitVec 32) (freq : List (BitVec 32))
  | vuSilu (t : TileIx) (dst a : VecRef)
  | vuSwiglu (t : TileIx) (dst a b : VecRef)
  | vuRouterTopk (t : TileIx) (scores : List VecRef) (layer : BitVec 14) (variant : BitVec 6) (passKind : BitVec 2)
  | vuCandidateSelect (t : TileIx) (logits : List VecRef) (m k : Nat) (firstToken : BitVec 32) (layer : BitVec 14)
  | vuA8Prepare (t : TileIx) (src : A8Source) (tensor chunk : Nat) (layer : BitVec 14) (dst scaleDst laneDst : WordIx) (slot : Nat)
  | vuOutlierLaneEntry (t : TileIx) (a : ArrRef) (fmt : WFmt) (row : BitVec 8) (value : BitVec 16) (acc : BitVec 11) (pass : Pass) (layer : BitVec 14)
  | vuOutputConvert (t : TileIx) (acc : BitVec 11) (tensor : Nat) (layer : BitVec 14) (pass : Pass) (dst : VecRef)
  -- data mesh and crumbs
  | meshCrumbAccept (t : TileIx) (from' : NodePort) (c : Crumb) (positions : Nat) (wrong : BitVec 704)
  | meshHopTimeout (t : TileIx) (out : NodePort)
  | activationCrumb (t : TileIx) (c : Crumb) (positions : Nat) (last : Bool) (slot : Nat)
  | kvRowCrumb (t : TileIx) (c : Crumb) (slot : Nat)
  | logitCandidateCrumb (slice : BitVec 2) (c : Crumb)
  | accumulatorCrumb (t : TileIx) (first : BitVec 11) (c : Crumb)
  | weightChunkCrumb (t : TileIx) (c : Crumb)
  | farMemoryTransferCrumb (fm : Bool) (addr : BitVec 36) (write : Bool) (c : Crumb)
  | sprinkleCrumb (t : TileIx) (loop : Byte) (sent : CrumbHeader) (c : Crumb)
  | windowOpen (t : TileIx) (w : BitVec 2)
  | windowClose (t : TileIx) (w : BitVec 2)
  | windowWrite (t : TileIx) (c : Crumb) (slot : Nat) (turns : List (BitVec 2 × Bool))
  | windowAck (t : TileIx) (w : BitVec 2) (count : BitVec 16) (epoch status : Byte) (offset : BitVec 16)
  | custodyAck (p : PortIx) (pass : Pass) (position : Pos) (toBuddy : Bool)
  | hostTunnelCrumb (p : PortIx) (c : Crumb)
  | tunnelFrameSend (queue : BitVec 2) (frame : List Byte)
  -- control mesh
  | halt (scope : HaltScope)
  | cancel (req : BitVec 12) (pass : Pass) (variant : BitVec 6)
  | cancelCrumb (p : PortIx) (req : BitVec 12) (pass : Pass) (variant : BitVec 6)
  | signal (i : SoIx) (n : BitVec 16) (poison : Bool) (mates : List SoOp)
  | signalErr (i : SoIx) (code : BitVec 4) (mates : List SoOp)
  | set (i : SoIx) (count limit : BitVec 24) (tclass : BitVec 3) (auto : Bool) (mates : List SoOp)
  | fault (t : TileIx) (src : BitVec 8) (info : EventInfo)
  | numeric (t : TileIx) (layer : BitVec 14) (flags : BitVec 5)
  | mgmtRd (t : TileIx) (offset : BitVec 32)
  | mgmtWr (t : TileIx) (offset : BitVec 32) (data : Word64)
  | mgmtRsp (t : TileIx) (data : Word64)
  -- pace and rack tick
  | paceGateClose (counts : Vector Nat 16)
  | tickExchange (frac : BitVec 6)
  | tstampBlock (p : PortIx) (reply : Option (Int × Int)) (frac : BitVec 6) (turn : Nat)
  | tickCorrection
  | tickAlignLost
  -- passes and scheduling
  | recipeDrainTimeout
  | passStart
  | schedulingNotice (n : Notice) (start : Pass)
  | kvFailureNotice (req : BitVec 12)
  | deadlineMiss (req : BitVec 12)
  -- weight loading
  | chunkFetchDone (wepoch : Byte) (i : Nat) (image : List Byte)
  | chunkFetchTimeout (wepoch : Byte) (i : Nat)
  | buddyProtectionClearNotice
  | buddyRebuildNotice
  -- links
  | lightDetect (p : PortIx)
  | trainBlock (p : PortIx) (b : TrainInfo)
  | trainingTimeout (p : PortIx)
  | trainingRetry (p : PortIx)
  | crumbBlock (p : PortIx) (bytes : List Byte)
  | retryBlock (p : PortIx) (lseq : BitVec 16)
  | retryRepeat (p : PortIx)
  | idleBlock (p : PortIx) (b : IdleInfo)
  | idleTimeout (p : PortIx)
  | haltBlock (p : PortIx) (reason : Byte)
  | lightLoss (p : PortIx)
  | laneFault (p : PortIx) (lane : BitVec 3)
  | lanemapBlock (p : PortIx) (map : BitVec 8) (phase : Byte) (lseq : BitVec 16)
  | lanemapRepeat (p : PortIx)
  | laneReinstate (p : PortIx) (lane : BitVec 3)
  -- device loss
  | portDownNotice (p : PortIx) (position : Pos) (reporter : Pos)
  | lossReportWindow (position : Pos)
  | buddySectionLoaded
  | takeoverAnnounce (position : Pos) (t : Pass)
  | takeoverLate
  | mirrorRequest (oldest : Pass) (count : Nat)
  | custodyReplayRequest (p : PortIx) (m : Pass)
  -- integrity checks
  | sprinkleRun (t : TileIx) (entry : Nat) (bound : Bool) (wrong : List (Nat × Nat))
  | sprinkleCoverage (t : TileIx) (target : Nat)
  | statWindowClose (t : TileIx) (target : Target) (layer : BitVec 14)
  -- fault collection
  | faultEvent (src : BitVec 8) (info : EventInfo)
  | reactionEnd
  | standinHoldTimeout (t : TileIx) (target : Target)
  | beatHandshakeTimeout (t : TileIx) (a : ArrRef)
  | mgmtWatchdog (measured : Bool)
  | mgmtEccError (corrected : Bool) (measured : Bool)
  | aliveToggle
  | selfReset
  -- housekeeping, temperature, calibration
  | hkRoundStart
  | hkConversion (b : Bool) (channel : BitVec 5) (codes : List Int)
  | thermalGateClose (counts : Vector Nat 72)
  | thermalLevelEvaluate
  | hkScanEnd
  | openWireTest (b : Bool) (pullUp pullDown : Int)
  | hkRoundEnd
  | urgentConversion (b : Bool) (channel : BitVec 5) (code : Int) (calibration other : Bool)
  | calItemMeasure (region : Fin 9) (item : BitVec 3) (ms : List CalMeasure) (codes : List Int)
  | calTrimStep (p : PortIx)
  | eyeSweep (p : PortIx) (lane : BitVec 3) (mui : BitVec 10)
  | thermtripComparatorTrip
  -- event recorder
  | evrSlotWriteDone (bank : BitVec 2) (ok : Bool)
  | evrClearDone
  | evrScanComplete
  | evrPwrfailCutoff
  | hoursAdvance
  -- pins, power, boot
  | resetNAssert
  | resetNRelease
  | pwrfailNAssert
  | pwrfailNRelease
  | refclkLoss
  | bootFuseLoad (corrected : Nat) (uncorrectable : Bool)
  | bootRomInit (selfTestOk : Bool) (modules : BitVec 4)
  | firmwareFetchDone (image : Option (List Byte))
  | bootPortStepEnd
  | startUpCheck (reads : List RowSense) (badRecs : List (TileIx × Fin 17 × BitVec 2)) (badStandins : List TileIx)
  | keyDerivation
  | bootComplete
  -- sidebands
  | i3cDynamicAddress (setdasa : Bool) (addr : BitVec 7)
  | i3cPrivateWrite (selector : BitVec 16)
  | i3cPrivateRead
  | i3cResetRequest
  | jtagBypass (tdi : List Bool)
  | jtagIdcode
  | jtagSamplePreload (preload : BitVec 16)
  | jtagExtest (drive : BitVec 16)
  | dbgChallenge
  | dbgToken (token : List Byte)
  | refclkReturn
  | powerRemoved
  | powerApplied
  | ucieModuleDown (m : UcieIx)
  | ucieModuleUp (m : UcieIx)
  deriving DecidableEq, Repr

end Sys2Proof
end

