-- ==== Sys2Proof/Machine/Bits.lean ====
section
/-! DEFINITION. Bit fields, byte order, saturating counters and the serial comparisons of R207. -/

namespace Sys2Proof.Machine

/-- The field `[lo + w - 1 : lo]` of a number. -/
def field (x lo w : Nat) : Nat := (x >>> lo) % 2 ^ w

/-- A value of `w` bits placed at bit `lo` of a register word. -/
def place (lo w v : Nat) : Nat := (v % 2 ^ w) <<< lo

/-- A Boolean as a bit. -/
def bit (b : Bool) : Nat := if b then 1 else 0

/-- Bit `i` of a number. -/
def bitAt (x i : Nat) : Bool := (x >>> i) % 2 == 1

/-- A counter of `w` bits that saturates at its maximum. -/
def satAdd {w : Nat} (x : BitVec w) (n : Nat) : BitVec w :=
  if x.toNat + n < 2 ^ w then BitVec.ofNat w (x.toNat + n) else BitVec.allOnes w

/-- A counter of `w` bits that wraps. -/
def wrapAdd {w : Nat} (x : BitVec w) (n : Nat) : BitVec w := x + BitVec.ofNat w n

/-- The little-endian value of a byte list (R2). -/
def leNat : List Byte → Nat
  | [] => 0
  | b :: bs => b.toNat + 256 * leNat bs

/-- The big-endian value of a byte list. -/
def beNat (bs : List Byte) : Nat := bs.foldl (fun a b => a * 256 + b.toNat) 0

/-- `n` little-endian bytes of a value (R2). -/
def leBytes : Nat → Nat → List Byte
  | 0, _ => []
  | n + 1, v => BitVec.ofNat 8 v :: leBytes n (v / 256)

/-- `n` big-endian bytes of a value. -/
def beBytes (n v : Nat) : List Byte := (leBytes n v).reverse

/-- `len` bytes of a list from offset `off`; absent bytes are not given. -/
def bytesAt (bs : List Byte) (off len : Nat) : List Byte := (bs.drop off).take len

/-- The little-endian field of `len` bytes at offset `off` of a structure (R2). -/
def leAt (bs : List Byte) (off len : Nat) : Nat := leNat (bytesAt bs off len)

/-- Every byte of the list is zero. -/
def allZero (bs : List Byte) : Bool := bs.all (· == 0)

/-- pass_cmp() of R207 on 32-bit numbers: `a` is before `b`. -/
def passBefore (a b : BitVec 32) : Bool :=
  let d := (b - a).toNat
  d ≠ 0 && decide (d < 0x8000_0000)

/-- pass_cmp() of R207: `a` is after `b`, an unordered pair being neither before nor after. -/
def passAfter (a b : BitVec 32) : Bool :=
  let d := (b - a).toNat
  decide (0x8000_0000 < d)

/-- epoch_cmp() of R207 on 8-bit epochs: `a` is after `b`. -/
def epochAfter (a b : BitVec 8) : Bool := decide (0x80 < (b - a).toNat)

/-- epoch_cmp() of R207 on 8-bit epochs: `a` is before `b`. -/
def epochBefore (a b : BitVec 8) : Bool :=
  let d := (b - a).toNat
  d ≠ 0 && decide (d < 0x80)

/-- Round half to even of the non-negative quotient `n / d` (d > 0). -/
def divHalfEven (n d : Nat) : Nat :=
  let q := n / d
  let r := n % d
  if 2 * r < d then q else if d < 2 * r then q + 1 else if q % 2 = 0 then q else q + 1

/-- Round half to even of an integer over a positive number. -/
def intDivHalfEven (n : Int) (d : Nat) : Int :=
  match n with
  | .ofNat m => Int.ofNat (divHalfEven m d)
  | .negSucc m => - Int.ofNat (divHalfEven (m + 1) d)

/-- The bits of a word as a list, bit 0 first. -/
def bitsOf (n x : Nat) : List Bool := (List.range n).map (bitAt x)

/-- The number a list of bits spells, bit 0 first. -/
def natOfBits : List Bool → Nat
  | [] => 0
  | b :: bs => bit b + 2 * natOfBits bs

/-- Write `v` at index `i` of a list; outside the list nothing changes. -/
def listSet {α : Type} : List α → Nat → α → List α
  | [], _, _ => []
  | _ :: xs, 0, v => v :: xs
  | x :: xs, i + 1, v => x :: listSet xs i v

/-- Write one element of a vector; an index outside it changes nothing. -/
def setAt {α : Type} {n : Nat} (v : Vector α n) (i : Nat) (x : α) : Vector α n :=
  if h : i < n then v.set i x h else v

/-- Any value is accepted. -/
def anyVal (_ : Nat) : Bool := true

/-- Values of a range are accepted. -/
def inRange (a b n : Nat) : Bool := decide (a ≤ n) && decide (n ≤ b)

/-- Split a list into pieces of `n` elements, with fuel for its length. -/
def chunksOf {α : Type} (n : Nat) : Nat → List α → List (List α)
  | 0, _ => []
  | _, [] => []
  | f + 1, xs => xs.take n :: chunksOf n f (xs.drop n)

end Sys2Proof.Machine
end

