-- ==== Sys2Proof/Machine/Crc.lean ====
section
/-! DEFINITION. The checks over bytes: the crumb CRC of R162, CRC-32 of IEEE 802.3, and the digest of R365. -/

namespace Sys2Proof.Machine

/-- One bit step of the crumb CRC (R162). -/
def crc16Bit (c : Nat) : Nat := if bitAt c 15 then ((c <<< 1) ^^^ 0x1021) % 65536 else (c <<< 1) % 65536

/-- `n` bit steps. -/
def crc16Bits : Nat → Nat → Nat
  | 0, c => c
  | n + 1, c => crc16Bits n (crc16Bit c)

/-- crumb_crc() of R162 over the header's first 14 bytes. -/
def crc16 (h : List Byte) : BitVec 16 :=
  BitVec.ofNat 16 ((h.take 14).foldl (fun c b => crc16Bits 8 (c ^^^ (b.toNat <<< 8))) 0xFFFF)

/-- One bit step of the reflected CRC-32. -/
def crc32Bit (c : Nat) : Nat := if bitAt c 0 then (c >>> 1) ^^^ 0xEDB88320 else c >>> 1

/-- `n` bit steps. -/
def crc32Bits : Nat → Nat → Nat
  | 0, c => c
  | n + 1, c => crc32Bits n (crc32Bit c)

/-- Fold bytes into a running reflected CRC-32. -/
def crc32Fold (c : Nat) (bs : List Byte) : Nat := bs.foldl (fun c b => crc32Bits 8 (c ^^^ b.toNat)) c

/-- CRC-32 of IEEE 802.3 (R317, R435). -/
def crc32 (bs : List Byte) : BitVec 32 := BitVec.ofNat 32 (crc32Fold 0xFFFFFFFF bs ^^^ 0xFFFFFFFF)

/-- sprinkle_fold() of R365: fold 32-bit values, byte 0 of each first. -/
def sprinkleFold (c : Nat) (ps : List (BitVec 32)) : Nat :=
  ps.foldl (fun c p => crc32Fold c (leBytes 4 p.toNat)) c

/-- The digest after the last beat (R365). -/
def sprinkleDigest (ps : List (BitVec 32)) : BitVec 32 :=
  BitVec.ofNat 32 (sprinkleFold 0xFFFFFFFF ps ^^^ 0xFFFFFFFF)

end Sys2Proof.Machine
end

