-- ==== Sys2Proof/Machine/TypesRecipe.lean ====
section
/-! DEFINITION. What a recipe's sections hold, read (R195). The spec gives the sections' content and no encoding: the
readers are opaque constants of `Config` (log entry 14), and these types say what they deliver. -/

namespace Sys2Proof.Machine

/-- A beat as the order store gives it (R73): its target, format, row group, the words of its block and of its scale
byte with the access slot in which it reads them, whether these are its slot's last reads of the round, its accumulator and
its layer slot. -/
structure BeatOp where
  target : Target
  fmt : WFmt
  group : BitVec 2
  block : WordIx
  scaleWord : WordIx
  scaleByte : BitVec 6
  slot : Nat := 0
  last : Bool := false
  acc : BitVec 11
  layer : BitVec 14
  deriving DecidableEq, Repr

/-- An operation of a tile's part of the compiled order: those that an array carries out, a sprinkle slot, an operation of the
vector unit, of fill and copy or of a sync object, the recipe-defined guard of the operation after it, or the place of a
length class's attention sub-order (R72, R91, R110, R133, R210, R364). -/
inductive OrderOp where
  | beat (b : BeatOp)
  | rowRead (target : Target) (row : BitVec 9)
  | rowWrite (array : BitVec 3) (row : BitVec 9) (mask : BitVec 16) (src : WordIx) (slot : Nat) (last : Bool)
  | scrub (isS : Bool)
  | sprinkle (entry : Nat) (bound : Bool)
  | unit (i : Instr)
  | guard (object : SoIx) (g : Guard)
  | attention
  deriving DecidableEq, Repr

/-- An entry of the order store: the operation, whether the order marks it as independent of those before it (R110), and the
expert slot it belongs to: layer slot, table entry, second stage (R214). -/
structure OrderItem where
  op : OrderOp
  independent : Bool := false
  expert : Option (BitVec 14 × Nat × Bool) := none
  deriving DecidableEq, Repr

/-- A tile's part of the compiled order: its image's size, its operations, the attention sub-orders by ORDER_REF, and
the buffer word each schedule slot's crumb lands in. -/
structure TileOrder where
  tile : TileIx
  bytes : Nat
  ops : List OrderItem
  subs : List (Nat × List OrderItem) := []
  sinks : List (BitVec 14 × WordIx) := []
  deriving DecidableEq, Repr

/-- An entry of a node's order list (R155, R248, R293, R364); one that feeds a Z ring region carries its route tag (R321).
Every RES_INT-th position of the list is reserved and holds no entry (R164). -/
inductive NodeEntry where
  | slot (input : NodePort) (slot : BitVec 14) (route : Byte)
  | load
  | sprinkle
  | prompt (input : NodePort) (slot : BitVec 14)
  /-- the place of a length class's attention sub-order (R210) -/
  | attention
  deriving DecidableEq, Repr

/-- The order list of one output port of a node. -/
structure NodeList where
  tile : TileIx
  out : NodePort
  entries : List NodeEntry
  subs : List (Nat × List NodeEntry) := []
  deriving DecidableEq, Repr

/-- A pair of the KV pool: its K and V arrays (R282). -/
structure KvPair where
  kTile : TileIx
  kArr : BitVec 3
  vTile : TileIx
  vArr : BitVec 3
  deriving DecidableEq, Repr

/-- PLACEMENT: the logical array and plane of every weight segment, the expert-to-tile map, claimed buffer regions, the KV
pool, and the output head's token range on this device (R113, R195, R282, R297). -/
structure Placement where
  segments : List (TileIx × Target) := []
  expertTiles : List (Nat × List TileIx) := []
  claims : List (TileIx × Nat × Nat) := []
  pairs : List KvPair := []
  headFirst : BitVec 32 := 0
  headCount : Nat := 0
  /-- the outbound window that carries mirror records to the buddy (R338) -/
  mirror : Option (TileIx × BitVec 2) := none
  deriving DecidableEq, Repr

/-- A slot descriptor (R134). -/
structure SlotDesc where
  valid : Bool := false
  start : WordIx := 0
  length : BitVec 12 := 0
  fill : BitVec 3 := 0
  drain : BitVec 3 := 0
  deriving DecidableEq, Repr

/-- A slot descriptor as a recipe gives it for tile and index. -/
structure SlotLoad where
  tile : TileIx
  n : BitVec 2
  desc : SlotDesc
  deriving DecidableEq, Repr

/-- An inbound window descriptor (R172), with the owner's counts of applied and rejected writes (R175, R176). -/
structure InWin where
  isOpen : Bool := false
  epoch : Byte := 0
  start : WordIx := 0
  length : BitVec 12 := 0
  arrival : BitVec 3 := 0
  batch : BitVec 6 := 1
  peerTile : TileIx := 0
  peerPort : BitVec 4 := 0
  peerWin : BitVec 2 := 0
  applied : BitVec 16 := 0
  rejected : BitVec 16 := 0
  /-- the first offset rejected since the last negative acknowledge (R176) -/
  firstBad : Option (BitVec 11) := none
  deriving DecidableEq, Repr

/-- An outbound window descriptor (R172). -/
structure OutWin where
  valid : Bool := false
  epoch : Byte := 0
  ackSo : BitVec 3 := 0
  target : BitVec 2 := 0
  deriving DecidableEq, Repr

/-- A window descriptor as a recipe gives it. -/
structure WinLoad where
  tile : TileIx
  w : BitVec 2
  inbound : Option InWin := none
  outbound : Option OutWin := none
  deriving DecidableEq, Repr

/-- Activation values of a sync object (R131, R135). -/
structure ObjLoad where
  index : SoIx
  count : BitVec 24
  limit : BitVec 24
  tclass : BitVec 3
  auto : Bool
  deriving DecidableEq, Repr

/-- DESCRIPTORS: timeout values of classes 0 and 3 to 7 (0: keep), and the custody object of each port (R337). -/
structure Descriptors where
  slots : List SlotLoad := []
  windows : List WinLoad := []
  objects : List ObjLoad := []
  tclass : List (BitVec 3 × Nat) := []
  custody : List (PortIx × SoIx) := []
  deriving DecidableEq, Repr

/-- A tensor of QUANT: its format, its scale and its outlier-lane parameters (R36, R37, R49). -/
structure Tensor where
  fmt : WFmt
  scale : BitVec 32
  th : BitVec 16 := 0
  chunk : Nat := 1024
  lane : Nat := 16
  deriving DecidableEq, Repr

/-- QUANT (R195): tensors, softmax constants, rmsnorm constants, the split orders of softmax and rmsnorm (each tile's part:
first element and number, in the order in which the parts combine), and rotary frequencies. -/
structure Quant where
  tensors : List Tensor := []
  softmax : List (BitVec 32) := []
  softmaxSplits : List (List (TileIx × Nat × Nat)) := []
  rmsnorm : List (BitVec 32 × BitVec 32) := []
  rmsSplits : List (List (TileIx × Nat × Nat)) := []
  rotary : List (List (BitVec 32)) := []
  deriving DecidableEq, Repr

/-- An entry of an expert-slot table (R214): `none` stands for 0xFFFF; the sprinkle assignment is a pack entry, bound or
not. -/
structure ExpertEntry where
  expert : Nat
  cls : BitVec 2
  partner : Option Nat
  stage1 : List (BitVec 14) := []
  stage2 : List (BitVec 14) := []
  sprinkle : Option (Nat × Bool) := none
  deriving DecidableEq, Repr

/-- The routing of one layer and variant (R212 to R214): E scores, of which k are taken. -/
structure ExpertTable where
  layer : BitVec 14
  variant : BitVec 6
  e : Nat
  k : Nat
  gateMode : Bool
  entries : List ExpertEntry
  deriving DecidableEq, Repr

/-- A length class (R210). -/
structure LengthClass where
  limit : Nat
  far : Bool
  ref : Nat
  deriving DecidableEq, Repr

/-- A streaming section (R217): `issue` is the layer slot at whose router result the stream starts; `window` and `waitFree`
have one place for each pass kind of R206. -/
structure StreamSec where
  layer : BitVec 14
  variant : BitVec 6
  expert : Nat
  addr : Nat
  bytes : Nat
  targets : List (TileIx × BitVec 3)
  guard : SoIx
  issue : BitVec 14
  window : Vector Nat 4 := Vector.replicate 4 0
  waitFree : BitVec 4
  deriving DecidableEq, Repr

/-- An envelope of R222: intervals of the minimum, the maximum and the mean, as FP32 patterns. -/
structure Envelope where
  tile : TileIx
  target : Target
  layer : BitVec 14
  minLo : BitVec 32
  minHi : BitVec 32
  maxLo : BitVec 32
  maxHi : BitVec 32
  meanLo : BitVec 32
  meanHi : BitVec 32
  deriving DecidableEq, Repr

/-- INTEGRITY (R209, R222): the range bound of each tensor in each layer slot, in units of 2⁻²⁴, and the envelopes. -/
structure Integrity where
  bounds : List (BitVec 14 × Nat × Nat) := []
  envelopes : List Envelope := []
  deriving DecidableEq, Repr

/-- FIRING: shares and declared peaks of the 16 sectors (R22, R23). -/
structure Firing where
  shares : List Nat
  peaks : List Nat
  deriving DecidableEq, Repr

/-- A fallback section (R220): the buddy section, or the port section of a port. -/
structure Fallback where
  port : Option PortIx
  tiles : List TileOrder
  nodes : List NodeList
  deriving DecidableEq, Repr

/-- A recipe that passed its load checks: header fields and sections, read. -/
structure Recipe where
  repoch : Byte
  buddyOff : Bool
  streaming : Bool
  draft : Bool
  layout : List Byte
  report : List Byte
  /-- SHA-384 of container bytes 0 to SIG_OFFSET − 1 (R510) -/
  measure : List Byte
  placement : Placement
  tiles : List TileOrder
  nodes : List NodeList
  resInt : Nat
  quant : Quant
  desc : Descriptors
  experts : Option (List ExpertTable)
  lengths : List LengthClass
  streams : List StreamSec
  fallbacks : List Fallback
  integrity : Integrity
  firing : Firing
  deriving DecidableEq, Repr

end Sys2Proof.Machine
end

