-- ==== Sys2Proof/Config.lean ====
section
/-! DEFINITION. What a part's manufacture fixes, and the free values: opaque constants, of which nothing can be proved
but that they are what they are. Log entries 5, 7 to 10 and 14 name them. -/

namespace Sys2Proof.Config

/-- The serial number in fuses (R456). -/
opaque serial : BitVec 64

/-- The unique secret in fuses (R508). -/
opaque uniqueSecret : BitVec 256

/-- Fuses of the anti-rollback counter blown at manufacture (R511). -/
opaque fuseSvn : BitVec 7

/-- Fuse counts at 25 °C and 100 °C of each thermal oscillator (R400). -/
opaque n25 : Nat → BitVec 32
opaque n100 : Nat → BitVec 32

/-- Factory codes of each optical lane, by 8p + l (R431). -/
opaque fuseHeaterRx : Nat → BitVec 12
opaque fuseHeaterTx : Nat → BitVec 12
opaque fuseBias : Nat → BitVec 8
opaque fuseTerm : Nat → BitVec 5

/-- SHA-384 digests of Kuilo's firmware root and sprinkle root, held in fuses (R371, R501). -/
opaque firmwareRoot : BitVec 384
opaque sprinkleRoot : BitVec 384

/-- The certificate chain written at manufacture, in DER (R509). -/
opaque certChain : List Byte

/-- Uncompressed public keys of the key-transport and identity certificates of that chain (R509). -/
opaque ktCertKey : BitVec 776
opaque idCertKey : BitVec 776

/-- The boot ROM's measurement (R510). -/
opaque romMeasurement : BitVec 384

/-- What an X.509 chain certifies: the leaf's public key when the chain is valid and its root's key or certificate has
the digest given (R197 names the chain and the spec gives no certificate processing). -/
opaque chainLeaf : (rootDigest : BitVec 384) → (chain : List Byte) → Option (BitVec 776)

/-- As `chainLeaf`, for a root given as a public key in an owner-install slot (R371, R474). -/
opaque chainLeafKey : (rootKey : List Byte) → (chain : List Byte) → Option (BitVec 776)

/-- Calibrated transmit and receive path delays of a port, in 1/64 ns (R184). -/
opaque txDelay : Nat → Int
opaque rxDelay : Nat → Int

/-- The random bit generator's draws (R476, R514): free values. -/
opaque freeNonce : Nat → BitVec 128

/-- The identity key's signatures (R510): free values, as the spec gives no nonce for them. -/
opaque freeSignature : Nat → BitVec 768

/-- Numbers the spec leaves open after an operation that goes on: free values. -/
opaque freeNat : Nat → Nat

/-- FP32 results that a fault-free vector unit gives in a VECTOR sprinkle entry: R370 names a row of the cost table, which
names no one operation and no place of its operands. -/
opaque vectorSprinkle : (op : Nat) → (inputs : List (List Byte)) → List (BitVec 32)

/-- Identity buffer of SV_IDENTIFY (R469 gives no layout). -/
opaque identity : (supported : List (BitVec 16)) → List Byte

/-- Readers of the recipe sections' contents: R195 says what a section holds and the spec gives no encoding. `none` is a
content that breaks its own form (R523). -/
opaque readPlacement : List Byte → Option Machine.Placement
opaque readTileOrder : List Byte → Option (List Machine.TileOrder)
opaque readNodeOrder : List Byte → Option (Nat × List Machine.NodeList)
opaque readQuant : List Byte → Option Machine.Quant
opaque readDescriptors : List Byte → Option Machine.Descriptors
opaque readExperts : List Byte → Option (List Machine.ExpertTable)
opaque readLengths : List Byte → Option (List Machine.LengthClass)
opaque readStreaming : List Byte → Option (List Machine.StreamSec)
opaque readFallback : List Byte → Option Machine.Fallback
opaque readIntegrity : List Byte → Option Machine.Integrity
opaque readFiring : List Byte → Option Machine.Firing

end Sys2Proof.Config
end

