-- ==== Sys2Proof/Machine/Secded.lean ====
section
/-! DEFINITION. The SEC-DED code of R71 (S-array rows, buffer words, mesh check wires) and the inner BCH code's
remainder of R68. -/

namespace Sys2Proof.Machine

/-- The number of ones among the low `n` bits. -/
def popCount (n x : Nat) : Nat := ((bitsOf n x).filter id).length

/-- The syndrome columns of data bits 0 to 63: the 56 bytes of weight 3, then 8 of weight 5, ascending (R71). -/
def secdedCols : List Nat :=
  (List.range 256).filter (fun v => popCount 8 v == 3) ++
    ((List.range 256).filter (fun v => popCount 8 v == 5)).take 8

/-- XOR of the columns of the data bits that are 1. -/
def secdedXor (data : Nat) : List Nat → Nat → Nat
  | [], _ => 0
  | c :: cs, k => (if bitAt data k then c else 0) ^^^ secdedXor data cs (k + 1)

/-- The check byte of a 64-bit word (R71). -/
def secdedCheck (data : BitVec 64) : Byte := BitVec.ofNat 8 (secdedXor data.toNat secdedCols 0)

/-- How a checked word decodes. -/
inductive SecdedResult where
  | clean
  | single
  | double
  deriving DecidableEq, Repr

/-- Decode a word and its check byte: the corrected word, and what was found (R71). -/
def secdedDecode (data : BitVec 64) (check : Byte) : BitVec 64 × SecdedResult :=
  let syn := (secdedCheck data ^^^ check).toNat
  if syn = 0 then (data, .clean)
  else if popCount 8 syn = 1 then (data, .single)
  else
    let k := secdedCols.idxOf syn
    if k < 64 then (data ^^^ (1#64 <<< k), .single) else (data, .double)

/-- The 64-bit parts of a 512-bit word, part 0 lowest. -/
def parts512 (x : BitVec 512) : List (BitVec 64) := (List.range 8).map fun i => x.extractLsb' (64 * i) 64

/-- Join 64-bit parts, part 0 lowest. -/
def join512 (ps : List (BitVec 64)) : BitVec 512 :=
  BitVec.ofNat 512 (ps.foldr (fun p acc => p.toNat + 2 ^ 64 * acc) 0)

/-- The eight check bytes of a buffer word (R119). -/
def check512 (x : BitVec 512) : BitVec 64 :=
  BitVec.ofNat 64 ((parts512 x).foldr (fun p acc => (secdedCheck p).toNat + 256 * acc) 0)

/-- Decode a buffer word: the corrected word, whether any part was corrected, whether any part had a double error. -/
def decode512 (x : BitVec 512) (check : BitVec 64) : BitVec 512 × Bool × Bool :=
  let rs := ((parts512 x).zip (List.range 8)).map fun (p, i) => secdedDecode p (check.extractLsb' (8 * i) 8)
  (join512 (rs.map (·.1)), rs.any (·.2 == .single), rs.any (·.2 == .double))

/-- Multiply two elements of GF(2¹¹) with x¹¹ + x² + 1 (R68). -/
def gfMul (a b : Nat) : Nat :=
  (List.range 11).foldr (fun i acc =>
    let acc2 := acc <<< 1
    let acc2 := if bitAt acc2 11 then acc2 ^^^ 0x805 else acc2
    if bitAt b i then acc2 ^^^ a else acc2) 0

/-- αⁿ in GF(2¹¹). -/
def gfPow : Nat → Nat
  | 0 => 1
  | n + 1 => gfMul (gfPow n) 2

/-- The minimal polynomial of αᵏ over GF(2), from its eleven conjugates, as a bit number. -/
def gfMinPoly (k : Nat) : Nat :=
  let conj := (List.range 11).map fun i => gfPow ((k * 2 ^ i) % 2047)
  -- polynomial coefficients in GF(2¹¹), lowest first, multiplied by (x + c) for each conjugate
  let poly := conj.foldl (fun p c =>
    let shifted := 0 :: p
    let scaled := p.map (gfMul c) ++ [0]
    (shifted.zip scaled).map fun (a, b) => a ^^^ b) [1]
  natOfBits (poly.map (· == 1))

/-- Carry-less product of two bit polynomials. -/
def polyMul (a b : Nat) : Nat :=
  (List.range (Nat.log2 a + 1)).foldl (fun acc i => if bitAt a i then acc ^^^ (b <<< i) else acc) 0

/-- The BCH generator g(x): α, α³, …, α¹⁹ have ten distinct minimal polynomials of degree 11 (R68). -/
def bchGen : Nat := (List.range 10).foldl (fun g i => polyMul g (gfMinPoly (2 * i + 1))) 1

/-- g(x) written out; that it is `bchGen` is proved in `Laws/Codes.lean`. -/
def bchGenBits : Nat := 0x504d1d2ebb0f1d7efcbf489ed547

/-- The remainder of a bit polynomial modulo g, from the bit at `n` down. -/
def polyMod (g deg : Nat) : Nat → Nat → Nat
  | 0, r => r
  | n + 1, r => polyMod g deg n (if bitAt r (n + deg) then r ^^^ (g <<< n) else r)

/-- The 110 remainder bits of `n` data bits (R68). -/
def bchRemainder (n data : Nat) : Nat := if data = 0 then 0 else polyMod bchGenBits 110 n (data <<< 110)

/-- The check field of a row or a record: 110 remainder bits, the parity bit above them, bit 111 zero (R67, R68). -/
def bchCheck (n data : Nat) : Nat :=
  if data = 0 then 0
  else
    let r := bchRemainder n data
    let p := (popCount n data + popCount 110 r) % 2
    r + p * 2 ^ 110

/-- What the decoder of R68 makes of a codeword. -/
inductive BchResult where
  | corrected (bits : Nat)
  | uncorrectable
  deriving DecidableEq, Repr

/-- Decode a sensed codeword of `n` data bits against the stored one: up to 10 wrong bits are corrected, 11 reported as
uncorrectable; of more than 11 the spec leaves open whether they are reported or miscorrected, and into how many bits:
`free` decides (log entry 7). -/
def bchDecode (free stored sensed n : Nat) : BchResult :=
  let w := popCount (n + 111) (stored ^^^ sensed)
  if w ≤ 10 then .corrected w
  else if w = 11 || free % 2 = 0 then .uncorrectable
  else .corrected (free / 2 % 11)

end Sys2Proof.Machine
end

