-- ==== Sys2Proof/Machine/Sparse.lean ====
section
/-! DEFINITION. Reading and writing a sparse table over a default, in its one canonical form. -/

namespace Sys2Proof.Machine

/-- The value at key `k`: the listed one, else the default's. -/
def sget {α : Type} (d : Nat → α) : Sparse α → Nat → α
  | [], k => d k
  | (i, v) :: m, k => if k = i then v else sget d m k

/-- Put `(k, v)` in its place, whatever stood at `k`. -/
def sput {α : Type} : Sparse α → Nat → α → Sparse α
  | [], k, v => [(k, v)]
  | (i, w) :: m, k, v =>
    if k = i then (k, v) :: m else if k < i then (k, v) :: (i, w) :: m else (i, w) :: sput m k v

/-- Remove the entry of `k`. -/
def sdel {α : Type} : Sparse α → Nat → Sparse α
  | [], _ => []
  | (i, w) :: m, k => if k = i then sdel m k else (i, w) :: sdel m k

/-- Write `v` at `k`: a value equal to the default is not listed, so equal tables are equal data. -/
def sset {α : Type} [DecidableEq α] (d : Nat → α) (m : Sparse α) (k : Nat) (v : α) : Sparse α :=
  if v = d k then sdel m k else sput m k v

/-- Every key of the table is at least `lo`, keys rise strictly, and no entry equals its default. -/
def swfFrom {α : Type} [DecidableEq α] (d : Nat → α) : Nat → Sparse α → Bool
  | _, [] => true
  | lo, (i, v) :: m => decide (lo ≤ i) && decide (v ≠ d i) && swfFrom d (i + 1) m

/-- The canonical form of a sparse table. -/
def swf {α : Type} [DecidableEq α] (d : Nat → α) (m : Sparse α) : Bool := swfFrom d 0 m

/-- Rewrite the value at `k`. -/
def smod {α : Type} [DecidableEq α] (d : Nat → α) (m : Sparse α) (k : Nat) (f : α → α) : Sparse α :=
  sset d m k (f (sget d m k))

end Sys2Proof.Machine
end

