-- ==== Sys2Proof/Machine/TypesMgmt.lean ====
section
/-! DEFINITION. State of the management complex and of the ring's slow units: system registers, fault collector,
housekeeping, calibration, event recorder, mailbox, boot, security, sidebands and pins. Defaults are the reset values. -/

namespace Sys2Proof.Machine

/-- System registers of chapters 00, 01 and 13. -/
structure Sys where
  /-- SYS_UNMAPPED (R10) -/
  lastAddr : BitVec 40 := 0
  lastWrite : Bool := false
  unmapped : BitVec 16 := 0
  /-- the lock of the RWL registers, set by the first accepted recipe arm (R201) -/
  armLocked : Bool := false
  /-- SYS_FIRE_BUDGET, SYS_FIRE_WAITS (R25) -/
  dieBudget : BitVec 14 := 8192
  fireWaits : BitVec 48 := 0
  /-- SYS_PWR_LIMIT (R26) -/
  pwrProofK : BitVec 8 := 16
  pwrProofLen : BitVec 8 := 4
  pwrActive : Bool := false
  limitW : BitVec 11 := 1050
  /-- consecutive rounds above LIMIT_W, and below LIMIT_W − 25 W (R26) -/
  roundsOver : Nat := 0
  roundsUnder : Nat := 0
  /-- SYS_STATUS (R457) -/
  position : Pos := 0
  posValid : Bool := false
  ucieUp : BitVec 4 := 0
  bootStep : BitVec 4 := 0
  deriving DecidableEq, Repr

/-- An open counting window of a fault source: its first stamp and the N and W it opened with (R376, R394). -/
structure FltWindow where
  start : BitVec 32
  n : BitVec 16
  w : BitVec 31
  deriving DecidableEq, Repr

/-- The classes of R384. -/
inductive FltClass where
  | corrected | contained | fatal
  deriving DecidableEq, Repr

/-- A fault source: FLT_SRC_CFGn, FLT_SRC_STATn, FLT_SRC_DETn (R394 to R396). -/
structure FltSrc where
  sevAction : BitVec 3
  tallyAction : BitVec 3
  n : BitVec 16
  w : BitVec 31
  total : BitVec 24 := 0
  wcount : BitVec 16 := 0
  severe : Bool := false
  sticky : Bool := false
  firstTick : BitVec 32 := 0
  detail : BitVec 32 := 0
  window : Option FltWindow := none
  /-- the class in which the captured first event fell (R384) -/
  firstClass : Option FltClass := none
  deriving DecidableEq, Repr

/-- The running reaction (R379, R380). -/
structure Reaction where
  level : BitVec 3
  first : BitVec 8
  detail : BitVec 32
  /-- distinct merged sources, in order of first arrival -/
  merged : List (BitVec 8) := []
  targets : List (TileIx × Target) := []
  passes : List Pass := []
  deriving DecidableEq, Repr

/-- The fault collector (R374 to R396). -/
structure Flt where
  src : Sparse FltSrc := []
  firstSrc : BitVec 8 := 0xFF
  faultState : Bool := false
  /-- the fault state was entered by a thermal shut-down or trip: no self-reset (R404) -/
  thermal : Bool := false
  mgmtRestarted : Bool := false
  resetDelayMs : BitVec 16 := 200
  holdUs : BitVec 12 := 100
  classCorrected : BitVec 32 := 0
  classContained : BitVec 16 := 0
  classFatal : BitVec 16 := 0
  intRange : BitVec 16 := 0
  intEnvelope : BitVec 16 := 0
  intSprinkle : BitVec 16 := 0
  intReruns : BitVec 16 := 0
  reaction : Option Reaction := none
  /-- first source index and detail of each FQ-P1 class since it was last cleared (R384) -/
  classFirst : List (FltClass × BitVec 8 × BitVec 32) := []
  deriving DecidableEq, Repr

/-- Housekeeping, thermal and calibration settings "set by command" (R419). -/
structure HkCfg where
  avgA : BitVec 2 := 0
  avgB : BitVec 2 := 0
  alignA : Bool := false
  alignB : Bool := false
  owEn : BitVec 16 := 0
  shunt : Vector (BitVec 16) 8 := Vector.replicate 8 0
  warnSet : BitVec 8 := 95
  warnClr : BitVec 8 := 90
  thrSet : BitVec 8 := 105
  thrClr : BitVec 8 := 100
  proofK : BitVec 8 := 16
  proofLen : BitVec 8 := 4
  deltaT : BitVec 5 := 6
  eyeMin : BitVec 10 := 350
  deriving DecidableEq, Repr

/-- HK_A_RESn and HK_B_RESn (R424). -/
structure HkRes where
  round : BitVec 16 := 0
  valid : Bool := false
  value : BitVec 24 := 0
  /-- the right-aligned result, which R415, R416 and R491 use whatever the alignment -/
  right : Int := 0
  deriving DecidableEq, Repr

/-- THM_TEMPn and its rejoin count (R401, R425). -/
structure ThmTemp where
  tMax : BitVec 16 := 0x8000
  excluded : Bool := false
  /-- the oscillator failed in this round -/
  failing : Bool := false
  /-- consecutive plausible readings since the last failing round -/
  plausible : Nat := 0
  t : BitVec 16 := 0x8000
  /-- the slope factor g in force, and the one that takes effect at the next round's start (R400, R410) -/
  g : BitVec 32 := 65536
  gNext : BitVec 32 := 65536
  doubtful : Bool := true
  deriving DecidableEq, Repr

/-- Housekeeping and thermal state (R397 to R428). -/
structure Hk where
  set : HkCfg := {}
  act : HkCfg := {}
  round : BitVec 32 := 0
  /-- a round has started and not ended -/
  inRound : Bool := false
  thermalDone : Bool := false
  paceDone : Bool := false
  scanDone : Bool := false
  urgentDrops : BitVec 16 := 0
  xcheckDiff : BitVec 16 := 0
  open' : BitVec 16 := 0
  pkgMw : BitVec 32 := 0
  dieMw : BitVec 32 := 0
  resA : Sparse HkRes := []
  resB : Sparse HkRes := []
  /-- last valid power of rails 0 to 3 in mW (R416) -/
  lastMw : Vector Nat 4 := Vector.replicate 4 0
  /-- the channel the open-wire test of each converter tested last (R417) -/
  owLastA : BitVec 3 := 7
  owLastB : BitVec 3 := 7
  temp : Sparse ThmTemp := []
  hottest : BitVec 16 := 0x8000
  hottestOsc : BitVec 8 := 0
  throttled : BitVec 16 := 0
  trip : Bool := false
  shutdown : Bool := false
  warning : Bool := false
  deriving DecidableEq, Repr

/-- CAL_ITEMn (R430), with the item's mean trim code where one code describes it. -/
structure CalItem where
  residual : BitVec 24 := 0
  retries : BitVec 8 := 0
  runT : BitVec 16 := 0
  state : BitVec 2 := 0
  trim : Option Int := none
  deriving DecidableEq, Repr

/-- CAL_LANEn (R431): `none` reads the fuse code. Targets are where R410 steps heater and bias codes to. -/
structure CalLane where
  heaterRx : Option (BitVec 12) := none
  heaterTx : Option (BitVec 12) := none
  bias : Option (BitVec 8) := none
  term : Option (BitVec 5) := none
  eye : BitVec 10 := 0
  heaterRxTo : Option (BitVec 12) := none
  heaterTxTo : Option (BitVec 12) := none
  biasTo : Option (BitVec 8) := none
  deriving DecidableEq, Repr

/-- The calibration engine (R406 to R411). -/
structure Cal where
  item : Sparse CalItem := []
  lane : Sparse CalLane := []
  /-- items the MGMT region's run in progress has still to do; a run of it waits -/
  runM : Option (List (BitVec 3)) := none
  waitingM : Bool := false
  /-- the optical region whose run is in progress and the items it has still to do -/
  run : Option (Fin 9 × List (BitVec 3)) := none
  /-- optical regions triggered and waiting, in the order of R408 -/
  waiting : List (Fin 9) := []
  /-- the run in progress belongs to a full run (R407), on the command queue given or at boot -/
  full : Option (Option QueueIx) := none
  /-- reading of each region's timing oscillator at the start of its last run; `none` before one -/
  refT : Vector (Option (BitVec 16)) 9 := Vector.replicate 9 none
  deriving DecidableEq, Repr

/-- An event record (R435). -/
structure EvRec where
  seq : Option (BitVec 32) := none
  hours : BitVec 32
  pcycle : BitVec 24
  severity : Byte
  source : BitVec 16
  permanent : Bool := false
  dropsBefore : Bool := false
  tick : BitVec 64
  detail : BitVec 32 := 0
  pass : BitVec 32
  snap : List (BitVec 32) := []
  mergedCount : Nat := 0
  merged : List (BitVec 8) := []
  /-- body words of a clear record (R447) -/
  body : List (BitVec 32) := []
  deriving DecidableEq, Repr

/-- A slot of the record area: free, torn, or holding a record (R437, R442). -/
inductive EvSlot where
  | empty | torn
  | holds (r : EvRec)
  deriving DecidableEq, Repr

/-- A buffered record: whether the running flush has started its write and in which slot, and whether it is a rewrite. -/
structure EvBuf where
  r : EvRec
  /-- in the running flush -/
  flushing : Bool := false
  slot : Option (BitVec 14) := none
  rewrite : Bool := false
  /-- the reserved entry of the PWRFAIL record -/
  reserved : Bool := false
  deriving DecidableEq, Repr

/-- Entries of the snapshot list (R453). -/
structure EvSnap where
  en : Bool := false
  block : BitVec 3 := 0
  offset : BitVec 13 := 0
  half : Bool := false
  deriving DecidableEq, Repr

/-- A clear in progress (R447): its U, the queue that commanded it (none after a restart of the scan), and its step. -/
structure EvClear where
  u : BitVec 32
  queue : Option QueueIx
  /-- SEQ of the clear record -/
  seq : Option (BitVec 32)
  /-- step 3: the invalidation runs -/
  invalidating : Bool := false
  deriving DecidableEq, Repr

/-- The event recorder (R433 to R454). -/
structure Evr where
  /-- the record area and its bad-slot map: nonvolatile -/
  slots : Sparse EvSlot := []
  bad : Sparse Bool := []
  /-- HOURS and PCYCLE: nonvolatile (R439) -/
  hours : BitVec 32 := 0
  pcycle : BitVec 24 := 0
  /-- last SEQ given -/
  lastSeq : BitVec 32 := 0
  buffer : List EvBuf := []
  dropsFlag : Bool := false
  drops : BitVec 16 := 0
  overwrites : BitVec 16 := 0
  bufDrops : BitVec 8 := 0
  torn : BitVec 8 := 0
  ready : Bool := false
  scanning : Bool := false
  flushing : Bool := false
  /-- the running flush was started by PWRFAIL_N -/
  pwrfailFlush : Bool := false
  /-- no new record is accepted (R442, R495) -/
  closed : Bool := false
  clear : Option EvClear := none
  /-- the record area as it stood when PWRFAIL_N fell, which a RESET_N within 1 µs leaves untouched (R497) -/
  slotsBefore : Option (Sparse EvSlot) := none
  snap : Sparse EvSnap := []
  /-- the clear nonce and how many were issued (R446, R476) -/
  nonce : Option (BitVec 128) := none
  nonces : BitVec 32 := 0
  deriving DecidableEq, Repr

/-- A queue pair (R458 to R465, R482). -/
structure MbxQueue where
  sqTail : BitVec 6 := 0
  sqHead : BitVec 6 := 0
  cqHead : BitVec 8 := 0
  cqTail : BitVec 8 := 0
  /-- completion entries written and not freed -/
  used : BitVec 9 := 0
  phase : Bool := true
  completed : BitVec 16 := 0
  /-- the management complex's own copy of the completion ring's words, by word of the ring (R460) -/
  ring : Sparse (BitVec 512) := []
  commit : Bool := false
  /-- the 64 bytes of the command in progress -/
  cmd : Option (List Byte) := none
  /-- coalescing: an interval is open, and a completion waits to be announced in it (R465) -/
  interval : Bool := false
  announce : Bool := false
  deriving DecidableEq, Repr

/-- The mailbox (R455 to R483). -/
structure Mbx where
  q : Sparse MbxQueue := []
  coalesceUs : BitVec 8 := 0
  noticeQ : BitVec 4 := 0
  qen : BitVec 16 := 1
  noticeDrops : BitVec 16 := 0
  version : BitVec 16 := 0
  compat : Bool := false
  fwState : BitVec 3 := 0
  /-- last queue served in each set of R464 -/
  lastLow : BitVec 4 := 3
  lastHigh : BitVec 4 := 15
  /-- HOST_ID of the last hello (R467) -/
  hostId : BitVec 64 := 0
  deriving DecidableEq, Repr

/-- A retained firmware image (R385, R501). -/
structure FwImage where
  version : BitVec 32
  svn : BitVec 7
  /-- SHA-384 measurement -/
  measure : List Byte
  deriving DecidableEq, Repr

/-- Boot, security and keys of the device (R499 to R519). -/
structure Boot where
  src : BitVec 64 := 0
  len : BitVec 23 := 0
  locked : Bool := false
  /-- a firmware fetch is in progress (R500) -/
  fetching : Bool := false
  /-- boot cannot go on before a reset (R502 FAIL 1 and 2) -/
  dead : Bool := false
  aliveMs : BitVec 32 := 0
  /-- rack tick at t₀ of this boot -/
  t0 : BitVec 64 := 0
  attempts : BitVec 8 := 0
  fail : Byte := 0
  image : Option FwImage := none
  /-- fuses of the anti-rollback counter blown since manufacture, beyond those of Config (R511): nonvolatile -/
  blown : BitVec 7 := 0
  idOk : Bool := false
  ktEnabled : Bool := false
  debugOpen : Bool := false
  /-- the key nonce, how many were issued (R476), and the debug nonce (R514) -/
  keyNonce : Option (BitVec 128) := none
  keyNonces : BitVec 32 := 0
  dbgNonce : Option (BitVec 128) := none
  /-- owner-install slots 0 to 3: 97-byte keys, nonvolatile (R474) -/
  owner : Vector (Option (List Byte)) 4 := Vector.replicate 4 none
  /-- serial and certificates are readable: fuse load succeeded -/
  fuseOk : Bool := false
  /-- a self-reset is pending: its delay in ms (R496) -/
  selfReset : Option Nat := none
  deriving DecidableEq, Repr

/-- The pins and supplies (R484 to R498). -/
structure Pins where
  powered : Bool := true
  resetN : Bool := true
  pwrfailN : Bool := true
  refclk : Bool := true
  alive : Bool := false
  /-- ALIVE toggles (R386) -/
  aliveRun : Bool := false
  /-- THERMTRIP_N is driven low by the sequencer or the comparator -/
  thermtrip : Bool := false
  /-- rack tick of the last PWRFAIL_N assertion, while the device has not been reset since -/
  pwrfailAt : Option (BitVec 64) := none
  deriving DecidableEq, Repr

/-- The I3C target and the JTAG TAP (R505 to R507, R513). -/
structure Side where
  i3cAddr : Option (BitVec 7) := none
  selector : BitVec 16 := 0
  /-- boundary register: the preloaded cells, and whether EXTEST drives them -/
  boundary : BitVec 16 := 0
  extest : Bool := false
  deriving DecidableEq, Repr

/-- The rack tick of this device (R182 to R187). -/
structure Tick where
  count : BitVec 64 := 0
  latch : BitVec 32 := 0
  offsetPs : BitVec 16 := 0
  parent : BitVec 4 := 0
  actingRoot : Bool := false
  holdover : Bool := false
  aligned : Bool := false
  groupMax : BitVec 32 := 0
  groupLast : BitVec 32 := 0
  /-- exchanges averaged so far: twice the child's offset in 1/64 ns (R184) -/
  offs : List Int := []
  /-- tick of the last exchange that completed (R186) -/
  lastEx : BitVec 64 := 0
  /-- the one step of the count has been taken (R184) -/
  stepped : Bool := false
  /-- rate correction in parts per billion (R184, R186), and what it has gained or lost so far of one tick, in 10⁻⁹ -/
  ratePpb : Int := 0
  slewed : Int := 0
  /-- t₁ of the exchange in progress, in 1/64 ns, its path delay removed (R184) -/
  sent : Option Int := none
  deriving DecidableEq, Repr

end Sys2Proof.Machine
end

