-- ==== Sys2Proof/Machine/TypesOut.lean ====
section
/-! DEFINITION. What the block puts out: completions of host reads, writes to host memory, messages, crumbs, link
blocks, pin and sideband events, and the durations the spec gives in u. -/

namespace Sys2Proof.Machine

/-- Sideband messages of a UCIe module (R465, R466). -/
inductive SideMsg where
  | completion (q : QueueIx)
  | notice
  | faultState
  deriving DecidableEq, Repr

/-- Control-mesh messages (R167), with the object or tile they go to where that is not every tile or the management
complex. -/
inductive CtlMsg where
  | strobe
  | haltPass (p : Pass)
  | haltDevice
  | cancel (req : BitVec 12) (p : Pass) (variant : BitVec 6)
  | signal (i : SoIx) (n : BitVec 16) (poison : Bool)
  | signalErr (i : SoIx) (code : BitVec 4)
  | set (i : SoIx) (count limit : BitVec 24) (tclass : BitVec 3) (auto : Bool)
  | standin (t : TileIx) (target : Target)
  | fault (src : BitVec 8) (detail : BitVec 32)
  | numeric (layer : BitVec 14) (flags : BitVec 5)
  | mgmtRd (t : TileIx) (offset : BitVec 32)
  | mgmtWr (t : TileIx) (offset : BitVec 32) (data : Word64)
  | mgmtRsp (data : Word64)
  deriving DecidableEq, Repr

/-- A message at the node of a tile: its source, the input it came in by (the local one: from the tile, or from the management
complex at tile 0) and its flits, the header first (R166, R167). -/
structure CtlItem where
  src : TileIx
  input : NodePort
  flits : List (BitVec 16)
  deriving DecidableEq, Repr

/-- Link blocks and port events of a transmitter (chapter 09). -/
inductive LinkOut where
  | dark
  | light
  /-- the 96 bytes of a block that is no CRUMB (R319) -/
  | block (bytes : List Byte)
  /-- a CRUMB block with its LSEQ -/
  | crumb (lseq : BitVec 16) (bytes : List Byte)
  /-- a timestamp exchange, in 1/64 ns: the child's t₁; the parent's t₂ and t₃ (R184) -/
  | tstamp (stamps : List Int)
  deriving DecidableEq, Repr

/-- Messages to other devices of the rack whose crumb the spec does not lay out: the reserved positions carry them (R164, R258,
R271, R284, R343, R345, R347). -/
inductive RackMsg where
  | schedule (n : Notice) (s : Pass)
  | kvFailure (req : BitVec 12)
  | buddyClear
  | rebuildDone
  | portDown (pos : Pos) (reporter : Pos)
  | takeover (t : Pass)
  | mirrorRequest (oldest : Pass) (count : Nat)
  | replayRequest (m : Pass)
  | restored
  /-- a KV restore's copy of a page: of the lost slice, or of the sender's own for the mirror region (R353) -/
  | kvCopy (lost : Bool) (req page descriptor : Nat) (bytes : List Byte)
  /-- the load engine asks the buddy's mirror for the rows of a KV page's S-array (R100) -/
  | mirrorRead (pair : Nat) (t : TileIx) (array : BitVec 3)
  deriving DecidableEq, Repr

/-- One thing put out, oldest first in the log `out` of the state. -/
inductive Output where
  | readDone (m : UcieIx) (bytes : List Byte)
  | hostWrite (addr : BitVec 64) (bytes : List Byte)
  | hostFetch (addr : BitVec 64) (len : Nat)
  /-- a slice fetches a chunk's image over its UCIe module (R243) -/
  | chunkFetch (m : UcieIx) (addr : BitVec 64) (len : Nat)
  | sideband (m : UcieIx) (msg : SideMsg)
  /-- the node of a tile sends a message into the control mesh -/
  | control (t : TileIx) (msg : CtlMsg)
  /-- a message is delivered at a tile: to it, or to the management complex at tile 0 -/
  | delivered (t : TileIx) (flits : List (BitVec 16))
  | link (p : PortIx) (b : LinkOut)
  /-- a message to other devices over some ports; none where the spec does not say over which -/
  | rack (to' : List PortIx) (msg : RackMsg)
  | inBand (b : Byte)
  | i3cRead (bytes : List Byte)
  | tdo (bits : List Bool)
  | duration (u : Nat)
  /-- the reply of a buffer read, POISON beside it -/
  | bufReply (t : TileIx) (w : WordIx) (cls : BufClass) (data : BitVec 512) (poison : Bool)
  /-- a waiter is released: `met`, else with the timeout outcome -/
  | released (i : SoIx) (g : Guard) (met : Bool)
  /-- a node offers a crumb at an output -/
  | mesh (t : TileIx) (out : NodePort) (c : Crumb)
  /-- a port's ring region hands a crumb to its edge nodes, in order -/
  | region (p : PortIx) (c : Crumb)
  /-- a tile, ring region or load engine emits a crumb -/
  | crumb (c : Crumb)
  /-- a router's choice with its gate weights, and a candidate list -/
  | routed (layer : BitVec 14) (selected second : List Nat) (gates : List (BitVec 32))
  | candidates (c : List (BitVec 32 × BitVec 32))
  /-- a token with its reason, and FLAGS of the crumb that carries it (R161) -/
  | sampled (req : BitVec 12) (pos : BitVec 20) (token : BitVec 32) (reason flags : Byte)
  /-- the entry group starts a pass -/
  | started (pass : Pass) (req : BitVec 12) (kind : BitVec 2) (pos positions : Nat)
  /-- a frame of the host tunnel is delivered -/
  | frame (queue : BitVec 2) (bytes : List Byte)
  deriving DecidableEq, Repr

end Sys2Proof.Machine
end

