-- ==== Sys2Proof/Machine/TypesRack.lean ====
section
/-! DEFINITION. State of the optical ports and of this device's part in the rack (chapter 09). -/

namespace Sys2Proof.Machine

/-- Port states in the code order of OPT_PORTn_STAT.STATE (R355). -/
inductive PortState where
  | disabled | down | training | up | degraded
  deriving DecidableEq, Repr

/-- An optical port: OPT_PORTn_STAT, OPT_PORTn_CNT and OPT_PORTn_CTL (R355 to R357), and the working of its link. -/
structure Port where
  state : PortState := .down
  dark : Bool := true
  enable : Bool := true
  delayNs : BitVec 16 := 0
  peer : BitVec 9 := 0
  laneMap : BitVec 8 := 0
  version : BitVec 4 := 0
  peerPart : BitVec 2 := 0
  isVirtual : Bool := false
  mirrorOut : Bool := false
  splice : Bool := false
  detour : Bool := false
  peerAlive : Bool := false
  fecCorr : BitVec 24 := 0
  retries : BitVec 16 := 0
  downs : BitVec 8 := 0
  laneLosses : BitVec 8 := 0
  /-- crumbs discarded under R344; the register shows thousands -/
  discarded : Nat := 0
  /-- TRAIN phase reached (R326) -/
  phase : BitVec 2 := 0
  /-- sender: the LSEQ of the next CRUMB block and the last 1,024 of them, oldest first (R323) -/
  txSeq : BitVec 16 := 0
  sent : List (BitVec 16 × List Byte) := []
  /-- CRUMB blocks sent since the last IDLE among them (R322) -/
  sinceIdle : BitVec 7 := 0
  /-- receiver: the LSEQ due, and how many RETRYs in a row it has sent for it (0: none is missing) -/
  rxSeq : BitVec 16 := 0
  retrying : Nat := 0
  /-- a LANEMAP exchange in progress: the map it moves to (R330, R332) -/
  laneTo : Option (BitVec 8) := none
  /-- virtual-link number of a virtual port, with its spine port (R352) -/
  vlink : Option (PortIx × Byte) := none
  /-- passes in custody and which of the awaited acknowledges have arrived: (pass, peer, peer's buddy) (R335) -/
  custody : List (BitVec 32 × Bool × Bool) := []
  /-- crumbs kept in custody, with their pass -/
  kept : List (BitVec 32 × List Byte) := []
  /-- light stands on all 8 lanes; a new attempt waits for its 100 ms; this attempt has found a wiring mismatch (R326,
  R327) -/
  light : Bool := false
  retryWait : Bool := false
  wiring : Bool := false
  /-- this end asked for the LANEMAP exchange in progress (R330) -/
  laneAsk : Bool := false
  /-- the LSEQ the last RETRY named, and how many in a row named it (R323) -/
  lastRetry : Option (BitVec 16 × Nat) := none
  /-- the pass whose first crumb the region holds back for want of custody (R337) -/
  holding : Option (BitVec 32) := none
  /-- passes begun when the port went down, which the region completes itself (R346) -/
  synth : List (BitVec 32) := []
  /-- far-memory custody area (R337) -/
  custodyArea : Option Nat := none
  deriving DecidableEq, Repr

/-- The optical ports and the rack's state (chapter 09). -/
structure Opt where
  port : Sparse Port := []
  /-- OPT_CTL (R358) -/
  autoReinstate : Bool := true
  tunnelPref : Bool := false
  /-- OPT_TAKEOVER (R359) -/
  tkFirst : BitVec 32 := 0
  tkReruns : BitVec 8 := 0
  tkLost : Pos := 0
  tkState : BitVec 3 := 0
  /-- positions reported down, with the tick of the report and its reporter; positions declared lost (R345) -/
  reports : List (Pos × BitVec 64 × Pos) := []
  lost : List Pos := []
  /-- tick at which the takeover's loss was declared (R350) -/
  tkAt : BitVec 64 := 0
  /-- the buddy section's images are loaded (R347) -/
  tkLoaded : Bool := false
  /-- return armed at pass R (R353) -/
  returnAt : Option (BitVec 32) := none
  /-- a KV restore has started: B forwards to S what it writes, up to pass R (R353) -/
  restoring : Bool := false
  /-- after R, until BUDDY_OK sets: a LAST mirror record of the partner has been acknowledged, and one of this device's
  by the partner (R353) -/
  rejoin : Option (Bool × Bool) := none
  /-- entry mirror: passes from M on are copied to the buddy (R343) -/
  mirrorFrom : Option (BitVec 32) := none
  /-- crumbs of the oldest pass still to be discarded (R343 item 4) -/
  skip : Option (BitVec 32 × Nat) := none
  mirrorBase : Option Nat := none
  /-- words of mirror records whose window acknowledges are outstanding, in the order sent, by pass; a page-table change belongs to
  none (R336, R338, R339) -/
  mirrored : List (Option (BitVec 32) × Nat) := []
  /-- rows of KV pairs that a pass has written and that are not yet in a mirror record: pass, pair, row, the V array's from 288 on
  (R338) -/
  mirrorRows : List (BitVec 32 × Nat × Nat) := []
  /-- passes the device has left whose custody acknowledge waits for mirror records (R336) -/
  ackDue : List (BitVec 32) := []
  /-- passes of the partner whose LAST mirror record has arrived (R348) -/
  mirrorLast : List (BitVec 32) := []
  /-- a mirror record arriving at the far-memory region: its header word and the data words so far (R338) -/
  mirrorRx : Option (List Byte × List (List Byte)) := none
  tunnelQueues : BitVec 4 := 0
  deriving DecidableEq, Repr

end Sys2Proof.Machine
end

