-- ==== Sys2Proof/Machine/TypesServe.lean ====
section
/-! DEFINITION. State of recipes, passes, weight loading, sprinkle packs and the serving engine (chapters 06 to 08,
10). -/

namespace Sys2Proof.Machine

/-- A pass begun on this device and not yet behind its boundary (R206 to R208). -/
structure PassRec where
  pass : Pass
  req : BitVec 12
  variant : BitVec 6
  wepoch : Byte
  pos : BitVec 20
  positions : Nat
  /-- R206: 0 generation, 1 verify, 2 prompt chunk, 3 draft -/
  kind : BitVec 2
  began : BitVec 64
  deriving DecidableEq, Repr

/-- Staged states of R200, beside NONE. -/
inductive StagedState where
  | loaded
  | armed (a : Pass)
  deriving DecidableEq, Repr

/-- Recipes and passes (chapter 06). -/
structure Rcp where
  active : Option Recipe := none
  /-- the activation pass of the active recipe, and the REPOCH expected of passes before it (R205) -/
  activeFrom : Option Pass := none
  formerRepoch : Byte := 0
  staged : Option (Recipe × StagedState) := none
  lastReject : BitVec 5 := 0
  /-- code of the fallback section that runs: 0 none, 1 buddy, 8 + n port n (R224), and the one wanted at the next
  boundary (R221) -/
  fallback : BitVec 4 := 0
  fallbackNext : BitVec 4 := 0
  /-- a pass has begun since reset -/
  begun : Bool := false
  lastPass : BitVec 32 := 0
  passes : List PassRec := []
  draining : Bool := false
  /-- the drain wait before the armed recipe's pass A is over (R203) -/
  drained : Bool := false
  drainMs : BitVec 14 := 100
  collisions : BitVec 32 := 0
  streamWaits : BitVec 16 := 0
  streams : BitVec 16 := 0
  /-- resident streams by the number of their section, longest unused first -/
  resident : List Nat := []
  /-- selected cold experts whose stream starts at another router result, by ISSUE (R217, R218): layer, variant, entry, and the
  WEPOCH of the pass that selected them -/
  wanted : List (BitVec 14 × BitVec 6 × Nat × Byte) := []
  /-- sections that are being streamed -/
  streaming : List Nat := []
  /-- rows of streams still to be written: section, tile, S-array, row (R218) -/
  streamLeft : List (Nat × TileIx × BitVec 4 × Nat) := []
  deriving DecidableEq, Repr

/-- What has become of a chunk of a plan (R243 to R245): it waits for its slice, a slice fetches it over its UCIe module, it
is authenticated, or it has failed. Causes: 1 missing, 2 invalid, 3 corrupt, 4 plane write. -/
inductive ChunkState where
  | waiting
  | fetching (slice : UcieIx)
  | authenticated
  | failed (cause : Nat)
  deriving DecidableEq, Repr

/-- A segment of an authenticated chunk: where it goes and where its rows stand in the payload (R240). -/
structure Seg where
  tile : TileIx
  isS : Bool
  array : BitVec 4
  plane : BitVec 2
  first : Nat
  count : Nat
  offset : Nat
  deriving DecidableEq, Repr

/-- What the load engine is asked to stream: a stand-in's target, a streaming section's image of an epoch, or the next row of a
plane's write (R96, R218, R249). -/
inductive GoldenReq where
  | stream (sec : Nat) (wepoch : Byte)
  | standin (t : TileIx) (target : Target)
  | plane (t : TileIx) (array : BitVec 4) (plane : BitVec 2) (wepoch : Byte) (row : Nat)
  deriving DecidableEq, Repr

/-- A chunk-table entry and its progress (R234, R245, R250). -/
structure ChunkRec where
  addr : BitVec 64
  len : Nat
  role : Nat
  hash : List Byte
  state : ChunkState := .waiting
  tries : Nat := 0
  segs : List Seg := []
  deriving DecidableEq, Repr

/-- What identifies a weight epoch (R230, R236, R262). -/
structure Epoch where
  wepoch : Byte
  bank : Bool
  digest : List Byte
  layout : List Byte
  buddyOff : Bool
  deriving DecidableEq, Repr

/-- A plan: its area, S-array map and chunks (R233 to R237). -/
structure Plan where
  area : Nat
  smap : List Byte
  chunks : List ChunkRec
  resume : Bool
  initial : Bool
  deriving DecidableEq, Repr

/-- A content key in a key slot, and what it is bound to (R242). -/
structure ContentKey where
  wepoch : Byte
  key : List Byte
  layout : List Byte
  digest : List Byte
  deriving DecidableEq, Repr

/-- States of an incoming epoch (R232). -/
inductive IncomingState where
  | loading | complete
  | armed (w : Pass)
  deriving DecidableEq, Repr

/-- Weight loading (chapter 07). -/
structure Load where
  /-- the nonvolatile epoch table (R262) -/
  active : Option Epoch := none
  rebuildPending : Bool := false
  /-- the plan of the active epoch once it has been resent or loaded -/
  activePlan : Option Plan := none
  activeLive : Bool := false
  incoming : Option (Epoch × Plan × IncomingState) := none
  /-- the former epoch from the boundary into W until the drain ends -/
  old : Option (Epoch × Option Plan × Option ContentKey) := none
  switchPass : Pass := 0
  drainSo : Option SoIx := none
  /-- tiles that still have operations of passes before W (R258) -/
  drainLeft : List TileIx := []
  keyActive : Option ContentKey := none
  keyIncoming : Option ContentKey := none
  goldenOk : Bool := false
  buddyOk : Bool := false
  /-- this device has completed its rebuild; the buddy's notice has arrived (R258) -/
  rebuilt : Bool := false
  buddyNotice : Bool := false
  lastReject : BitVec 4 := 0
  retries : BitVec 8 := 0
  /-- LOAD_STAT.STATE (R267) -/
  state : BitVec 3 := 0
  /-- S-array rows of a plan still to be written: WEPOCH, tile, array, row -/
  sLeft : List (Byte × TileIx × BitVec 4 × Nat) := []
  /-- planes found bad at start-up, to be rewritten at resume (R263); the step of R264 that the resume is in, 0 to 3 for
  steps 1 to 4 -/
  rewrite : List (TileIx × Fin 17 × BitVec 2) := []
  resumeStep : Nat := 0
  /-- the rebuild of the buddy bank runs (R258) -/
  rebuilding : Bool := false
  /-- host images of S-array content that a stand-in's restoration waits for: WEPOCH, chunk, tile, array, re-fetches (R252) -/
  restores : List (Byte × Nat × TileIx × BitVec 3 × Nat) := []
  /-- what the load engine has been asked to stream and has not yet -/
  requests : List GoldenReq := []
  deriving DecidableEq, Repr

/-- A request-table entry (R273). -/
structure Entry where
  state : Byte := 0
  prio : Byte := 0
  variant : Byte := 0
  spidx : Byte := 0
  flags : Byte := 0
  draftMax : Byte := 0
  draftCur : Byte := 0
  rejectRun : Byte := 0
  len : BitVec 32 := 0
  promptLen : BitVec 32 := 0
  maxLen : BitVec 32 := 0
  shared : BitVec 32 := 0
  deadline : BitVec 64 := 0
  seed : BitVec 64 := 0
  prefixRef : BitVec 32 := 0xFFFF_FFFF
  wepoch : Byte := 0
  repoch : Byte := 0
  status : Byte := 0
  offCount : Byte := 0
  tokensOut : BitVec 32 := 0
  cancelPass : BitVec 32 := 0
  promptUnit : BitVec 32 := 0
  deriving DecidableEq, Repr

/-- The serving area's regions, as byte offsets and counts (R272). -/
structure Area where
  table : Nat
  pages : Nat
  frames : Nat
  frameCount : Nat
  prompt : Nat
  promptUnits : Nat
  ring : Nat
  ringSize : Nat
  nodes : Nat
  nodeCount : Nat
  deriving DecidableEq, Repr

/-- A change of the entry group's scheduling state that waits for pass S (R271). -/
structure Change where
  at' : Pass
  notice : Notice
  deriving DecidableEq, Repr

/-- A pass the entry group has started and that has not returned (R292 to R304). -/
structure OutPass where
  pass : Pass
  req : BitVec 12
  kind : BitVec 2
  pos : Nat
  positions : Nat
  reruns : Nat := 0
  probe : Bool := false
  lastChunk : Bool := false
  /-- the draft tokens that a verify pass carries (R303) -/
  drafts : List (BitVec 32) := []
  deriving DecidableEq, Repr

/-- The serving engine (chapter 08). -/
structure Serve where
  area : Option Area := none
  hot : Sparse (Option Entry) := []
  /-- entries not FREE -/
  used : Nat := 0
  pairsUsed : List Nat := []
  framesUsed : List Nat := []
  /-- pairs and frames owned by entries: (request, page, descriptor) -/
  owned : List (BitVec 12 × Nat × Nat) := []
  /-- nodes an entry counts in their REFS (R286) -/
  refs : List (BitVec 12 × Nat) := []
  /-- runs of prompt-store units in use: first unit, count -/
  promptUsed : List (Nat × Nat) := []
  sparams : Sparse (Option (List Byte)) := []
  prefixKey : Option (List Byte) := none
  lastReject : BitVec 5 := 0
  head : BitVec 32 := 0
  tail : BitVec 32 := 0
  accepted : BitVec 32 := 0
  verify : BitVec 16 := 0
  probes : BitVec 16 := 0
  /-- entry group: the next pass number, once the first activation has set it (R207) -/
  nextPass : Option Pass := none
  changes : List Change := []
  eligible : List (BitVec 12) := []
  out : List OutPass := []
  /-- passes to run again (R349): same request and positions, and how often run -/
  rerun : List OutPass := []
  /-- draft tokens of requests for their next verify pass, and whether the draft model gives no more (R303) -/
  drafts : List (BitVec 12 × List (BitVec 32) × Bool) := []
  /-- requests whose next pass has been withheld for want of room in the token ring, each an event (R302) -/
  withheld : List (BitVec 12) := []
  /-- the entry group starts no pass until a spare holds the lost position (R351) -/
  stopped : Bool := false
  /-- output group: candidates of a request and position: own or received, by slice -/
  cands : List (BitVec 12 × BitVec 20 × BitVec 2 × List (BitVec 32 × BitVec 32)) := []
  deriving DecidableEq, Repr

/-- An entry of a sprinkle pack (R370), its inputs and test plane read from the data area. -/
structure PackEntry where
  kind : Nat
  op : Nat
  tile : Option TileIx
  target : Byte
  plane : BitVec 2
  group : BitVec 2
  blocks : List (List Byte)
  testPlane : Option (List (BitVec 1024))
  digest : BitVec 32
  deriving DecidableEq, Repr

/-- A sprinkle pack (R369). -/
structure Pack where
  bound : Bool
  seq : BitVec 32
  epoch : List Byte
  entries : List PackEntry
  deriving DecidableEq, Repr

/-- Sprinkles (R363 to R372): active packs, those that wait for a pass boundary, entries that failed once, and the
coverage counts of R367 by tile and target number. -/
structure Spk where
  unbound : Option Pack := none
  bound : Option Pack := none
  unboundNext : Option Pack := none
  boundNext : Option Pack := none
  suspect : List (TileIx × Nat × Bool) := []
  cover : List (TileIx × Nat × BitVec 32) := []
  /-- passes begun; a coverage count is this number less the number kept in `cover` -/
  begun : BitVec 32 := 0
  /-- entries completed since their target's count last restarted -/
  completed : List (TileIx × Nat × Nat) := []
  deriving DecidableEq, Repr

end Sys2Proof.Machine
end

