-- ==== Sys2Proof/Machine/TypesTile.lean ====
section
/-! DEFINITION. State of the tile grid: N-arrays and S-arrays with their nonvolatile tables, stand-ins and writes
(chapter 03). Keys of the flat tables are computed in `Machine/Arrays.lean`. -/

namespace Sys2Proof.Machine

/-- A plane record's fields (R69). The record itself stands in row 319 of its plane. -/
structure PlaneRec where
  format : BitVec 16 := 1
  digest : BitVec 64 := 0
  hours : BitVec 32 := 0
  wepoch : BitVec 8 := 0
  kind : BitVec 8 := 0
  writeCount : BitVec 24 := 0
  deriving DecidableEq, Repr

/-- A tile's logical-to-physical N-array map, its spare (31: none left) and its retired arrays (R64, R108). -/
structure TileMap where
  map : Vector (BitVec 5) 16 := Vector.ofFn fun i => BitVec.ofNat 5 i.val
  spare : BitVec 5 := 16
  retired : BitVec 17 := 0
  /-- the plane that the stand-in serves permanently (R102) -/
  served : Option Target := none
  deriving DecidableEq, Repr

/-- The stand-in's states (R103). -/
inductive StandinState where
  | free | loading | serving | servingRefresh | failed
  deriving DecidableEq, Repr

/-- The stand-in of a tile: its state, target, the rows written since the order and how many its content has, whether the
order was a refresh's (R99), and whether it serves its plane permanently (R102). -/
structure Standin where
  state : StandinState := .free
  target : Option Target := none
  rows : Nat := 0
  need : Nat := 288
  refresh : Bool := false
  permanent : Bool := false
  deriving DecidableEq, Repr

/-- Why a plane write was queued, in the priority order of R82. -/
inductive WriteWhy where
  | repair | refreshInPlace | rotation | testPlane | dormant | load
  deriving DecidableEq, Repr

/-- A queued or running plane write: the rows that have arrived and are not yet programmed, how many are programmed (R83,
R249), and the final fields of its record. -/
structure PlaneJob where
  tile : TileIx
  phys : Fin 17
  plane : BitVec 2
  why : WriteWhy
  running : Bool := false
  rows : List (BitVec 1024) := []
  done : Nat := 0
  kind : BitVec 8 := 0
  wepoch : BitVec 8 := 0
  digest : BitVec 64 := 0
  /-- the chunk of the plan whose segment this write carries, and that chunk's role -/
  chunk : Option Nat := none
  role : Nat := 0
  /-- the logical array and bank-relative plane the rows are named by -/
  logical : BitVec 4 := 0
  rel : BitVec 2 := 0
  deriving DecidableEq, Repr

/-- A repair or rotation of a tile: the logical array moving to the spare, the planes still to be written, and whether
the former array is retired (repair) or becomes the spare (rotation) (R98, R99). -/
structure Move where
  logical : BitVec 4
  toPhys : Fin 17
  left : List (BitVec 2)
  retire : Bool
  /-- the plane whose refresh the rotation is -/
  refreshing : Option (Fin 17 × BitVec 2) := none
  deriving DecidableEq, Repr

/-- An S-array scrub or N-array scrub walk and what its plane has shown so far (R91, R93). -/
structure ScrubPos where
  array : Nat := 0
  plane : Nat := 0
  row : Nat := 0
  weak : Bool := false
  /-- rows of the plane that were sensed wrong, with the cells that read wrong -/
  flips : List (Nat × BitVec 1024) := []
  /-- a plane read out of turn for an early scrub (R79) -/
  early : Option (Fin 17 × BitVec 2) := none
  deriving DecidableEq, Repr

/-- The volatile array state of a tile. -/
structure TileArr where
  standin : Standin := {}
  held : List Target := []
  sFailed : BitVec 9 := 0
  spareState : BitVec 3 := 0
  move : Option Move := none
  /-- every plane of the move is written: the map changes at the next pass boundary -/
  moveReady : Bool := false
  refreshQ : List (Fin 17 × BitVec 2) := []
  /-- planes queued for a scrub out of turn: by an icing minority (R79), or skipped and now written (R91) -/
  earlyScrub : List (Fin 17 × BitVec 2) := []
  /-- planes the walk has skipped while they were being written (R91) -/
  skipped : List (Fin 17 × BitVec 2) := []
  /-- a plane refreshed in place whose write is complete: it serves again at the next pass boundary (R99) -/
  refreshDone : Bool := false
  exhausted : Bool := false
  /-- a power cycle has gone over a stand-in that has FAILED: the next start-up check may free it (R103) -/
  recheck : Bool := false
  nv : ScrubPos := {}
  sa : ScrubPos := {}
  /-- dormant planes being rewritten from the golden image: buddy protection is suspended (R93) -/
  dormant : List (Fin 17 × BitVec 2) := []
  /-- the test plane of the active unbound pack stands in plane 3 of the spare, in the stand-in (R368) -/
  spareTest : Bool := false
  standinTest : Bool := false
  /-- the last row read delivered: array, row, its bits and, under margin read, its weak columns (R78, R80) -/
  rowRead : Option (ArrRef × Nat × BitVec 1024 × List Nat) := none
  deriving DecidableEq, Repr

/-- A sprinkle under way on an array: the pack's entry, its blocks still to run, the digest words of those that have, and
the votes' findings (R364, R365). -/
structure SprinkleRun where
  entry : Nat
  bound : Bool
  left : List (List Byte)
  words : List (BitVec 32) := []
  minority : Nat := 0
  split : Nat := 0
  deriving DecidableEq, Repr

/-- A beat as the compiled order gives it, its operands read. -/
structure Beat where
  /-- as the recipe names it, and as stand-in orders name it -/
  name : Target
  target : Target
  fmt : WFmt
  group : BitVec 2
  plane : BitVec 2
  block : List Byte
  scale : Byte
  poison : Bool
  acc : BitVec 11
  pass : Pass
  layer : BitVec 14
  /-- a sprinkle's beat: its run (R364) -/
  sprinkle : Option SprinkleRun := none
  deriving DecidableEq, Repr

/-- The operation an array carries out (R72); a plane select may go before a sprinkle's beat (R364), and a scrub slot's row
read names the plane and row it reads. -/
inductive ArrOp where
  | beat (b : Beat)
  | select (plane : BitVec 2) (next : Option Beat)
  | scrub (plane : BitVec 2) (row : BitVec 9)
  | rowRead (row : BitVec 9) (margin : Bool)
  | rowWrite (row : BitVec 9) (mask : BitVec 16) (data : BitVec 1024) (pass : Option Pass)
  deriving DecidableEq, Repr

/-- A sector's governor: its share, arrays inside a beat, waiting beats, beats counted toward a proof, and whether a
proof is running (R22, R24, R403). Waiting beats stand in the order in which they reached the governor; the flag says that
the beat's wait for a place has been tallied. -/
structure Sector where
  share : BitVec 10 := 0
  inBeat : BitVec 10 := 0
  waiting : List (TileIx × ArrRef × Beat × Bool) := []
  counted : BitVec 8 := 0
  /-- proofs are being inserted for the throttle level -/
  throttle : Bool := false
  proof : Bool := false
  deriving DecidableEq, Repr

/-- A half row of a weight chunk that has arrived at a tile and waits for its other half (R247). -/
structure HalfRow where
  tile : TileIx
  cls : BitVec 2
  array : BitVec 4
  plane : BitVec 2
  row : BitVec 9
  half : Bool
  data : BitVec 512
  deriving DecidableEq, Repr

/-- The working of a tile through its part of the compiled order (R110): the pass it works on, the operations of that
pass still to issue, the targets whose operations have begun, those it runs on the stand-in (R97), and its last pass. -/
structure TileRun where
  pass : Option Pass := none
  ops : List OrderItem := []
  touched : List Target := []
  onStandin : List Target := []
  last : Option Pass := none
  /-- the outcome of the guard that the operation at the head waited on (R133) -/
  passed : Option Bool := none
  /-- the recipe-defined guard of the next operation timed out: its results are POISON (R133) -/
  late : Bool := false
  /-- an operation of the pass went on after a timeout outcome: what the tile produces for the pass from then on is POISON
  (R133, R179) -/
  spoiled : Bool := false
  deriving DecidableEq, Repr

/-- A router's choice in a layer of a pass: the selected entries that run in the first expert stage, and those that run in
the second, of all positions (R215). -/
structure RouteChoice where
  pass : Pass
  layer : BitVec 14
  variant : BitVec 6
  selected : List Nat
  second : List Nat
  deriving DecidableEq, Repr

/-- A statistical monitor's open window (R363): minimum, maximum and sum in units of 2⁻²⁴, terms, passes. -/
structure Monitor where
  tile : TileIx
  target : Target
  layer : BitVec 14
  min : Int
  max : Int
  sum : Int
  count : Nat
  passes : Nat
  lastPass : Pass
  deriving DecidableEq, Repr

/-- A numeric status word (R60). -/
structure NumStat where
  ovf : BitVec 24 := 0
  sat : BitVec 24 := 0
  flags : BitVec 5 := 0
  deriving DecidableEq, Repr

/-- Arrays of the die (chapter 03). -/
structure Arr where
  /-- rows 0 to 319 of every N-array plane, check rows and plane records among them: nonvolatile (R66) -/
  cells : Sparse (BitVec 1024) := []
  /-- array maps and retired tables: nonvolatile -/
  maps : Sparse TileMap := []
  /-- rows 0 to 323 of every S-array, check rows among them (R70) -/
  sCells : Sparse (BitVec 1024) := []
  selected : Sparse (BitVec 2) := []
  busy : Sparse (Option ArrOp) := []
  tile : Sparse TileArr := []
  writes : List PlaneJob := []
  halves : List HalfRow := []
  /-- S-array rows that have arrived and wait for their array (R90): tile, S-array, row, data -/
  rowQ : List (TileIx × Fin 9 × Nat × BitVec 1024) := []
  sector : Sparse Sector := []
  run : Sparse TileRun := []
  /-- operations of the vector unit that wait for an operand, by tile, in order of issue (R110, R146) -/
  vecQ : List (TileIx × Instr) := []
  routes : List RouteChoice := []
  monitors : List Monitor := []
  numeric : Sparse NumStat := []
  /-- SYS_NV_WRITE, SYS_SCRUB, SYS_ARRAY_COUNT (R104, R105, R107) -/
  wearWarn : BitVec 14 := 9000
  slots : BitVec 12 := 2048
  nvHours : BitVec 8 := 24
  sMs : BitVec 10 := 100
  refreshT : BitVec 4 := 1
  margin : BitVec 4 := 3
  sEn : Bool := true
  nvEn : Bool := true
  refreshes : BitVec 32 := 0
  substitutions : BitVec 16 := 0
  writeFails : BitVec 16 := 0
  deriving DecidableEq, Repr

/-- A buffer word: its data, its eight check bytes and its poison bit (R119). -/
structure BufWord where
  data : BitVec 512 := 0
  check : BitVec 64 := 0
  poison : Bool := false
  deriving DecidableEq, Repr

/-- A tile's counts of its buffer word (R151). -/
structure TileBuf where
  stalls : BitVec 24 := 0
  sbe : BitVec 8 := 0
  ded : BitVec 8 := 0
  underruns : BitVec 8 := 0
  overruns : BitVec 8 := 0
  deriving DecidableEq, Repr

/-- A bank's timing: the next free access slot, and the accesses given slots that may still be ahead, in order: slot, word,
whether it is a read (R116 to R118). -/
structure Bank where
  next : Nat := 0
  sched : List (Nat × WordIx × Bool) := []
  deriving DecidableEq, Repr

/-- A fill or copy of a tile (R120): whether its sources have been read, the words still to be written, in the running
order, and whether a word was discarded. -/
structure FillCopy where
  copy : Option WordIx
  start : WordIx
  length : BitVec 12
  value : Word64
  so : Option (BitVec 3)
  started : Bool := false
  left : List (WordIx × BitVec 512 × Bool) := []
  lost : Bool := false
  /-- the pass whose order issued it; none: the management complex -/
  pass : Option Pass := none
  deriving DecidableEq, Repr

/-- The tile buffers (R112 to R122, R134, R147, R151). -/
structure Buf where
  words : Sparse BufWord := []
  /-- corrected words that wait for a free slot to be written back (R119) -/
  backs : Sparse (Option BufWord) := []
  bank : Sparse Bank := []
  tile : Sparse TileBuf := []
  /-- fills and copies of a tile, the running one first -/
  engine : Sparse (List FillCopy) := []
  /-- compiled operands that have passed their slot's guard, met or not, and are still to be read (R110, R133) -/
  grants : List (TileIx × WordIx × Bool) := []
  slots : Sparse SlotDesc := []
  /-- TILE_BUF_STAT (R147) -/
  stalls : BitVec 32 := 0
  sbe : BitVec 16 := 0
  ded : BitVec 16 := 0
  deriving DecidableEq, Repr

/-- States of a sync object, in the code order of R124. -/
inductive SoState where
  | off | wait | met | timeout | error
  deriving DecidableEq, Repr

/-- A buffer access that waits on a slot's guard (R136), with the access slot it reached its bank in when it did not wait. -/
inductive BufAccess where
  | read (t : TileIx) (w : WordIx) (cls : BufClass) (last : Bool) (upset : BitVec 576) (slot : Option Nat)
  | write (t : TileIx) (w : WordIx) (cls : BufClass) (data : BitVec 512) (poison : Bool) (slot : Option Nat)
  /-- a compiled operation of the tile waits for this operand word (R110) -/
  | operand (t : TileIx) (w : WordIx)
  /-- the operation at the head of a lane of the tile's order waits on its recipe-defined guard (R133) -/
  | order (t : TileIx) (chunk : Bool)
  deriving DecidableEq, Repr

/-- An operation that waits on a sync object: its guard, and the buffer access it carries out when released. -/
structure Waiter where
  guard : Guard
  access : Option BufAccess := none
  deriving DecidableEq, Repr

/-- A sync object (R124), its running timer (strobes counted, timeout in µs when it started) and its waiters. -/
structure SyncObj where
  limit : BitVec 24 := 0
  count : BitVec 24 := 0
  err : BitVec 4 := 0
  auto : Bool := false
  tclass : BitVec 3 := 0
  state : SoState := .off
  timer : Option (Nat × Nat) := none
  waiters : List Waiter := []
  deriving DecidableEq, Repr

/-- The sync objects, SO_STAT and SO_TCLASSn (R124, R130, R148, R149). -/
structure So where
  obj : Sparse SyncObj := []
  underruns : BitVec 16 := 0
  overruns : BitVec 16 := 0
  errors : BitVec 16 := 0
  stray : BitVec 16 := 0
  tclass : Vector (BitVec 24) 8 := #v[20, 50, 100, 1000, 20, 20, 20, 20]
  deriving DecidableEq, Repr

/-- A vector value: 64 lanes of 32 bits, and POISON (R119, R138). A register that nothing has written holds 0 without POISON
(DESIGN CHOICE, log entry 2). -/
structure VecVal where
  lanes : Vector (BitVec 32) 64 := Vector.replicate 64 0
  poison : Bool := false
  deriving DecidableEq, Repr

/-- An accumulator of the accumulator file (R53, R109), the pass whose sum it holds, and whether a poisoned operand has
gone into it. -/
structure Acc where
  value : BitVec 80 := 0
  pass : Pass := 0
  poison : Bool := false
  deriving DecidableEq, Repr

/-- The vector units and accumulator files (R109, R138). -/
structure Vu where
  reg : Sparse VecVal := []
  acc : Sparse Acc := []
  deriving DecidableEq, Repr

/-- A sector's pace registers (R181). -/
structure Pace where
  slow : Bool := false
  uMax : BitVec 16 := 0
  u : BitVec 16 := 0
  deriving DecidableEq, Repr

/-- A host-tunnel frame being assembled (R354). -/
structure TunnelRx where
  seq : BitVec 32
  length : Nat
  next : Nat
  bytes : List Byte
  bad : Bool
  deriving DecidableEq, Repr

/-- The fabric: meshes, windows, halts (chapter 05). -/
structure Fab where
  halted : List Pass := []
  deviceHalt : Bool := false
  pace : Sparse Pace := []
  /-- input registers, by 5 × tile + input: (tick of arrival, crumb), oldest first -/
  inputs : Sparse (List (BitVec 64 × Crumb)) := []
  /-- where the order lists stand, by 5 × tile + output: 0 between passes, n + 1 at position n; and the pass that each is at,
  or went through last (R155) -/
  listPos : Sparse Nat := []
  listPass : Sparse (Option Pass) := []
  /-- slots of prompt positions filled for a chunk that runs dry (R171, R307) -/
  promptOut : List (TileIx × NodePort × Pass × BitVec 14) := []
  /-- crumbs between a sector and a ring region, 8 at most, by 5 × tile + output and by 5 × tile + input: with their ROUTE on
  the way out, with the positions of their pass and their wire flips on the way in (R20) -/
  fifoOut : Sparse (List (Byte × Crumb)) := []
  fifoIn : Sparse (List (Crumb × Nat × BitVec 704)) := []
  inWin : Sparse InWin := []
  outWin : Sparse OutWin := []
  /-- cancels a tile holds: request and first cancelled pass (R170) -/
  cancels : List (BitVec 12 × Pass) := []
  /-- FLAGS a tile has consumed with the crumbs of a pass, which it copies into those it emits (R161) -/
  marks : List (TileIx × Pass × Byte) := []
  /-- data crumbs that have come in on the entry port, by pass (R343) -/
  entered : List (Pass × Nat) := []
  /-- the tick at which a pass's first crumb came in on the entry port, and its crumbs handed to the exit port (R187) -/
  latStart : List (Pass × BitVec 64) := []
  exited : List (Pass × Nat) := []
  /-- control-mesh messages that wait at a node's output, by 5 × tile + output, in the order in which they came; the input
  that had its turn last in each class, by that key and class (R166, R168) -/
  ctl : Sparse (List CtlItem) := []
  ctlTurn : Sparse Nat := []
  /-- the tick of a tile's last FAULT or NUMERIC message (R168) -/
  lastMsg : Sparse (Option (BitVec 64)) := []
  tunnelRx : Sparse (Option TunnelRx) := []
  tunnelTx : BitVec 32 := 0
  /-- MGMT_RD messages whose answer is awaited (R167) -/
  mgmtReads : List (TileIx × BitVec 32) := []
  deriving DecidableEq, Repr

end Sys2Proof.Machine
end

