-- ==== Sys2Proof/Machine/State.lean ====
section
/-! DEFINITION. The state of the block, its faults and refusals, and the state after reset. -/

namespace Sys2Proof.Machine

/-- Everything of the block but far memory and the queue of waiting commands. -/
structure Chip where
  sys : Sys := {}
  flt : Flt := {}
  hk : Hk := {}
  cal : Cal := {}
  evr : Evr := {}
  mbx : Mbx := {}
  boot : Boot := {}
  pins : Pins := {}
  side : Side := {}
  tick : Tick := {}
  arr : Arr := {}
  buf : Buf := {}
  so : So := {}
  vu : Vu := {}
  fab : Fab := {}
  rcp : Rcp := {}
  load : Load := {}
  serve : Serve := {}
  spk : Spk := {}
  opt : Opt := {}
  /-- what the block has put out, oldest first: the model's own log (entry 3) -/
  out : List Output := []
  /-- counter applied to the opaque free-value functions of Config: the model's own (entry 4) -/
  free : Nat := 0
  deriving DecidableEq, Repr

/-- The machine: the block, far memory (48 GiB, R8) and the commands waiting, first in, first out. -/
structure State where
  chip : Chip := {}
  far : List Host.Cell := []
  pending : List Instr := []
  deriving DecidableEq, Repr

/-- Stops of the machine. -/
inductive Fault where
  /-- Raised by a transfer crumb that names a far-memory address at or above 48 GiB, where the spec gives far memory no
  byte (R8). Safe: the machine stops where the hardware's behaviour is not given. -/
  | farMemoryHole
  deriving DecidableEq, Repr

/-- Refusals of the machine. -/
inductive Refusal where
  /-- Answered by `exec` for a command whose meaning is not written. Safe. -/
  | notModelled (mnemonic : String)
  deriving DecidableEq, Repr

/-- The machine right after reset: RESET_N has just risen, power and REFCLK are present (R492, R499). -/
def State.reset : State := {}

end Sys2Proof.Machine
end

