-- ==== Sys2Proof/Machine/Ops.lean ====
section
/-! DEFINITION. The named operations over far memory, buffer words, queues and the output log. Every read and write of
these stores goes through them. -/

namespace Sys2Proof.Machine

/-- What ends a meaning: always the next state but where a fault is named. -/
abbrev Result := Host.Outcome State Fault Refusal

/-- The next state with the chip rewritten: far memory and the queue stay (a frame by form). -/
def State.onChip (s : State) (f : Chip → Chip) : Result := .next { s with chip := f s.chip }

/-- The next state with chip and far memory rewritten. -/
def State.onBoth (s : State) (f : Chip → List Host.Cell → Chip × List Host.Cell) : Result :=
  let r := f s.chip s.far
  .next { s with chip := r.1, far := r.2 }

/-- The device runs: powered, out of reset. -/
def Chip.on (c : Chip) : Bool := c.pins.powered && c.pins.resetN

/-- Append to the log of outputs. -/
def Chip.emit (c : Chip) (o : Output) : Chip := { c with out := c.out ++ [o] }

/-- Append several outputs in order. -/
def Chip.emits (c : Chip) (os : List Output) : Chip := { c with out := c.out ++ os }

/-- The load engine starts a fetch; while PWRFAIL_N is low it starts none (R494). -/
def Chip.startFetch (c : Chip) (o : Output) : Chip := if c.pins.pwrfailN then c.emit o else c

/-- Advance the counter of free values. -/
def Chip.tickFree (c : Chip) : Chip := { c with free := c.free + 1 }

/-- Size of far memory: two stacks of 24 GiB (R8). -/
def farSize : Nat := 48 * 2 ^ 30

/-- What a far-memory byte that nothing has written reads as (DESIGN CHOICE, log entry 2). -/
def farDefault (_ : Nat) : Byte := 0

/-- Read one byte of far memory. -/
def farByte (m : List Host.Cell) (a : Nat) : Byte := sget farDefault m a

/-- Read `n` bytes of far memory. -/
def farRead (m : List Host.Cell) (a n : Nat) : List Byte := (List.range n).map fun i => farByte m (a + i)

/-- Write bytes to far memory; a byte at or above its end is not written. -/
def farWrite (m : List Host.Cell) (a : Nat) : List Byte → List Host.Cell
  | [] => m
  | b :: bs => if a < farSize then farWrite (sset farDefault m a b) (a + 1) bs else m

/-- The canonical form of far memory. -/
def Memory.wf (m : List Host.Cell) : Bool := swf farDefault m

/-- The key of a buffer word. -/
def bufKey (t : TileIx) (w : WordIx) : Nat := t.toNat * 2048 + w.toNat

/-- A buffer word before anything has been written to it (DESIGN CHOICE, log entry 2): zero data with its check bytes. -/
def bufDefault (_ : Nat) : BufWord := {}

/-- The stored word, uncorrected. -/
def Chip.bufWord (c : Chip) (t : TileIx) (w : WordIx) : BufWord := sget bufDefault c.buf.words (bufKey t w)

/-- Store a word. -/
def Chip.bufStore (c : Chip) (t : TileIx) (w : WordIx) (x : BufWord) : Chip :=
  { c with buf := { c.buf with words := sset bufDefault c.buf.words (bufKey t w) x } }

/-- Store data with the check bytes that a write computes (R119). -/
def Chip.bufPut (c : Chip) (t : TileIx) (w : WordIx) (data : BitVec 512) (poison : Bool) : Chip :=
  c.bufStore t w { data, check := check512 data, poison }

/-- The bytes of a buffer word as stored, byte 0 first, corrected where the code corrects (R119). -/
def Chip.bufBytes (c : Chip) (t : TileIx) (w : WordIx) : List Byte :=
  let x := c.bufWord t w
  leBytes 64 (decode512 x.data x.check).1.toNat

/-- 64 bytes as a buffer word's data. -/
def wordOfBytes (bs : List Byte) : BitVec 512 := BitVec.ofNat 512 (leNat bs)

/-- Replace bytes of a list from offset `off`. -/
def setBytes (bs : List Byte) (off : Nat) (new : List Byte) : List Byte :=
  bs.take off ++ new.take (bs.length - off) ++ bs.drop (off + new.length)

/-- The low 32 bits of the rack tick, a fault event's stamp (R376). -/
def Chip.stamp (c : Chip) : BitVec 32 := c.tick.count.setWidth 32

/-- The UCIe modules that are up. -/
def Chip.upModules (c : Chip) : List UcieIx :=
  [(0 : UcieIx), 1, 2, 3].filter fun m => c.sys.ucieUp.getLsbD m.toNat

/-- A port's record. -/
def Chip.port (c : Chip) (p : PortIx) : Port := sget (fun _ => {}) c.opt.port p.toNat

/-- Rewrite a port's record. -/
def Chip.modPort (c : Chip) (p : PortIx) (f : Port → Port) : Chip :=
  { c with opt := { c.opt with port := smod (fun _ => {}) c.opt.port p.toNat f } }

/-- All ports, X+ to SP1. -/
def allPorts : List PortIx := [0, 1, 2, 3, 4, 5, 6, 7]

/-- The link carries crumbs: UP or DEGRADED. -/
def Port.isUp (p : Port) : Bool := p.state == .up || p.state == .degraded

/-- The volatile array state of a tile. -/
def Chip.tileArr (c : Chip) (t : TileIx) : TileArr := sget (fun _ => {}) c.arr.tile t.toNat

/-- Rewrite it. -/
def Chip.modTileArr (c : Chip) (t : TileIx) (f : TileArr → TileArr) : Chip :=
  { c with arr := { c.arr with tile := smod (fun _ => {}) c.arr.tile t.toNat f } }

/-- A queue pair's record. -/
def Chip.mq (c : Chip) (q : QueueIx) : MbxQueue := sget (fun _ => {}) c.mbx.q q.toNat

/-- Rewrite a queue pair. -/
def Chip.modMq (c : Chip) (q : QueueIx) (f : MbxQueue → MbxQueue) : Chip :=
  { c with mbx := { c.mbx with q := smod (fun _ => {}) c.mbx.q q.toNat f } }

/-- A queue is enabled (R480). -/
def Chip.qEnabled (c : Chip) (q : QueueIx) : Bool := c.mbx.qen.getLsbD q.toNat

end Sys2Proof.Machine
end

