-- ==== Sys2Proof/Machine/CrumbOps.lean ====
section
/-! DEFINITION. The crumb's header as bits, its CRC, its flags (R159 to R162). -/

namespace Sys2Proof.Machine

/-- Header bits [111:0] (R159). -/
def CrumbHeader.low (h : CrumbHeader) : Nat :=
  place 0 14 h.slot.toNat + place 14 12 h.req.toNat + place 26 32 h.pass.toNat + place 58 8 h.wepoch.toNat
    + place 66 8 h.repoch.toNat + place 74 6 h.variant.toNat + place 80 4 h.kind.toNat + place 84 8 h.flags.toNat
    + place 92 20 h.pos.toNat

/-- The CRC the header's fields give (R162). -/
def CrumbHeader.crcOf (h : CrumbHeader) : BitVec 16 := crc16 (leBytes 14 (CrumbHeader.low h))

/-- The header with its CRC recomputed. -/
def CrumbHeader.sealed (h : CrumbHeader) : CrumbHeader := { h with crc := CrumbHeader.crcOf h }

/-- A header from 16 little-endian bytes (R159). -/
def headerOf (bs : List Byte) : CrumbHeader :=
  let x := leNat (bs.take 16)
  { slot := BitVec.ofNat 14 (field x 0 14), req := BitVec.ofNat 12 (field x 14 12), pass := BitVec.ofNat 32 (field x 26 32)
    wepoch := BitVec.ofNat 8 (field x 58 8), repoch := BitVec.ofNat 8 (field x 66 8)
    variant := BitVec.ofNat 6 (field x 74 6), kind := BitVec.ofNat 4 (field x 80 4), flags := BitVec.ofNat 8 (field x 84 8)
    pos := BitVec.ofNat 20 (field x 92 20), crc := BitVec.ofNat 16 (field x 112 16) }

/-- A header's 16 bytes. -/
def headerBytes (h : CrumbHeader) : List Byte := leBytes 16 (CrumbHeader.low h + place 112 16 h.crc.toNat)

/-- A crumb of 80 bytes. -/
def crumbOf (bs : List Byte) : Crumb := { hdr := headerOf bs, payload := bytesAt bs 16 64 }

/-- A crumb's 80 bytes, its payload filled up or cut to 64 bytes. -/
def crumbBytes (c : Crumb) : List Byte :=
  headerBytes c.hdr ++ (c.payload ++ List.replicate 64 0#8).take 64

/-- The FLAGS bits of R161. -/
def flagCancel : Nat := 0
def flagFinal : Nat := 1
def flagPoison : Nat := 2
def flagThrottled : Nat := 3
def flagReplay : Nat := 4
def flagSpec : Nat := 5
def flagPrompt : Nat := 6
def flagFallback : Nat := 7

/-- A crumb carries a flag. -/
def hasFlag (c : Crumb) (i : Nat) : Bool := c.hdr.flags.getLsbD i

/-- Set a flag and recompute the CRC (R162). -/
def setFlag (c : Crumb) (i : Nat) : Crumb :=
  { c with hdr := CrumbHeader.sealed { c.hdr with flags := c.hdr.flags ||| (1#8 <<< i) } }

/-- POISON set, the CRC recomputed. -/
def poisonCrumb (c : Crumb) : Crumb := setFlag c flagPoison

/-- KIND classes of R160: control, and reserved. -/
def controlKind (k : BitVec 4) : Bool := k == 3 || k == 5 || k == 10
def reservedKind (k : BitVec 4) : Bool := decide (12 ≤ k.toNat)

/-- A weight-chunk crumb: half `h` of a row (R247). -/
def chunkCrumb (repoch wepoch : Byte) (t : TileIx) (cls array plane row : Nat) (h : Bool) (data : List Byte) : Crumb :=
  { hdr := CrumbHeader.sealed
      { slot := BitVec.ofNat 14 t.toNat, req := 0, pass := 0, wepoch, repoch, variant := 0, kind := 7, flags := 0
        pos := BitVec.ofNat 20 (place 11 9 row + place 10 1 (bit h) + place 6 4 array + place 4 2 plane + place 2 2 cls)
        crc := 0 }
    payload := data }

/-- Both crumbs of a row of 128 bytes. -/
def rowCrumbs (repoch wepoch : Byte) (t : TileIx) (cls array plane row : Nat) (data : List Byte) : List Crumb :=
  [chunkCrumb repoch wepoch t cls array plane row false (bytesAt data 0 64),
   chunkCrumb repoch wepoch t cls array plane row true (bytesAt data 64 64)]

end Sys2Proof.Machine
end

