-- ==== Sys2Proof/Machine/Rs.lean ====
section
/-! DEFINITION. The link block (R318 to R320): its Reed–Solomon code over GF(2⁸) and its layout. -/

namespace Sys2Proof.Machine

/-- Times x in GF(2⁸) modulo x⁸ + x⁴ + x³ + x² + 1 (R320). -/
def rsTwice (a : Nat) : Nat := if a < 128 then 2 * a else (2 * a) ^^^ 0x11D

/-- Product by shift and add over `n` bits of the second factor. -/
def rsMulFrom : Nat → Nat → Nat → Nat
  | 0, _, _ => 0
  | n + 1, a, b => (if b % 2 = 1 then a else 0) ^^^ rsMulFrom n (rsTwice a) (b / 2)

/-- Product in GF(2⁸). -/
def rsMul (a b : Nat) : Nat := rsMulFrom 8 a b

/-- Power of the primitive element. -/
def rsPow : Nat → Nat
  | 0 => 1
  | n + 1 => rsTwice (rsPow n)

/-- Inverse of a non-zero element: its 254th power. -/
def rsInv (a : Nat) : Nat :=
  let a2 := rsMul a a
  let a4 := rsMul a2 a2
  let a8 := rsMul a4 a4
  let a16 := rsMul a8 a8
  let a32 := rsMul a16 a16
  let a64 := rsMul a32 a32
  rsMul (rsMul (rsMul a2 a4) (rsMul a8 a16)) (rsMul (rsMul a32 a64) (rsMul a64 a64))

/-- Value of a polynomial, highest coefficient first. -/
def rsEvalHigh (x : Nat) (p : List Nat) : Nat := p.foldl (fun a k => rsMul a x ^^^ k) 0

/-- Value of a polynomial, lowest coefficient first. -/
def rsEvalLow (x : Nat) (p : List Nat) : Nat := rsEvalHigh x p.reverse

/-- The generator's coefficients below its leading one, highest first (R320). -/
def rsGen : List Nat :=
  let times := fun (p : List Nat) (r : Nat) => List.zipWith (· ^^^ ·) (p ++ [0]) (0 :: p.map (rsMul r))
  ((List.range 8).foldl (fun p i => times p (rsPow i)) [1]).drop 1

/-- One step of the division: shift a data byte into the remainder. -/
def rsStep (rem : List Nat) (b : Nat) : List Nat :=
  let f := (rem.headD 0) ^^^ b
  List.zipWith (fun r g => r ^^^ rsMul f g) (rem.drop 1 ++ [0]) rsGen

/-- The parity of 88 bytes (R320). -/
def rsParity (data : List Byte) : List Byte :=
  ((data.map (·.toNat)).foldl rsStep (List.replicate 8 0)).map (BitVec.ofNat 8)

/-- The eight syndromes of a block. -/
def rsSyndromes (bs : List Nat) : List Nat := (List.range 8).map fun i => rsEvalHigh (rsPow i) bs

/-- Working of the locator search: locator, its last copy, length, shift, last discrepancy. -/
structure RsWork where
  c : List Nat := [1]
  b : List Nat := [1]
  l : Nat := 0
  m : Nat := 1
  d : Nat := 1

/-- a + k x^m b. -/
def rsAdd (a b : List Nat) (k m : Nat) : List Nat :=
  let t := List.replicate m 0 ++ b.map (rsMul k)
  let n := max a.length t.length
  (List.range n).map fun i => a.getD i 0 ^^^ t.getD i 0

/-- One step of the locator search over syndrome n. -/
def rsLocStep (s : List Nat) (w : RsWork) (n : Nat) : RsWork :=
  let d := (List.range (w.l + 1)).foldl (fun a i => a ^^^ rsMul (w.c.getD i 0) (s.getD (n - i) 0)) 0
  if d = 0 then { w with m := w.m + 1 }
  else
    let c := rsAdd w.c w.b (rsMul d (rsInv w.d)) w.m
    if 2 * w.l ≤ n then { c, b := w.c, l := n + 1 - w.l, m := 1, d }
    else { w with c, m := w.m + 1 }

/-- Correct up to 4 bytes of a block of 96 (R320): the corrected block and whether a byte was corrected; `none` when the
decode fails. -/
def rsDecode (block : List Byte) : Option (List Byte × Bool) :=
  let bs := block.map (·.toNat)
  let s := rsSyndromes bs
  if s.all (· == 0) then some (block, false)
  else
    let w := (List.range 8).foldl (rsLocStep s) {}
    -- byte i is the coefficient of x^(95 − i): its locator is α^(95 − i)
    let at' := (List.range 96).filter fun i => rsEvalLow (rsInv (rsPow (95 - i))) w.c = 0
    if w.l ≤ 4 ∧ at'.length = w.l then
      let omega := (List.range 8).map fun k =>
        (List.range (k + 1)).foldl (fun a i => a ^^^ rsMul (w.c.getD i 0) (s.getD (k - i) 0)) 0
      let odd := (List.range w.c.length).map fun i => if i % 2 = 1 then w.c.getD i 0 else 0
      let err := fun (i : Nat) =>
        let x := rsPow (95 - i)
        let xi := rsInv x
        -- the formal derivative at 1/x is the odd part over 1/x
        rsMul (rsMul x (rsEvalLow xi omega)) (rsInv (rsMul (rsEvalLow xi odd) x))
      let fixed := (List.range 96).map fun i => (bs.getD i 0) ^^^ (if at'.contains i then err i else 0)
      if (rsSyndromes fixed).all (· == 0) then some (fixed.map (BitVec.ofNat 8), true) else none
    else none

/-- A block of a type with its CRC and parity (R318). -/
def linkBlock (type route : Byte) (lseq : BitVec 16) (content : List Byte) : List Byte :=
  let head := [type, route] ++ leBytes 2 lseq.toNat ++ (content ++ List.replicate 80 0#8).take 80
  let data := head ++ leBytes 4 (crc32 head).toNat
  data ++ rsParity data

/-- A CRUMB block (R319). -/
def crumbType : Byte := 0x5A

/-- The block types a receiver knows (R319). -/
def blockTypes : List Byte := [0x5A, 0x3C, 0xC3, 0x96, 0x69, 0xA5, 0x0F]

/-- A received block decoded (R320): corrected bytes, and whether any was corrected; `none`: uncorrectable. -/
def readBlock (block : List Byte) : Option (List Byte × Bool) :=
  if block.length ≠ 96 then none
  else match rsDecode block with
    | some (bs, fixed) =>
      if leAt bs 84 4 = (crc32 (bs.take 84)).toNat && blockTypes.contains (bs.getD 0 0) then some (bs, fixed) else none
    | none => none

end Sys2Proof.Machine
end

