-- ==== Sys2Proof/Machine/LinkBlocks.lean ====
section
/-! DEFINITION. The link blocks other than CRUMB that a port sends (R318, R319, R325, R334), and positions as blocks code them. -/

namespace Sys2Proof.Machine

/-- A position as a block codes it (R319), in the coding of R355. -/
def posOfWire (w : BitVec 9) : Pos :=
  let n := w.toNat
  BitVec.ofNat 9 (place 5 3 (field n 0 3) + place 2 3 (field n 3 3) + place 0 2 (field n 6 2) + place 8 1 (field n 8 1))

/-- A position as a block codes it (R319). -/
def wireOfPos (p : Pos) : BitVec 9 :=
  let n := p.toNat
  BitVec.ofNat 9 (place 0 3 (field n 5 3) + place 3 3 (field n 2 3) + place 6 2 (field n 0 2) + place 8 1 (field n 8 1))

/-- Block types (R319). -/
def idleType : Byte := 0x3C
def haltType : Byte := 0xC3
def trainType : Byte := 0x69
def lanemapType : Byte := 0xA5
def retryType : Byte := 0x0F

/-- Send a block that is no CRUMB: its LSEQ is the one that the next CRUMB block will carry (R318, R319). A virtual port's blocks go
out on its spine port under the virtual-link number (R352). -/
def Chip.sendBlock (c : Chip) (p : PortIx) (type : Byte) (content : List Byte) : Chip :=
  let x := c.port p
  let out := x.vlink.getD (p, 0)
  c.emit (.link out.1 (.block (linkBlock type out.2 x.txSeq content)))

/-- IDLE (R319): STATUS, the link version, PART, the lane map and the position. -/
def Chip.sendIdle (c : Chip) (p : PortIx) : Chip :=
  let x := c.port p
  -- what READY, FALLBACK and TAKEOVER say of the sender is the model's reading (DESIGN CHOICE, log entry 51)
  let status := natOfBits [!c.flt.faultState, x.isUp, c.rcp.fallback != 0, c.opt.tkState != 0, x.state == .degraded]
  c.sendBlock p idleType (leBytes 1 status ++ leBytes 1 x.version.toNat ++ [0x02, x.laneMap] ++ leBytes 2 (wireOfPos c.sys.position).toNat)

/-- TRAIN (R325): PART, versions 1 to 2, the lanes locked, the position, the port, the phase, the agreed version. -/
def Chip.sendTrain (c : Chip) (p : PortIx) (phase : Nat) : Chip :=
  let x := c.port p
  c.sendBlock p trainType ([0x02, 0x01, 0x02, if x.light then 0xFF else 0] ++ leBytes 2 (wireOfPos c.sys.position).toNat
    ++ leBytes 1 p.toNat ++ leBytes 1 phase ++ leBytes 1 (if 2 ≤ phase then x.version.toNat else 0))

/-- HALT with its reason (R319). -/
def Chip.sendHalt (c : Chip) (p : PortIx) (reason : Nat) : Chip := c.sendBlock p haltType (leBytes 1 reason)

/-- LANEMAP: the proposed map, the phase, and the LSEQ from which the map applies (R319). -/
def Chip.sendLanemap (c : Chip) (p : PortIx) (map : BitVec 8) (phase : Byte) : Chip :=
  c.sendBlock p lanemapType ([map, phase] ++ leBytes 2 (c.port p).txSeq.toNat)

/-- RETRY: the LSEQ from which the receiver asks for resending (R319, R323). -/
def Chip.sendRetry (c : Chip) (p : PortIx) (lseq : BitVec 16) : Chip := c.sendBlock p retryType (leBytes 2 lseq.toNat)

/-- Sixty-four HALT blocks, and darkness (R334, R387, R495, R496): on a device that stops in the fault state an IDLE block with ALIVE 0
goes before them. -/
def Chip.haltPorts (c : Chip) (reason : Nat) : Chip :=
  allPorts.foldl (fun c p =>
    if (c.port p).dark then c
    else
      let c := if c.flt.faultState then c.sendIdle p else c
      let c := (List.range 64).foldl (fun c _ => c.sendHalt p reason) c
      (c.modPort p fun x => { x with dark := true }).emit (.link p .dark)) c

end Sys2Proof.Machine
end

