-- ==== Sys2Proof/Machine/SendOps.lean ====
section
/-! DEFINITION. Positions and ports of the rack (R29, R31, R315), sending on a port (R318, R321, R323, R328, R341, R352), and
the control-class crumbs the device sends to others (R164, R170, R336). -/

namespace Sys2Proof.Machine

/-- Group index of a position (R31). -/
def groupOf (p : Pos) : Nat :=
  let x := field p.toNat 5 3
  let y := field p.toNat 2 3
  if y % 2 = 0 then 8 * y + x else 8 * y + 7 - x

/-- The position one step from another through an axis port (R315). -/
def stepPos (p : Pos) (port : PortIx) : Pos :=
  let x := field p.toNat 5 3
  let y := field p.toNat 2 3
  let z := field p.toNat 0 2
  let mk := fun (x y z : Nat) => (BitVec.ofNat 9 (place 5 3 x + place 2 3 y + place 0 2 z) : Pos)
  match port.toNat with
  | 0 => mk ((x + 1) % 8) y z
  | 1 => mk ((x + 7) % 8) y z
  | 2 => mk x ((y + 1) % 8) z
  | 3 => mk x ((y + 7) % 8) z
  | 4 => mk x y ((z + 1) % 4)
  | 5 => mk x y ((z + 3) % 4)
  | _ => p

/-- The port to the tick parent (R183); `none`: the root. -/
def parentPort (p : Pos) : Option PortIx :=
  let near := fun (n : Nat) (up down : PortIx) => if n = 0 then none else if n ≤ 4 then some down else some up
  let z := field p.toNat 0 2
  if z ≠ 0 then some (if z = 3 then 4 else 5)
  else match near (field p.toNat 2 3) 2 3 with
    | some q => some q
    | none => near (field p.toNat 5 3) 0 1

/-- The ports by which a pass leaves and enters a device (R31, R315). -/
def exitPort (p : Pos) : Option PortIx :=
  ([0, 1, 2, 3] : List PortIx).find? fun q => groupOf (stepPos p q) == (groupOf p + 1) % 64
def entryPort (p : Pos) : Option PortIx :=
  ([0, 1, 2, 3] : List PortIx).find? fun q => groupOf (stepPos p q) == (groupOf p + 63) % 64

/-- The buddy of a position: z XOR 1 (R29). -/
def buddyPos (p : Pos) : Pos := p ^^^ 1

/-- A Z port. -/
def isZ (p : PortIx) : Bool := p == 4 || p == 5
/-- An axis port. -/
def isAxis (p : PortIx) : Bool := decide (p.toNat < 6)
/-- The other Z port. -/
def otherZ (p : PortIx) : PortIx := if p = 4 then 5 else 4

/-- The Z port that leads to the buddy (R315). -/
def Chip.buddyPort (c : Chip) : PortIx := if stepPos c.sys.position 4 = buddyPos c.sys.position then 4 else 5

/-- The exit and entry ports of this device, once its position is assigned. -/
def Chip.exitPort (c : Chip) : Option PortIx := if c.sys.posValid then Sys2Proof.Machine.exitPort c.sys.position else none
def Chip.entryPort (c : Chip) : Option PortIx := if c.sys.posValid then Sys2Proof.Machine.entryPort c.sys.position else none

/-- ROUTE of a Z block (R321): destination slice, ingress region, MIRROR, DETOUR. -/
def zRoute (slice ingress : Nat) (mirror detour : Bool) : Byte :=
  BitVec.ofNat 8 (place 0 2 slice + place 2 3 ingress + place 5 1 (bit mirror) + place 6 1 (bit detour))

/-- Send a crumb's block on a port that is up (R318, R323): it takes the next LSEQ, and the last 1,024 are kept. A virtual
port's block goes out on its spine port under the virtual-link number (R352); an X or Y port and version 1 send ROUTE 0 (R321, R328).
Every 128th block is an IDLE (R322). -/
def Chip.transmit (c : Chip) (p : PortIx) (route : Byte) (bytes : List Byte) : Chip :=
  let x := c.port p
  let route := if p.toNat < 4 ∨ x.version = 1 then 0 else route
  let out := x.vlink.getD (p, route)
  let c := c.modPort p fun x => { x with
    txSeq := x.txSeq + 1, sinceIdle := if x.sinceIdle = 126 then 0 else x.sinceIdle + 1
    sent := (x.sent ++ [(x.txSeq, route :: bytes)]).drop (x.sent.length - 1023) }
  let c := c.emit (.link out.1 (.crumb x.txSeq (linkBlock crumbType out.2 x.txSeq bytes)))
  if x.sinceIdle = 126 then c.sendIdle p else c

/-- The port carries crumbs by a route of R341 to R343: not on a link of version 1 (R328). -/
def Port.carries (x : Port) : Bool := x.isUp && x.version != 1

/-- Send over Z, the other way round the ring when the port is down (R341); with no way left nothing can go (R328, R351). -/
def Chip.transmitZ (c : Chip) (p : PortIx) (route : Byte) (bytes : List Byte) : Chip :=
  if (c.port p).isUp then c.transmit p route bytes
  else if (c.port (otherZ p)).carries then c.transmit (otherZ p) (route ||| 0x40) bytes
  else c

/-- A message to other devices in the next reserved position of ports that are up (R164, R345). -/
def Chip.tell (c : Chip) (to' : List PortIx) (m : RackMsg) : Chip := c.emit (.rack (to'.filter fun p => (c.port p).isUp) m)

/-- A control-class crumb to another device (R160, R164): fields the spec gives no value are 0 (DESIGN CHOICE, log entry 43). -/
def controlCrumb (kind : BitVec 4) (slot : BitVec 14) (req : BitVec 12) (pass : Pass) (variant : BitVec 6) (payload : List Byte) :
    Crumb :=
  { hdr := CrumbHeader.sealed { slot, req, pass, wepoch := 0, repoch := 0, variant, kind, flags := 0, pos := 0, crc := 0 }
    payload := (payload ++ List.replicate 64 0).take 64 }

/-- A control-class crumb goes out in the next reserved position of a port (R164); over a Z port to the device that it joins. -/
def Chip.sendControl (c : Chip) (p : PortIx) (k : Crumb) : Chip :=
  if isZ p then c.transmitZ p (zRoute (field (stepPos c.sys.position p).toNat 0 2) (otherZ p).toNat false false) (crumbBytes k)
  else if (c.port p).isUp then c.transmit p 0 (crumbBytes k)
  else c

/-- A custody acknowledge (R336). -/
def custodyAckCrumb (pass : Pass) (pos : Pos) (toBuddy : Bool) : Crumb :=
  controlCrumb 5 0 0 pass 0 (leBytes 4 pass.toNat ++ leBytes 2 (wireOfPos pos).toNat ++ [BitVec.ofNat 8 (bit toBuddy)])

/-- The pass is a draft pass at group 63, which it enters from group 0 over the exit port (R206). -/
def Chip.cameBack (c : Chip) (p : Pass) : Bool :=
  groupOf c.sys.position == 63 && (c.rcp.passes.any fun x => x.pass == p && x.kind == 3)

/-- Custody acknowledges of a pass the device has left (R336): to its upstream, and over Z to the buddy for its upstream. -/
def Chip.sendCustodyAck (c : Chip) (p : Pass) : Chip :=
  let c := match (if c.cameBack p then c.exitPort else c.entryPort) with
    | some q => c.sendControl q (custodyAckCrumb p c.sys.position false)
    | none => c
  if c.sys.posValid then c.sendControl c.buddyPort (custodyAckCrumb p c.sys.position true) else c

/-- The ring regions forward a cancel: a control-class crumb in the next reserved position of each port (R170). Its header names
REQ, the first cancelled pass and the variant (DESIGN CHOICE, log entry 43). -/
def Chip.forwardCancel (c : Chip) (req : BitVec 12) (p : Pass) (variant : BitVec 6) : Chip :=
  allPorts.foldl (fun c q => if (c.port q).isUp then c.transmit q
    (if isZ q then zRoute (field (stepPos c.sys.position q).toNat 0 2) (otherZ q).toNat false false else 0)
    (crumbBytes (controlCrumb 3 0 req p variant [])) else c) c

end Sys2Proof.Machine
end

