-- ==== Sys2Proof/Machine/Crypto.lean ====
section
/-! DEFINITION. The named standards the spec's checks rest on: SHA-384, HMAC and HKDF-SHA-384, ECDSA and ECDH on P-384,
AES-256-GCM. The spec names them and does not restate them: PRESUMED, log entry 10. -/

namespace Sys2Proof.Machine

/-- Numbers of the form ⌊2^64 · frac(p^(1/3))⌋ come from exact integer cube roots, so no table is copied. -/
def cbrtFrom (n : Nat) : Nat → Nat → Nat
  | 0, r => r
  | k + 1, r => let t := r + 2 ^ k; cbrtFrom n k (if t * t * t ≤ n then t else r)

/-- Integer square root of n by bits. -/
def sqrtFrom (n : Nat) : Nat → Nat → Nat
  | 0, r => r
  | k + 1, r => let t := r + 2 ^ k; sqrtFrom n k (if t * t ≤ n then t else r)

/-- The first `n` primes not below `k`, with fuel. -/
def primesFrom : Nat → Nat → Nat → List Nat
  | 0, _, _ => []
  | _, _, 0 => []
  | fuel + 1, k, n + 1 =>
    if (List.range k).all (fun d => d < 2 || k % d != 0) then k :: primesFrom fuel (k + 1) n
    else primesFrom fuel (k + 1) (n + 1)

/-- The 80 round constants of SHA-512: the first 64 bits of the fractional parts of the primes' cube roots. -/
def shaK : List (BitVec 64) := (primesFrom 500 2 80).map fun p => BitVec.ofNat 64 (cbrtFrom (p * 2 ^ 192) 70 0)

/-- The initial value of SHA-384: the square roots of the ninth to sixteenth primes. -/
def sha384Init : List (BitVec 64) :=
  ((primesFrom 500 2 16).drop 8).map fun p => BitVec.ofNat 64 (sqrtFrom (p * 2 ^ 128) 70 0)

/-- The message schedule, last word first, grown to 80 words. -/
def shaSchedule : Nat → List (BitVec 64) → List (BitVec 64)
  | 0, w => w
  | n + 1, w =>
    let g := fun i => w.getD i 0
    let s0 := (g 14).rotateRight 1 ^^^ (g 14).rotateRight 8 ^^^ (g 14) >>> 7
    let s1 := (g 1).rotateRight 19 ^^^ (g 1).rotateRight 61 ^^^ (g 1) >>> 6
    shaSchedule n ((g 15 + s0 + g 6 + s1) :: w)

/-- The eight working words of a round. -/
structure ShaState where
  a : BitVec 64
  b : BitVec 64
  c : BitVec 64
  d : BitVec 64
  e : BitVec 64
  f : BitVec 64
  g : BitVec 64
  h : BitVec 64

/-- One round. -/
def shaRound (s : ShaState) (kw : BitVec 64 × BitVec 64) : ShaState :=
  let s1 := s.e.rotateRight 14 ^^^ s.e.rotateRight 18 ^^^ s.e.rotateRight 41
  let ch := (s.e &&& s.f) ^^^ (~~~s.e &&& s.g)
  let t1 := s.h + s1 + ch + kw.1 + kw.2
  let s0 := s.a.rotateRight 28 ^^^ s.a.rotateRight 34 ^^^ s.a.rotateRight 39
  let maj := (s.a &&& s.b) ^^^ (s.a &&& s.c) ^^^ (s.b &&& s.c)
  ⟨t1 + s0 + maj, s.a, s.b, s.c, s.d + t1, s.e, s.f, s.g⟩

/-- One 128-byte block. -/
def shaBlock (ks : List (BitVec 64)) (hs : List (BitVec 64)) (block : List Byte) : List (BitVec 64) :=
  let w0 := (chunksOf 8 16 block).map fun b => BitVec.ofNat 64 (beNat b)
  let w := (shaSchedule 64 w0.reverse).reverse
  let g := fun i => hs.getD i 0
  let s := (ks.zip w).foldl shaRound ⟨g 0, g 1, g 2, g 3, g 4, g 5, g 6, g 7⟩
  (hs.zip [s.a, s.b, s.c, s.d, s.e, s.f, s.g, s.h]).map fun (x, y) => x + y

/-- SHA-384 of a byte string. -/
def sha384 (m : List Byte) : List Byte :=
  let len := m.length
  let padded := m ++ 0x80#8 :: List.replicate ((239 - len % 128) % 128) 0#8 ++ beBytes 16 (8 * len)
  let ks := shaK
  let hs := (chunksOf 128 (padded.length / 128) padded).foldl (shaBlock ks) sha384Init
  (hs.flatMap fun h => beBytes 8 h.toNat).take 48

/-- HMAC-SHA-384. -/
def hmac384 (key m : List Byte) : List Byte :=
  let k0 := if 128 < key.length then sha384 key else key
  let k := k0 ++ List.replicate (128 - k0.length) 0#8
  sha384 (k.map (· ^^^ 0x5C#8) ++ sha384 (k.map (· ^^^ 0x36#8) ++ m))

/-- HKDF-SHA-384 for outputs of at most 48 bytes. -/
def hkdf384 (salt ikm info : List Byte) (len : Nat) : List Byte :=
  let prk := hmac384 (if salt.isEmpty then List.replicate 48 0#8 else salt) ikm
  (hmac384 prk (info ++ [1#8])).take len

/-- The field prime, the curve constant and the group order of P-384. -/
def p384 : Nat := 2 ^ 384 - 2 ^ 128 - 2 ^ 96 + 2 ^ 32 - 1
def p384n : Nat := 0xFFFFFFFFFFFFFFFFFFFFFFFFFFFFFFFFFFFFFFFFFFFFFFFFC7634D81F4372DDF581A0DB248B0A77AECEC196ACCC52973
def p384b : Nat := 0xB3312FA7E23EE7E4988E056BE3F82D19181D9C6EFE8141120314088F5013875AC656398D8A2ED19D2A85C8EDD3EC2AEF
def p384gx : Nat := 0xAA87CA22BE8B05378EB1C71EF320AD746E1D3B628BA79B9859F741E082542A385502F25DBF55296C3A545E3872760AB7
def p384gy : Nat := 0x3617DE4A96262C6F5D9E98BF9292DC29F8F41DBD289A147CE9DA3113B5F0B8C00A60B1CE1D7E819D7A431D7C90EA0E5F

/-- aᵉ mod m by squaring, `k` bits of e from the top. -/
def powMod (a e m : Nat) : Nat → Nat
  | 0 => 1 % m
  | k + 1 => let r := powMod a (e / 2) m k; let r2 := r * r % m; if e % 2 = 1 then r2 * a % m else r2

/-- Inverse modulo a prime. -/
def invMod (a m : Nat) : Nat := powMod a (m - 2) m 384

/-- A point in Jacobian coordinates; z = 0 is the point at infinity. -/
structure JPoint where
  x : Nat
  y : Nat
  z : Nat

/-- Double a point (a = −3). -/
def jDouble (q : JPoint) : JPoint :=
  let p := p384
  if q.z = 0 ∨ q.y = 0 then ⟨1, 1, 0⟩
  else
    let z2 := q.z * q.z % p
    let m := 3 * (q.x + (p - z2)) * (q.x + z2) % p
    let y2 := q.y * q.y % p
    let s := 4 * q.x * y2 % p
    let x3 := (m * m + 2 * (p - s)) % p
    ⟨x3, (m * (s + (p - x3)) + (p - 8 * y2 * y2 % p)) % p, 2 * q.y * q.z % p⟩

/-- Add two points. -/
def jAdd (q r : JPoint) : JPoint :=
  let p := p384
  if q.z = 0 then r else if r.z = 0 then q
  else
    let z1 := q.z * q.z % p
    let z2 := r.z * r.z % p
    let u1 := q.x * z2 % p
    let u2 := r.x * z1 % p
    let s1 := q.y * z2 * r.z % p
    let s2 := r.y * z1 * q.z % p
    if u1 = u2 then (if s1 = s2 then jDouble q else ⟨1, 1, 0⟩)
    else
      let h := (u2 + (p - u1)) % p
      let rr := (s2 + (p - s1)) % p
      let h2 := h * h % p
      let h3 := h2 * h % p
      let v := u1 * h2 % p
      let x3 := (rr * rr + (p - h3) + 2 * (p - v)) % p
      ⟨x3, (rr * (v + (p - x3)) + (p - s1 * h3 % p)) % p, h * q.z * r.z % p⟩

/-- k × q, from `n` bits of k. -/
def jMul (q : JPoint) (k : Nat) : Nat → JPoint
  | 0 => ⟨1, 1, 0⟩
  | n + 1 => let r := jDouble (jMul q (k / 2) n); if k % 2 = 1 then jAdd r q else r

/-- The affine coordinates of a point, none at infinity. -/
def jAffine (q : JPoint) : Option (Nat × Nat) :=
  if q.z = 0 then none
  else
    let zi := invMod q.z p384
    let z2 := zi * zi % p384
    some (q.x * z2 % p384, q.y * z2 * zi % p384)

/-- A point of the curve from its SEC1 uncompressed form, 97 bytes; none where the bytes are not one. -/
def pointOf (bs : List Byte) : Option JPoint :=
  let x := beNat (bytesAt bs 1 48)
  let y := beNat (bytesAt bs 49 48)
  if bs.length = 97 ∧ bs.head? = some 4#8 ∧ x < p384 ∧ y < p384
      ∧ y * y % p384 = (x * x * x + (p384 - 3) * x + p384b) % p384
  then some ⟨x, y, 1⟩ else none

/-- The SEC1 uncompressed form of an affine point. -/
def pointBytes (x y : Nat) : List Byte := 4#8 :: beBytes 48 x ++ beBytes 48 y

/-- Verify an ECDSA P-384 signature, r then s, each big-endian, over a digest. -/
def ecdsaVerify (pub digest sig : List Byte) : Bool :=
  let r := beNat (bytesAt sig 0 48)
  let s := beNat (bytesAt sig 48 48)
  match pointOf pub with
  | none => false
  | some q =>
    if sig.length ≠ 96 ∨ r = 0 ∨ s = 0 ∨ p384n ≤ r ∨ p384n ≤ s then false
    else
      let w := invMod s p384n
      let u1 := beNat digest * w % p384n
      let u2 := r * w % p384n
      match jAffine (jAdd (jMul ⟨p384gx, p384gy, 1⟩ u1 384) (jMul q u2 384)) with
      | none => false
      | some (x, _) => x % p384n == r

/-- The public point of a private key. -/
def publicOf (d : Nat) : Option (Nat × Nat) := jAffine (jMul ⟨p384gx, p384gy, 1⟩ d 384)

/-- The ECDH shared x-coordinate of a private key and a public point, 48 bytes. -/
def ecdh (d : Nat) (pub : List Byte) : Option (List Byte) :=
  (pointOf pub).bind fun q => (jAffine (jMul q d 384)).map fun xy => beBytes 48 xy.1

/-- Multiply in GF(2⁸) with x⁸ + x⁴ + x³ + x + 1. -/
def gf8Mul (a b : Nat) : Nat :=
  (List.range 8).foldr (fun i acc =>
    let d := acc <<< 1
    let d := if bitAt d 8 then d ^^^ 0x11B else d
    if bitAt b i then d ^^^ a else d) 0

/-- The AES S-box: the inverse x²⁵⁴, then the affine map. -/
def aesSbox (x : Nat) : Nat :=
  let sq := fun y => gf8Mul y y
  let x2 := sq x; let x4 := sq x2; let x8 := sq x4; let x16 := sq x8; let x32 := sq x16; let x64 := sq x32
  let x128 := sq x64
  let inv := gf8Mul x2 (gf8Mul x4 (gf8Mul x8 (gf8Mul x16 (gf8Mul x32 (gf8Mul x64 x128)))))
  let rot := fun n => ((inv <<< n) ||| (inv >>> (8 - n))) % 256
  inv ^^^ rot 1 ^^^ rot 2 ^^^ rot 3 ^^^ rot 4 ^^^ 0x63

/-- The S-box as a list, for one computation of a key or block. -/
def aesTable : List Nat := (List.range 256).map aesSbox

/-- The AES-256 key schedule: 60 words of 4 bytes, newest first while growing. -/
def aesExpand (sb : List Nat) : Nat → Nat → Nat → List (List Nat) → List (List Nat)
  | 0, _, _, w => w
  | n + 1, i, rcon, w =>
    let prev := w.getD 0 []
    let t := if i % 8 = 0 then
        match prev.map (sb.getD · 0) with
        | [a, b, c, d] => [b ^^^ rcon, c, d, a]
        | l => l
      else if i % 8 = 4 then prev.map (sb.getD · 0) else prev
    let old := w.getD 7 []
    aesExpand sb n (i + 1) (if i % 8 = 0 then gf8Mul rcon 2 else rcon) ((old.zip t).map (fun (a, b) => a ^^^ b) :: w)

/-- The 15 round keys of an AES-256 key, 16 bytes each. -/
def aesKeys (sb : List Nat) (key : List Byte) : List (List Nat) :=
  let w0 := (chunksOf 4 8 (key.map (·.toNat))).reverse
  chunksOf 16 15 ((aesExpand sb 52 8 1 w0).reverse.flatMap id)

/-- ShiftRows as the index each output byte comes from (column-major state). -/
def aesShift (s : List Nat) : List Nat :=
  (List.range 16).map fun i => s.getD ((i + 4 * (i % 4)) % 16) 0

/-- MixColumns. -/
def aesMix (s : List Nat) : List Nat :=
  (chunksOf 4 4 s).flatMap fun col =>
    let g := fun i => col.getD (i % 4) 0
    (List.range 4).map fun i => gf8Mul 2 (g i) ^^^ gf8Mul 3 (g (i + 1)) ^^^ g (i + 2) ^^^ g (i + 3)

/-- XOR of two byte lists. -/
def xorList (a b : List Nat) : List Nat := (a.zip b).map fun (x, y) => x ^^^ y

/-- Encrypt one block with AES-256. -/
def aesBlock (sb : List Nat) (ks : List (List Nat)) (block : List Nat) : List Nat :=
  let s0 := xorList block (ks.getD 0 [])
  let s13 := (List.range 13).foldl (fun s i =>
    xorList (aesMix (aesShift (s.map (sb.getD · 0)))) (ks.getD (i + 1) [])) s0
  xorList (aesShift (s13.map (sb.getD · 0))) (ks.getD 14 [])

/-- Multiply in GHASH's field, bit 0 of the standard being the most significant bit here. -/
def ghashMul (x y : Nat) : Nat :=
  ((List.range 128).foldl (fun (zv : Nat × Nat) i =>
    let z := if bitAt x (127 - i) then zv.1 ^^^ zv.2 else zv.1
    let v := if bitAt zv.2 0 then (zv.2 >>> 1) ^^^ (0xE1 <<< 120) else zv.2 >>> 1
    (z, v)) (0, y)).1

/-- GHASH over 16-byte blocks. -/
def ghash (h : Nat) (blocks : List (List Byte)) : Nat := blocks.foldl (fun y b => ghashMul (y ^^^ beNat b) h) 0

/-- Pad a byte string with zeros to whole 16-byte blocks and cut it. -/
def blocks16 (bs : List Byte) : List (List Byte) :=
  let p := bs ++ List.replicate ((16 - bs.length % 16) % 16) 0#8
  chunksOf 16 (p.length / 16) p

/-- AES-256-GCM decryption with a 12-byte nonce: the plaintext, or none where the 16-byte tag differs. -/
def gcmDecrypt (key nonce aad ct tag : List Byte) : Option (List Byte) :=
  let sb := aesTable
  let ks := aesKeys sb key
  let enc := fun (n : Nat) => aesBlock sb ks (nonce.map (·.toNat) ++ (beBytes 4 n).map (·.toNat))
  let h := beNat ((aesBlock sb ks (List.replicate 16 0)).map (BitVec.ofNat 8))
  let lens := beBytes 8 (8 * aad.length) ++ beBytes 8 (8 * ct.length)
  let g := ghash h (blocks16 aad ++ blocks16 ct ++ [lens])
  let want := beBytes 16 (g ^^^ beNat ((enc 1).map (BitVec.ofNat 8)))
  if want = tag then
    let n := (ct.length + 15) / 16
    let stream := (List.range n).flatMap fun i => enc (i + 2)
    some ((ct.zip stream).map fun (a, b) => a ^^^ BitVec.ofNat 8 b)
  else none

/-- ASCII bytes of a string. -/
def ascii (s : String) : List Byte := s.toList.map fun c => BitVec.ofNat 8 c.toNat

end Sys2Proof.Machine
end

