-- ==== Sys2Proof/Machine/CtlMesh.lean ====
section
/-! DEFINITION. The grid's coordinates (R16) and the control mesh (R166 to R169): flits, routes, broadcast, priority. -/

namespace Sys2Proof.Machine

/-- Key of a node's input or output. -/
def NodePort.index : NodePort → Nat
  | .north => 0 | .east => 1 | .south => 2 | .west => 3 | .local' => 4
def portKey (t : TileIx) (p : NodePort) : Nat := 5 * t.toNat + NodePort.index p

/-- The ports in the order that breaks ties (R165). -/
def nodePorts : List NodePort := [.north, .east, .south, .west, .local']

/-- Coordinates of a tile (R16). -/
def tileX (t : TileIx) : Nat := t.toNat % 32
def tileY (t : TileIx) : Nat := t.toNat / 32

/-- One step along an axis toward an interval of coordinates. -/
def toward (v lo hi : Nat) (down up : NodePort) : Option NodePort := if v < lo then some up else if hi < v then some down else none

/-- The output toward a tile, X first, then Y (R165, R166). -/
def routeTile (t d : TileIx) : NodePort :=
  ((toward (tileX t) (tileX d) (tileX d) .west .east).orElse fun _ => toward (tileY t) (tileY d) (tileY d) .south .north).getD .local'

/-- The node that an output joins, and the input it joins it by; none off the grid and at the tile (R153). -/
def neighbour (t : TileIx) (p : NodePort) : Option (TileIx × NodePort) :=
  match p with
  | .north => if tileY t = 31 then none else some (t + 32, .south)
  | .east => if tileX t = 31 then none else some (t + 1, .west)
  | .south => if tileY t = 0 then none else some (t - 32, .north)
  | .west => if tileX t = 0 then none else some (t - 1, .east)
  | .local' => none

/-- A number as 16-bit parts, the low one first. -/
def halves (n k : Nat) : List (BitVec 16) := (List.range k).map fun i => BitVec.ofNat 16 (n / 65536 ^ i)

/-- A stand-in order's target (R108). -/
def targetCode : Target → Nat
  | .n a p => a.toNat * 4 + p.toNat
  | .s a => 0x80 + a.toNat

/-- TYPE of a message (R167). -/
def CtlMsg.type : CtlMsg → Nat
  | .strobe => 0 | .haltPass _ => 1 | .haltDevice => 1 | .cancel _ _ _ => 2 | .signal _ _ _ => 3 | .signalErr _ _ => 4
  | .set _ _ _ _ _ => 5 | .standin _ _ => 6 | .fault _ _ => 7 | .numeric _ _ => 8 | .mgmtRd _ _ => 9 | .mgmtWr _ _ _ => 10
  | .mgmtRsp _ => 11

/-- Where a message goes: every tile, or one; FAULT, NUMERIC and MGMT_RSP go to the management complex at tile 0 (R166). -/
def CtlMsg.dest : CtlMsg → Option TileIx
  | .strobe | .haltPass _ | .haltDevice | .cancel _ _ _ => none
  | .signal i _ _ | .signalErr i _ | .set i _ _ _ _ => some (i.extractLsb' 3 10)
  | .standin t _ | .mgmtRd t _ | .mgmtWr t _ _ => some t
  | .fault _ _ | .numeric _ _ | .mgmtRsp _ => some 0

/-- The flits after the header, in the order in which R167 names their content; a field that R167 gives no place stands above
those before it in its flit, and a wider one has its low part first (DESIGN CHOICE, log entry 42). -/
def CtlMsg.content : CtlMsg → List (BitVec 16)
  | .strobe => []
  | .haltPass p => 0 :: halves p.toNat 2
  | .haltDevice => [1]
  | .cancel req p v => req.setWidth 16 :: (halves p.toNat 2 ++ [v.setWidth 16])
  | .signal i n poison => [BitVec.ofNat 16 (place 0 3 i.toNat + place 3 1 (bit poison)), n]
  | .signalErr i code => [BitVec.ofNat 16 (place 0 3 i.toNat + place 4 4 code.toNat)]
  | .set i count limit tclass auto =>
    BitVec.ofNat 16 (place 0 3 i.toNat + place 3 1 (bit auto) + place 4 3 tclass.toNat)
      :: halves (count.toNat + 2 ^ 24 * limit.toNat) 3
  | .standin _ target => [BitVec.ofNat 16 (targetCode target)]
  | .fault src detail => src.setWidth 16 :: halves detail.toNat 2
  | .numeric layer flags => [layer.setWidth 16, flags.setWidth 16]
  | .mgmtRd _ offset => halves offset.toNat 2
  | .mgmtWr _ offset data => halves offset.toNat 2 ++ halves data.toNat 4
  | .mgmtRsp data => halves data.toNat 4

/-- A message's flits (R167). -/
def CtlMsg.flits (m : CtlMsg) : List (BitVec 16) :=
  let d := CtlMsg.dest m
  BitVec.ofNat 16 (place 12 4 (CtlMsg.type m) + place 11 1 (bit d.isNone) + (d.getD 0).toNat) :: CtlMsg.content m

/-- TYPE, BCAST and destination of a header flit (R167). -/
def flitType (fs : List (BitVec 16)) : Nat := field (fs.headD 0).toNat 12 4
def flitBcast (fs : List (BitVec 16)) : Bool := (fs.headD 0).getLsbD 11
def flitDest (fs : List (BitVec 16)) : TileIx := (fs.headD 0).setWidth 10

/-- The class of a TYPE; the reserved ones have none (R167). -/
def ctlClass (type : Nat) : Option Nat :=
  if type < 2 then some 1 else if type = 2 then some 2 else if type < 9 then some 3 else if type < 12 then some 4 else none

/-- The outputs a message takes at a node (R166): X first, then Y; a broadcast along the origin's row, and from every node of
the row up and down its column. -/
def ctlOutputs (t : TileIx) (x : CtlItem) : List NodePort :=
  if flitBcast x.flits then
    let go : List NodePort := match x.input with
      | .local' => [.north, .east, .south, .west]
      | .west => [.north, .east, .south]
      | .east => [.north, .south, .west]
      | .south => [.north]
      | .north => [.south]
    (go.filter fun p => (neighbour t p).isSome) ++ [.local']
  else [routeTile t (flitDest x.flits)]

/-- Messages that wait at a node's output. -/
def Chip.ctlAt (c : Chip) (key : Nat) : List CtlItem := sget (fun _ => []) c.fab.ctl key

/-- Store them. -/
def Chip.setCtl (c : Chip) (key : Nat) (xs : List CtlItem) : Chip :=
  { c with fab := { c.fab with ctl := sset (fun _ => []) c.fab.ctl key xs } }

/-- A message comes to a node and waits at its outputs; a reserved TYPE is discarded at the first node (R167). -/
def Chip.ctlArrive (c : Chip) (t : TileIx) (x : CtlItem) : Chip :=
  if (ctlClass (flitType x.flits)).isNone then c
  else (ctlOutputs t x).foldl (fun c p => c.setCtl (portKey t p) (c.ctlAt (portKey t p) ++ [x])) c

/-- A tile, or the management complex at tile 0, sends a message (R166). -/
def Chip.sendCtl (c : Chip) (t : TileIx) (m : CtlMsg) : Chip :=
  (c.emit (.control t m)).ctlArrive t { src := t, input := .local', flits := CtlMsg.flits m }

/-- Two messages go from one source to one destination: they arrive in the order in which they were sent (R168). -/
def CtlItem.sameWay (x y : CtlItem) : Bool :=
  x.src == y.src && (flitBcast x.flits || flitBcast y.flits || flitDest x.flits == flitDest y.flits)

/-- Waiting messages that may go: none that would overtake another of its source and destination. -/
def ctlReady : List CtlItem → List CtlItem → List CtlItem
  | _, [] => []
  | before, x :: xs => (if before.any fun y => CtlItem.sameWay x y then [] else [x]) ++ ctlReady (before ++ [x]) xs

/-- How far an input stands behind the one that had its turn last. -/
def turnOf (last : Nat) (x : CtlItem) : Nat := (NodePort.index x.input + 4 - last) % 5

/-- The message that crosses a link next, with its class (R168): the lowest class, in which the inputs take turns. -/
def Chip.ctlNext (c : Chip) (key : Nat) : Option (Nat × CtlItem) :=
  let ready := ctlReady [] (c.ctlAt key)
  ([1, 2, 3, 4] : List Nat).findSome? fun cls =>
    let mine := ready.filter fun x => ctlClass (flitType x.flits) == some cls
    let last := sget (fun _ => 0) c.fab.ctlTurn (5 * key + cls)
    (mine.foldl (fun (best : Option CtlItem) x => match best with
      | some b => if turnOf last x < turnOf last b then some x else some b
      | none => some x) none).map fun x => (cls, x)

/-- A message crosses a link whole: none pre-empts it (R168). -/
def Chip.ctlCross (c : Chip) (key cls : Nat) (x : CtlItem) : Chip :=
  let t : TileIx := BitVec.ofNat 10 (key / 5)
  let out := nodePorts.getD (key % 5) .local'
  let c := c.setCtl key ((c.ctlAt key).erase x)
  let c : Chip := { c with fab := { c.fab with
    ctlTurn := sset (fun _ => 0) c.fab.ctlTurn (5 * key + cls) (NodePort.index x.input) } }
  match neighbour t out with
  | some (n, inp) => c.ctlArrive n { x with input := inp }
  | none => c.emit (.delivered t x.flits)

/-- One message crosses each link of the control mesh that has one waiting (R166, R168). -/
def Chip.ctlStep (c : Chip) : Chip :=
  (c.fab.ctl.filterMap fun p => (c.ctlNext p.1).map fun x => (p.1, x)).foldl (fun c x => c.ctlCross x.1 x.2.1 x.2.2) c

end Sys2Proof.Machine
end

