-- ==== Sys2Proof/Machine/Registers.lean ====
section
/-! DEFINITION. Reading the host-visible registers (R4, R9): what each block's offset reads as. -/

namespace Sys2Proof.Machine

/-- Sum of fields placed in a register word. -/
def regOf (fs : List Nat) : Word64 := BitVec.ofNat 64 (fs.foldl (· + ·) 0)

/-- A field of a register from a bit vector. -/
def fld {w : Nat} (lo : Nat) (v : BitVec w) : Nat := v.toNat <<< lo

/-- A one-bit field. -/
def flb (lo : Nat) (b : Bool) : Nat := (bit b) <<< lo

/-- An access to one of the registers at `base + 8n`, n below `count`: the index it names. -/
def regIdx (off base count : Nat) : Option Nat :=
  if base ≤ off ∧ off < base + 8 * count ∧ (off - base) % 8 = 0 then some ((off - base) / 8) else none

/-- The number of tiles whose array state satisfies a test, among those that ever left the reset state. -/
def Chip.countTiles (c : Chip) (f : TileArr → Bool) : Nat := (c.arr.tile.filter fun p => f p.2).length

/-- SYS_ARRAY_STAT (R106). -/
def regArrayStat (c : Chip) : Word64 :=
  regOf [ (c.countTiles fun t => t.standin.state == .serving || t.standin.state == .failed) <<< 48,
          ((c.arr.maps.filter fun p => p.2.spare == 31).length) <<< 32,
          (c.countTiles (·.exhausted)) <<< 16,
          -- more queued planes than the field holds read as its greatest value (log entry 24)
          min 0xFFFF (c.arr.tile.foldl (fun a p => a + p.2.refreshQ.length) 0) ]

/-- Code of a staged state and its A (R224, R226). -/
def stagedCode : Option (Recipe × StagedState) → Nat × Nat × Nat
  | none => (0, 0, 0)
  | some (r, .loaded) => (1, r.repoch.toNat, 0)
  | some (r, .armed a) => (2, r.repoch.toNat, a.toNat)

/-- Recipe and pass registers (R224 to R228). -/
def regRecipe (c : Chip) (off : Nat) : Word64 :=
  let r := c.rcp
  let st := stagedCode r.staged
  if off = 0x0400 then
    regOf [((r.active.map fun x => x.repoch.toNat).getD 0) <<< 48, st.2.1 <<< 40, st.1 <<< 32, flb 24 r.active.isSome,
      fld 16 r.lastReject, flb 8 r.draining, fld 4 r.fallback]
  else if off = 0x0408 then regOf [st.2.2 <<< 32, fld 0 r.lastPass]
  else if off = 0x0410 then regOf [fld 32 r.collisions, fld 16 r.streamWaits, fld 0 r.streams]
  else if off = 0x0418 then regOf [fld 0 r.drainMs]
  else 0

/-- The plan LOAD_STAT reports: the one in progress, else the last completed (R267). -/
def Load.plan (l : Load) : Option Plan :=
  match l.incoming with
  | some (_, p, _) => some p
  | none => l.activePlan

/-- The number of a plan's chunks with a property. -/
def Plan.count (p : Plan) (f : ChunkState → Bool) : Nat := (p.chunks.filter fun x => f x.state).length

/-- A chunk has failed. -/
def ChunkState.isFailed : ChunkState → Bool
  | .failed _ => true
  | _ => false

/-- INCOMING_STATE and W (R268). -/
def Load.incomingCode (l : Load) : Nat :=
  match l.incoming with
  | none => 0
  | some (_, _, .loading) => 1
  | some (_, _, .complete) => 2
  | some (_, _, .armed _) => 3

/-- Load registers (R267, R268). -/
def regLoad (c : Chip) (off : Nat) : Word64 :=
  let l := c.load
  if off = 0x0500 then
    let n := fun f => (l.plan.map fun p => p.count f).getD 0
    regOf [(n fun _ => true) <<< 48, (n (· == .authenticated)) <<< 32, (n ChunkState.isFailed) <<< 16, fld 8 l.retries,
      fld 4 l.lastReject, fld 0 l.state]
  else if off = 0x0508 then
    regOf [fld 32 l.switchPass, ((l.active.map fun e => e.wepoch.toNat).getD 0) <<< 24,
      ((l.incoming.map fun x => x.1.wepoch.toNat).getD 0) <<< 16, l.incomingCode <<< 11, flb 10 l.old.isSome,
      flb 9 l.rebuildPending, flb 8 ((l.active.map (·.bank)).getD false), flb 7 l.buddyOk,
      flb 6 ((l.active.map (·.buddyOff)).getD false), flb 5 l.goldenOk, flb 4 l.keyActive.isSome,
      flb 3 l.keyIncoming.isSome, flb 2 l.activeLive]
  else 0

/-- Hot entries. -/
def Chip.hotCount (c : Chip) : Nat := (c.serve.hot.filter fun p => p.2.isSome).length

/-- The recipe that requests are checked against: the active one, or before the first pass the armed one. -/
def Chip.servingRecipe (c : Chip) : Option Recipe :=
  match c.rcp.active, c.rcp.staged with
  | some r, _ => some r
  | none, some (r, .armed _) => some r
  | none, _ => none

/-- Free KV pairs of the recipe's pool (R282, R310). -/
def Chip.pairsFree (c : Chip) : Nat :=
  ((c.servingRecipe.map fun r => r.placement.pairs.length).getD 0) - c.serve.pairsUsed.length

/-- Serving registers (R310 to R312). -/
def regServe (c : Chip) (off : Nat) : Word64 :=
  let s := c.serve
  if off = 0x0600 then
    regOf [(s.used % 4096) <<< 40, flb 39 (s.used == 4096), c.hotCount <<< 30, c.pairsFree <<< 8, fld 0 s.lastReject]
  else if off = 0x0608 then regOf [fld 32 s.tail, fld 0 s.head]
  else if off = 0x0610 then regOf [fld 32 s.accepted, fld 16 s.verify, fld 0 s.probes]
  else 0

/-- A timeout class that cannot be written (R130). -/
def fixedClass (n : Nat) : Bool := n == 1 || n == 2

/-- Sync-object registers (R148, R149). -/
def regSo (c : Chip) (off : Nat) : Word64 :=
  let s := c.so
  if off = 0x0308 then regOf [fld 48 s.underruns, fld 32 s.overruns, fld 16 s.errors, fld 0 s.stray]
  else match regIdx off 0x0310 8 with
    | some n => regOf [flb 24 (fixedClass n), (s.tclass.toList.getD n 0).toNat]
    | none => 0

/-- FUSE_SVN: the fuses blown at manufacture and since (R511). -/
def Chip.fuseSvn (c : Chip) : Nat := min 127 (Config.fuseSvn.toNat + c.boot.blown.toNat)

/-- The SYS block (chapters 00 to 08, 13, 14). -/
def regSys (c : Chip) (off : Nat) : Word64 :=
  let s := c.sys
  if off = 0x0000 then 0x4B55_0F02_B100_0000
  else if off = 0x0008 then
    regOf [fld 48 s.position, fld 36 s.ucieUp, fld 28 s.bootStep, flb 2 s.posValid, flb 1 c.flt.faultState,
      flb 0 c.pins.alive]
  else if off = 0x0010 then (if c.boot.fuseOk then Config.serial else 0)
  else if off = 0x0018 then regOf [fld 24 s.lastAddr, flb 16 s.lastWrite, fld 0 s.unmapped]
  else if off = 0x0100 then regOf [fld 0 s.dieBudget]
  else if off = 0x0108 then regOf [fld 0 s.fireWaits]
  else if off = 0x0110 then regOf [fld 32 s.pwrProofK, fld 24 s.pwrProofLen, flb 16 s.pwrActive, fld 0 s.limitW]
  else if off = 0x0200 then
    regOf [((c.arr.writes.filter (·.running)).length) <<< 32, fld 16 c.arr.wearWarn, fld 0 c.arr.slots]
  else if off = 0x0208 then
    regOf [fld 40 c.arr.nvHours, fld 30 c.arr.sMs, fld 24 c.arr.refreshT, fld 20 c.arr.margin, flb 1 c.arr.sEn,
      flb 0 c.arr.nvEn]
  else if off = 0x0210 then regArrayStat c
  else if off = 0x0218 then regOf [fld 32 c.arr.refreshes, fld 16 c.arr.substitutions, fld 0 c.arr.writeFails]
  else if off = 0x0300 then regOf [fld 32 c.buf.stalls, fld 16 c.buf.sbe, fld 0 c.buf.ded]
  else if 0x0308 ≤ off ∧ off < 0x0350 then regSo c off
  else if 0x0400 ≤ off ∧ off < 0x0420 then regRecipe c off
  else if 0x0500 ≤ off ∧ off < 0x0510 then regLoad c off
  else if 0x0600 ≤ off ∧ off < 0x0618 then regServe c off
  else if off = 0x0700 then c.boot.src
  else if off = 0x0708 then regOf [fld 0 c.boot.len]
  else if off = 0x0710 then regOf [fld 32 c.boot.aliveMs, fld 16 c.boot.attempts, fld 0 c.boot.fail]
  else if off = 0x0718 then
    regOf [((c.boot.image.map fun i => i.svn.toNat).getD 0) <<< 40, c.fuseSvn <<< 32,
      flb 11 c.boot.owner[3].isSome, flb 10 c.boot.owner[2].isSome, flb 9 c.boot.owner[1].isSome,
      flb 8 c.boot.owner[0].isSome, flb 3 c.boot.idOk, flb 2 c.boot.debugOpen, flb 1 true, flb 0 c.boot.ktEnabled]
  else 0

/-- The MBX block (R480 to R482). -/
def regMbx (c : Chip) (off : Nat) : Word64 :=
  let m := c.mbx
  if off = 0x0000 then regOf [fld 40 m.coalesceUs, fld 32 m.noticeQ, fld 0 m.qen]
  else if off = 0x0008 then regOf [fld 48 m.noticeDrops, fld 16 m.version, flb 3 m.compat, fld 0 m.fwState]
  else match regIdx off 0x0100 32 with
    | some i =>
      let q := c.mq (BitVec.ofNat 4 (i / 2))
      if i % 2 = 0 then regOf [fld 0 q.sqTail] else regOf [fld 0 q.cqHead]
    | none =>
      match regIdx off 0x0200 16 with
      | some n =>
        let q := c.mq (BitVec.ofNat 4 n)
        regOf [fld 48 q.cqTail, fld 40 q.sqHead, fld 16 q.completed, flb 2 q.commit, flb 1 q.cmd.isSome, flb 0 q.phase]
      | none => 0

/-- The default tally action of each source: its chapter's table (R375, R454, R483, R519 and the rest); reserved
sources give none. Codes: 0 count, 1 notify, 2 stand-in, 3 halt pass, 4 fault state (R394). -/
def defaultTally (n : Nat) : Option Nat :=
  if n ∈ [1, 2, 4, 6, 16, 22, 25, 32, 34, 35, 36, 37, 39, 49, 53, 67, 68, 70, 71, 83, 84, 96, 98, 103, 109, 135, 137,
      139, 153, 154, 176, 180, 182, 191] then some 0
  else if n ∈ [0, 7, 18, 19, 20, 21, 23, 24, 26, 38, 54, 55, 56, 65, 69, 72, 74, 75, 82, 85, 97, 99, 100, 101, 102, 104,
      105, 106, 107, 129, 131, 132, 136, 138, 140, 144, 145, 148, 149, 150, 151, 152, 155, 156, 177, 178, 179, 181,
      183, 184, 186, 187, 188, 189, 190] then some 1
  else if n ∈ [29, 130] then some 2
  else if n ∈ [3, 5, 17, 33, 48, 50, 51, 52, 64, 66, 73, 80, 81, 108, 128] then some 3
  else if n ∈ [27, 28, 133, 134, 141, 146, 147, 185] then some 4
  else none

/-- The default threshold and severe action (R377). -/
def defaultSevere (n : Nat) : Nat × Nat :=
  if n ∈ [64, 73, 66, 81, 80] then (64, 1)
  else if n = 108 then (65535, 3)
  else if n ∈ [138, 140] then (2, 4)
  else match defaultTally n with
    | some 0 => (4096, 1)
    | some 1 => (64, 1)
    | some 2 => (8, 4)
    | some 3 => (64, 4)
    | some 4 => (1, 4)
    | _ => (1, 0)

/-- A fault source at reset (R394 to R396). -/
def fltSrcReset (n : Nat) : FltSrc :=
  { sevAction := BitVec.ofNat 3 (defaultSevere n).2, tallyAction := BitVec.ofNat 3 ((defaultTally n).getD 0),
    n := BitVec.ofNat 16 (defaultSevere n).1, w := if (defaultTally n).isSome then 1_000_000_000 else 1 }

/-- A fault source. -/
def Chip.fltSrc (c : Chip) (n : Nat) : FltSrc := sget fltSrcReset c.flt.src n

/-- The number of sources with a property, of those that ever left reset. -/
def Chip.countSrc (c : Chip) (f : FltSrc → Bool) : Nat := (c.flt.src.filter fun p => f p.2).length

/-- Highest PACK_SEQ fields of FLT_PACK (R393). -/
def regPack (c : Chip) : Word64 :=
  regOf [((c.spk.bound.map fun p => p.seq.toNat).getD 0) <<< 32, ((c.spk.unbound.map fun p => p.seq.toNat).getD 0)]

/-- The FLT block (R389 to R396). -/
def regFlt (c : Chip) (off : Nat) : Word64 :=
  let f := c.flt
  if off = 0x0000 then
    regOf [fld 56 f.firstSrc, (c.countSrc (·.sticky)) <<< 40, (c.countSrc (·.severe)) <<< 32, flb 7 f.faultState,
      flb 6 c.pins.alive, ((f.reaction.map fun r => r.level.toNat).getD 0) <<< 3, flb 2 c.mbx.compat,
      flb 1 f.mgmtRestarted]
  else if off = 0x0008 then regOf [fld 32 f.resetDelayMs, fld 16 f.holdUs]
  else if off = 0x0010 then regOf [fld 32 f.classCorrected, fld 16 f.classContained, fld 0 f.classFatal]
  else if off = 0x0018 then regOf [fld 48 f.intRange, fld 32 f.intEnvelope, fld 16 f.intSprinkle, fld 0 f.intReruns]
  else if off = 0x0020 then regPack c
  else match regIdx off 0x1000 192 with
    | some n =>
      if (defaultTally n).isNone then 0 else
      let s := c.fltSrc n
      regOf [fld 53 s.sevAction, fld 48 s.tallyAction, fld 32 s.n, fld 0 s.w]
    | none => match regIdx off 0x2000 192 with
      | some n =>
        let s := c.fltSrc n
        regOf [fld 40 s.total, fld 24 s.wcount, flb 1 s.severe, flb 0 s.sticky]
      | none => match regIdx off 0x3000 192 with
        | some n => let s := c.fltSrc n; regOf [fld 32 s.firstTick, fld 0 s.detail]
        | none => 0

/-- A housekeeping channel is an AIN input and marked open: HK-A 0 to 7 are AIN0 to 7, HK-B 0 to 7 AIN8 to 15 (R412). -/
def Chip.hkOpen (c : Chip) (b : Bool) (n : Nat) : Bool :=
  decide (n < 8) && c.hk.open'.getLsbD (n + if b then 8 else 0)

/-- A converter result register (R424). -/
def regHkRes (c : Chip) (b : Bool) (n : Nat) : Word64 :=
  let r := sget (fun _ => ({} : HkRes)) (if b then c.hk.resB else c.hk.resA) n
  regOf [fld 48 r.round, flb 25 (c.hkOpen b n), flb 24 r.valid, fld 0 r.value]

/-- A lane's calibration codes, the fuse code where no item has become GOOD (R431). -/
def regCalLane (c : Chip) (n : Nat) : Word64 :=
  let l := sget (fun _ => ({} : CalLane)) c.cal.lane n
  regOf [fld 40 (l.heaterRx.getD (Config.fuseHeaterRx n)), fld 28 (l.heaterTx.getD (Config.fuseHeaterTx n)),
    fld 20 (l.bias.getD (Config.fuseBias n)), fld 15 (l.term.getD (Config.fuseTerm n)), fld 0 l.eye]

/-- The HK / THM / CAL block (R181, R420 to R431). -/
def regHk (c : Chip) (off : Nat) : Word64 :=
  let h := c.hk
  if off = 0x0000 then
    regOf [fld 32 h.round, fld 20 h.set.avgB, fld 16 h.set.avgA, flb 1 h.set.alignB, flb 0 h.set.alignA]
  else if off = 0x0010 then regOf [fld 48 h.urgentDrops, fld 32 h.xcheckDiff, fld 16 h.open', fld 0 h.set.owEn]
  else if off = 0x0020 then regOf [fld 32 h.pkgMw, fld 0 h.dieMw]
  else if off = 0x1400 then
    regOf [fld 48 h.hottest, fld 40 h.hottestOsc, fld 8 h.throttled, flb 2 h.trip, flb 1 h.shutdown, flb 0 h.warning]
  else if off = 0x1408 then
    regOf [118 <<< 32, fld 24 h.set.thrClr, fld 16 h.set.thrSet, fld 8 h.set.warnClr, fld 0 h.set.warnSet]
  else if off = 0x1410 then regOf [fld 8 h.set.proofK, fld 0 h.set.proofLen]
  else if off = 0x2000 then regOf [fld 16 h.set.eyeMin, fld 0 h.set.deltaT]
  else match regIdx off 0x0040 8 with
    | some n => regOf [(h.set.shunt.toList.getD n 0).toNat]
    | none => match regIdx off 0x0100 32 with
    | some n => regHkRes c false n
    | none => match regIdx off 0x0200 32 with
    | some n => regHkRes c true n
    | none => match regIdx off 0x0800 16 with
    | some n =>
      let p := sget (fun _ => ({} : Pace)) c.fab.pace n
      regOf [flb 48 p.slow, fld 32 p.uMax, fld 0 p.u]
    | none => match regIdx off 0x1000 72 with
    | some n =>
      let t := sget (fun _ => ({} : ThmTemp)) h.temp n
      regOf [fld 48 t.tMax, flb 17 t.excluded, flb 16 t.doubtful, fld 0 t.t]
    | none => match regIdx off 0x2100 72 with
    | some n =>
      let i := sget (fun _ => ({} : CalItem)) c.cal.item n
      regOf [fld 40 i.residual, fld 32 i.retries, fld 16 i.runT, fld 0 i.state]
    | none => match regIdx off 0x2400 64 with
    | some n => regCalLane c n
    | none => 0

/-- The records held in the record area. -/
def Chip.evrRecords (c : Chip) : List EvRec :=
  c.evr.slots.filterMap fun p => match p.2 with | .holds r => some r | _ => none

/-- The earliest of some sequence numbers under pass_cmp() (R438). -/
def earliestSeq : List (BitVec 32) → Option (BitVec 32)
  | [] => none
  | x :: xs => match earliestSeq xs with
    | none => some x
    | some y => some (if passBefore y x then y else x)

/-- EVR_HEAD.HEAD: the largest SEQ with every earlier record durable or dropped (R438). -/
def Chip.evrHead (c : Chip) : BitVec 32 :=
  match earliestSeq (c.evr.buffer.filterMap (·.r.seq)) with
  | some s => s - 1
  | none => c.evr.lastSeq

/-- EVR_HEAD.OLDEST (R448). -/
def Chip.evrOldest (c : Chip) : BitVec 32 := (earliestSeq (c.evrRecords.filterMap (·.seq))).getD c.evrHead

/-- The snapshot list's reset entries: block, register offset, half (R440). -/
def snapReset (n : Nat) : EvSnap :=
  match ([(2, 0x0000, false), (2, 0x0000, true), (0, 0x0400, false), (0, 0x0400, true), (0, 0x0408, false),
    (0, 0x0408, true), (0, 0x0508, false), (0, 0x0508, true), (0, 0x0210, false), (0, 0x0210, true), (3, 0x1400, false),
    (3, 0x1400, true), (3, 0x0020, false), (3, 0x0020, true), (6, 0x0008, false), (5, 0x0208, false), (5, 0x0208, true),
    (2, 0x0018, false), (2, 0x0018, true)] : List (Nat × Nat × Bool))[n]? with
  | some (b, o, h) => { en := true, block := BitVec.ofNat 3 b, offset := BitVec.ofNat 13 (o / 8), half := h }
  | none => {}

/-- The EVR block (R448 to R453). -/
def regEvr (c : Chip) (off : Nat) : Word64 :=
  let e := c.evr
  if off = 0x0000 then (if e.ready then regOf [fld 32 c.evrOldest, fld 0 c.evrHead] else 0)
  else if off = 0x0008 then
    regOf [fld 48 e.drops, fld 32 e.overwrites, fld 24 e.bufDrops, fld 16 e.torn, e.bad.length <<< 2,
      flb 1 ((e.clear.map (·.invalidating)).getD false), flb 0 e.ready]
  else if off = 0x0010 then regOf [(if e.ready then c.evrRecords.length else 0) <<< 16, e.buffer.length]
  else if off = 0x0020 then regOf [fld 32 e.pcycle, fld 0 e.hours]
  else match regIdx off 0x0100 48 with
    | some n =>
      let s := sget snapReset e.snap n
      regOf [flb 19 s.en, fld 16 s.block, fld 3 s.offset, flb 0 s.half]
    | none => 0

/-- The OPT block (R355 to R359). -/
def regOpt (c : Chip) (off : Nat) : Word64 :=
  if off = 0x0200 then regOf [flb 8 c.opt.autoReinstate, flb 0 c.opt.tunnelPref]
  else if off = 0x0208 then
    regOf [fld 32 c.opt.tkFirst, fld 16 c.opt.tkReruns, fld 7 c.opt.tkLost, fld 0 c.opt.tkState]
  else if off < 0x0200 then
    let p := c.port (BitVec.ofNat 3 (off / 0x40))
    if off % 0x40 = 0 then
      let st := match p.state with | .disabled => 0 | .down => 1 | .training => 2 | .up => 3 | .degraded => 4
      regOf [fld 48 p.delayNs, fld 32 p.peer, fld 24 p.laneMap, fld 20 (if p.isUp then p.version else 0), fld 18 p.peerPart, flb 15 p.isVirtual,
        flb 14 p.mirrorOut, flb 13 p.splice, flb 12 p.detour, flb 3 p.peerAlive, st]
    else if off % 0x40 = 8 then
      regOf [fld 40 p.fecCorr, fld 24 p.retries, fld 16 p.downs, fld 8 p.laneLosses, min 255 (p.discarded / 1000)]
    else if off % 0x40 = 0x10 then regOf [flb 0 p.enable]
    else 0
  else 0

/-- The TICK block (R182, R187); TICK_NOW reads the live count, without its latch. -/
def regTick (c : Chip) (off : Nat) : Word64 :=
  let t := c.tick
  if off = 0x0000 then t.count
  else if off = 0x0008 then
    regOf [fld 32 t.offsetPs, fld 8 t.parent, flb 2 t.actingRoot, flb 1 t.holdover, flb 0 t.aligned]
  else if off = 0x0018 then regOf [fld 32 t.groupMax, fld 0 t.groupLast]
  else 0

/-- The register at an offset of a block coded as EVR_SNAPn.BLOCK (R453); an unassigned offset reads 0 (R9). -/
def regRead (c : Chip) (block off : Nat) : Word64 :=
  match block with
  | 0 => regSys c off
  | 1 => regMbx c off
  | 2 => regFlt c off
  | 3 => regHk c off
  | 4 => regEvr c off
  | 5 => regOpt c off
  | 6 => regTick c off
  | _ => 0

end Sys2Proof.Machine
end

