-- ==== Sys2Proof/Machine/Recorder.lean ====
section
/-! DEFINITION. The event recorder's operations: creating, buffering and flushing records, slot choice, and the bytes of
a record (R433 to R444). The rows of the recorder stand in `Machine/RecorderCmds.lean`. -/

namespace Sys2Proof.Machine

/-- A slot of the record area. -/
def Chip.evSlot (c : Chip) (i : Nat) : EvSlot := sget (fun _ => .empty) c.evr.slots i

/-- Rewrite the recorder. -/
def Chip.modEvr (c : Chip) (f : Evr → Evr) : Chip := { c with evr := f c.evr }

/-- Store a slot. -/
def Evr.setSlot (e : Evr) (i : Nat) (s : EvSlot) : Evr := { e with slots := sset (fun _ => .empty) e.slots i s }

/-- The values the enabled snapshot entries name, in ascending entry order (R440). -/
def Chip.snapshot (c : Chip) : List (BitVec 32) :=
  (List.range 48).filterMap fun n =>
    let s := sget snapReset c.evr.snap n
    if s.en && s.block != 7 then
      let v := regRead c s.block.toNat (s.offset.toNat * 8)
      some (if s.half then v.extractLsb' 32 32 else v.extractLsb' 0 32)
    else none

/-- A record of the moment (R435): fault and power records carry the snapshot. -/
def Chip.newRec (c : Chip) (severity : Nat) (source : Nat) : EvRec :=
  { hours := c.evr.hours, pcycle := c.evr.pcycle, severity := BitVec.ofNat 8 severity,
    source := BitVec.ofNat 16 source, tick := c.tick.count, pass := c.rcp.lastPass, snap := c.snapshot }

/-- The 256 bytes of a record (R435). -/
def EvRec.bytes (r : EvRec) : List Byte :=
  let words := (r.snap ++ r.body).take 48
  let body := (words ++ List.replicate (48 - words.length) (0 : BitVec 32)).flatMap fun (w : BitVec 32) => leBytes 4 w.toNat
  let merged := (r.merged.take 15).map (fun b => b) ++ List.replicate (15 - min 15 r.merged.length) 0xFF#8
  let head := leBytes 4 ((r.seq.getD 0).toNat) ++ leBytes 4 r.hours.toNat ++ leBytes 3 r.pcycle.toNat ++ [r.severity]
    ++ leBytes 2 r.source.toNat ++ [2#8, BitVec.ofNat 8 (bit r.permanent + 2 * bit r.dropsBefore)]
    ++ leBytes 8 r.tick.toNat ++ leBytes 4 r.detail.toNat ++ leBytes 4 r.pass.toNat
    ++ [BitVec.ofNat 8 r.snap.length, BitVec.ofNat 8 (min 255 r.mergedCount)] ++ merged ++ List.replicate 7 0#8
  head ++ leBytes 4 (crc32 (head ++ body)).toNat ++ leBytes 4 0xA55AC33C ++ body

/-- The lowest free slot of a bank that is not bad: slots i, i + 4, … (R443 item 1). -/
def freeSlot (c : Chip) : Nat → Nat → Option Nat
  | 0, _ => none
  | n + 1, i =>
    let isBad := sget (fun _ => false) c.evr.bad i
    let isFree := match c.evSlot i with | .holds _ => false | _ => true
    if isFree && !isBad then some i else freeSlot c n (i + 4)

/-- The oldest record of a bank that satisfies a test, with its slot. -/
def oldestIn (c : Chip) (bank : Nat) (f : EvRec → Bool) : Option (Nat × EvRec) :=
  c.evr.slots.foldl (fun acc p =>
    match p.2 with
    | .holds r =>
      if p.1 % 4 = bank && f r then
        match acc with
        | none => some (p.1, r)
        | some (i, q) => if passBefore (r.seq.getD 0) (q.seq.getD 0) then some (p.1, r) else some (i, q)
      else acc
    | _ => acc) none

/-- The slot a record takes and whether it replaces a record (R443). -/
def chooseSlot (c : Chip) (r : EvRec) : Option (Nat × Bool) :=
  let bank := (r.seq.getD 0).toNat % 4
  match freeSlot c 4096 bank with
  | some i => some (i, false)
  | none =>
    match oldestIn c bank (fun q => !q.permanent && decide (q.severity ≤ r.severity)) with
    | some (i, _) => some (i, true)
    | none =>
      if r.permanent && (oldestIn c bank (fun q => !q.permanent)).isNone then
        (oldestIn c bank (fun q => q.permanent)).map fun p => (p.1, true)
      else none

/-- The entry of the buffer a bank writes next: earliest SEQ of the flush's first writes; rewrites only when no first
write of the flush is left in any bank (R434, R441). -/
def nextEntry (c : Chip) (bank : Nat) : Option EvBuf :=
  let cand := fun (rw : Bool) => c.evr.buffer.filter fun b =>
    b.flushing && b.slot.isNone && b.rewrite == rw && decide ((b.r.seq.getD 0).toNat % 4 = bank) && b.r.seq.isSome
  let firstLeft := c.evr.buffer.any fun b => b.flushing && !b.rewrite && b.r.seq.isSome
  let pick := fun (l : List EvBuf) => l.foldl (fun acc b =>
    match acc with
    | none => some b
    | some a => if passBefore (b.r.seq.getD 0) (a.r.seq.getD 0) then some b else some a) (none : Option EvBuf)
  match pick (cand false) with
  | some b => some b
  | none => if firstLeft then none else pick (cand true)

/-- Start the next write of a bank that is not writing; a record with no slot is dropped (R443). Answers the records
dropped. -/
def pumpBank (bank : Nat) : Nat → Chip → Chip × List EvRec
  | 0, c => (c, [])
  | n + 1, c =>
    let writing := c.evr.buffer.any fun b => b.slot.isSome && decide ((b.r.seq.getD 0).toNat % 4 = bank)
    if writing then (c, [])
    else match nextEntry c bank with
      | none => (c, [])
      | some b =>
        match chooseSlot c b.r with
        | some (i, replaced) =>
          let c1 := c.modEvr fun e => (e.setSlot i .empty)
          let c2 := c1.modEvr fun e =>
            { e with
              buffer := e.buffer.map fun x => if x.r.seq = b.r.seq then { x with slot := some (BitVec.ofNat 14 i) } else x
              overwrites := if replaced then satAdd e.overwrites 1 else e.overwrites }
          (c2, [])
        | none =>
          let c1 := c.modEvr fun e =>
            { e with buffer := e.buffer.filter (fun x => x.r.seq ≠ b.r.seq), drops := satAdd e.drops 1, dropsFlag := true }
          let r := pumpBank bank n c1
          (r.1, b.r :: r.2)

/-- Start what can be written in the four banks, and end the flush when nothing of it is left. -/
def Chip.pump (c : Chip) : Chip × List EvRec :=
  if c.evr.ready && c.evr.flushing then
    let step := fun (acc : Chip × List EvRec) bank =>
      let r := pumpBank bank 65 acc.1
      (r.1, acc.2 ++ r.2)
    let r := [0, 1, 2, 3].foldl step (c, [])
    if r.1.evr.buffer.any (·.flushing) then r
    else (r.1.modEvr fun e => { e with flushing := false, pwrfailFlush := false }, r.2)
  else (c, [])

/-- Start a flush of every entry present (R441). -/
def Chip.startFlush (c : Chip) : Chip × List EvRec :=
  if c.evr.buffer.isEmpty then (c, [])
  else (c.modEvr fun e => { e with flushing := true, buffer := e.buffer.map fun b => { b with flushing := true } }).pump

/-- Create a record (R438, R441): it takes its SEQ when the scan is complete, enters the buffer or is dropped, and may
start a flush. Answers the chip, how many records were dropped with the buffer full, and those dropped by slot choice. -/
def Chip.createRec (c : Chip) (r : EvRec) (reserved : Bool) : Chip × Nat × List EvRec :=
  if c.evr.closed then (c, 0, [])
  else
    let seq := if c.evr.ready then some (c.evr.lastSeq + 1) else none
    let r := { r with seq, dropsBefore := c.evr.dropsFlag }
    let e : Evr := { c.evr with dropsFlag := false, lastSeq := seq.getD c.evr.lastSeq }
    if !reserved && decide (64 ≤ (e.buffer.filter (fun b => !b.reserved)).length) then
      ({ c with evr := { e with bufDrops := satAdd e.bufDrops 1, dropsFlag := true } }, 1, [])
    else
      let c1 : Chip := { c with evr := { e with buffer := e.buffer ++ [({ r := r, reserved := reserved, flushing := e.flushing } : EvBuf)] } }
      let c2 := if 3 ≤ r.severity.toNat || reserved || decide (32 ≤ c1.evr.buffer.length) then c1.startFlush
        else c1.pump
      (c2.1, 0, c2.2)

end Sys2Proof.Machine
end

