-- ==== Sys2Proof/Machine/Sources.lean ====
section
/-! DEFINITION. The fault sources' indices (R374, R432, R454, R483, R519). -/

namespace Sys2Proof.Machine.Src

def nonfinite : BitVec 8 := 0
def inputSat : BitVec 8 := 1
def outSat : BitVec 8 := 2
def accRange : BitVec 8 := 3
def outlierOvf : BitVec 8 := 4
def invalidScale : BitVec 8 := 5
def lockedRegWrite : BitVec 8 := 6
def fireGovernor : BitVec 8 := 7
def icingMinority : BitVec 8 := 16
def icingSplit : BitVec 8 := 17
def nvWriteFail : BitVec 8 := 18
def wearWarn : BitVec 8 := 19
def wearLimit : BitVec 8 := 20
def scrubLate : BitVec 8 := 21
def nvWeak : BitVec 8 := 22
def nvCorr : BitVec 8 := 23
def nvUncorr : BitVec 8 := 24
def sSbe : BitVec 8 := 25
def sDed : BitVec 8 := 26
def standinExhausted : BitVec 8 := 27
def standinHold : BitVec 8 := 28
def beatTimeout : BitVec 8 := 29
def bufSbe : BitVec 8 := 32
def bufDed : BitVec 8 := 33
def bufOpRange : BitVec 8 := 34
def slotUnderrun : BitVec 8 := 35
def slotOverrun : BitVec 8 := 36
def soStray : BitVec 8 := 37
def soOverflow : BitVec 8 := 38
def soReinit : BitVec 8 := 39
def meshOrder : BitVec 8 := 48
def meshSbe : BitVec 8 := 49
def meshDed : BitVec 8 := 50
def meshHopTimeout : BitVec 8 := 51
def meshHdr : BitVec 8 := 52
def winNack : BitVec 8 := 53
def winAckTimeout : BitVec 8 := 54
def paceSlow : BitVec 8 := 55
def tickAlign : BitVec 8 := 56
def recipeMismatch : BitVec 8 := 64
def recipeDrain : BitVec 8 := 65
def lengthClass : BitVec 8 := 66
def streamLate : BitVec 8 := 67
def chunkAuth : BitVec 8 := 68
def chunkFailed : BitVec 8 := 69
def imageWrite : BitVec 8 := 70
def loadStray : BitVec 8 := 71
def goldenCorrupt : BitVec 8 := 72
def wepochMismatch : BitVec 8 := 73
def epochDrain : BitVec 8 := 74
def startVerify : BitVec 8 := 75
def schedLate : BitVec 8 := 80
def reqState : BitVec 8 := 81
def kvLost : BitVec 8 := 82
def deadlineMiss : BitVec 8 := 83
def tokenRingFull : BitVec 8 := 84
def rerunLimit : BitVec 8 := 85
def linkRetry : BitVec 8 := 96
def linkRetryExhausted : BitVec 8 := 97
def linkTrain : BitVec 8 := 98
def linkWiring : BitVec 8 := 99
def laneLoss : BitVec 8 := 100
def portMultiDegrade : BitVec 8 := 101
def portDown : BitVec 8 := 102
def custodyHold : BitVec 8 := 103
def custodyTimeout : BitVec 8 := 104
def deviceLost : BitVec 8 := 105
def takeoverStaged : BitVec 8 := 106
def takeoverLate : BitVec 8 := 107
def groupUncovered : BitVec 8 := 108
def tunnelDrop : BitVec 8 := 109
def rangeCheck : BitVec 8 := 128
def statEnvelope : BitVec 8 := 129
def sprinkleArray : BitVec 8 := 130
def sprinkleSpare : BitVec 8 := 131
def sprinkleStandin : BitVec 8 := 132
def sprinkleVector : BitVec 8 := 133
def sprinkleMesh : BitVec 8 := 134
def sprinkleTransient : BitVec 8 := 135
def sprinkleCoverage : BitVec 8 := 136
def packReject : BitVec 8 := 137
def mgmtWatchdog : BitVec 8 := 138
def mgmtEccCorr : BitVec 8 := 139
def mgmtEccUncorr : BitVec 8 := 140
def faultEnterCmd : BitVec 8 := 141
def thmWarn : BitVec 8 := 144
def thmThrottle : BitVec 8 := 145
def thmShutdown : BitVec 8 := 146
def thmTrip : BitVec 8 := 147
def thmSensor : BitVec 8 := 148
def pwrLimit : BitVec 8 := 149
def pwrSense : BitVec 8 := 150
def hkXcheck : BitVec 8 := 151
def hkOpenWire : BitVec 8 := 152
def hkUrgentDrop : BitVec 8 := 153
def calRetry : BitVec 8 := 154
def calDoubtful : BitVec 8 := 155
def calEye : BitVec 8 := 156
def evrDrop : BitVec 8 := 176
def evrWriteFail : BitVec 8 := 177
def evrTorn : BitVec 8 := 178
def evrClearReject : BitVec 8 := 179
def mbxDoorbell : BitVec 8 := 180
def mbxTimeout : BitVec 8 := 181
def mbxCqFull : BitVec 8 := 182
def mbxAuth : BitVec 8 := 183
def railRange : BitVec 8 := 184
def refclkLoss : BitVec 8 := 185
def fwReject : BitVec 8 := 186
def fwRollback : BitVec 8 := 187
def pwrfailRelease : BitVec 8 := 188
def debugUnlock : BitVec 8 := 189
def debugReject : BitVec 8 := 190
def fuseEcc : BitVec 8 := 191

end Sys2Proof.Machine.Src
end

