-- ==== Sys2Proof/Machine/Flags.lean ====
section
/-! DEFINITION. The fault collector (R374 to R387): counting an event, starting or merging a reaction, stand-in orders,
halts, entry to the fault state, and the details of R521. `raise` is the one operation by which a meaning reports. -/

namespace Sys2Proof.Machine

/-- Rewrite the collector. -/
def Chip.modFlt (c : Chip) (f : Flt → Flt) : Chip := { c with flt := f c.flt }

/-- The class of an action (R384). -/
def classOf (action : Nat) : FltClass :=
  if action = 0 then .corrected else if action = 4 then .fatal else .contained

/-- The open window an event of stamp `t` belongs to, else the one it opens (R376); the flag says that it is new. -/
def windowFor (s : FltSrc) (t : BitVec 32) : FltWindow × Bool :=
  let fresh : FltWindow := { start := t, n := s.n, w := s.w }
  match s.window with
  | none => (fresh, true)
  | some w => if (t - w.start).toNat < max 1 w.w.toNat then (w, false) else (fresh, true)

/-- Count one event on a source and say which action it takes (R376, R378). -/
def countOn (s : FltSrc) (t detail : BitVec 32) : FltSrc × Nat :=
  let (w, isNew) := windowFor s t
  let wcount := if isNew then 1 else satAdd s.wcount 1
  let severe := s.severe || wcount.toNat == max 1 w.n.toNat
  let action := (if severe then s.sevAction else s.tallyAction).toNat
  let s := { s with total := satAdd s.total 1, wcount, severe, window := some w }
  (if s.sticky then s
   else { s with sticky := true, firstTick := t, detail, firstClass := some (classOf action) }, action)

/-- Count an event in the collector: its source, FIRST_SRC and the class counts (R378, R384, R391). -/
def Chip.countEvent (c : Chip) (src : BitVec 8) (detail : BitVec 32) : Chip × Nat :=
  let s := c.fltSrc src.toNat
  let r := countOn s c.stamp detail
  let f := c.flt
  let cls := classOf r.2
  let f := { f with
    src := sset fltSrcReset f.src src.toNat r.1
    firstSrc := if !s.sticky && f.firstSrc == 0xFF then src else f.firstSrc
    classCorrected := if cls = .corrected then satAdd f.classCorrected 1 else f.classCorrected
    classContained := if cls = .contained then satAdd f.classContained 1 else f.classContained
    classFatal := if cls = .fatal then satAdd f.classFatal 1 else f.classFatal
    classFirst := if f.classFirst.any (·.1 == cls) then f.classFirst else f.classFirst ++ [(cls, src, detail)] }
  ({ c with flt := f }, r.2)

/-- What a reaction does with an event's action when it names no target or no pass (R379, R394). -/
def actionOf (action : Nat) (info : EventInfo) : Nat :=
  let a := if action = 2 ∧ info.target.isNone then 3 else action
  if a = 3 ∧ info.pass.isNone then 1 else a

/-- Merge an event into a running reaction (R380). -/
def Reaction.merge (r : Reaction) (src : BitVec 8) (a : Nat) (info : EventInfo) : Reaction :=
  { r with
    level := if r.level.toNat < a then BitVec.ofNat 3 a else r.level
    merged := if src = r.first ∨ src ∈ r.merged then r.merged else r.merged ++ [src]
    targets := if a = 2 then r.targets ++ info.target.toList else r.targets
    passes := if a = 3 then r.passes ++ info.pass.toList else r.passes }

/-- Start a reaction or merge into the running one; a count starts and merges nothing (R379, R380). -/
def Chip.noteReaction (c : Chip) (src : BitVec 8) (a : Nat) (detail : BitVec 32) (info : EventInfo) : Chip :=
  if a = 0 then c
  else
    let r := match c.flt.reaction with
      | none => { (Reaction.merge { level := 0, first := src, detail } src a info) with merged := [] }
      | some r => r.merge src a info
    c.modFlt fun f => { f with reaction := some r }

/-- Count and merge an event of a record dropped (R441, R443): its reactions start no record. -/
def Chip.countDrops (c : Chip) : Nat → Chip
  | 0 => c
  | n + 1 =>
    let r := c.countEvent Src.evrDrop 0
    (r.1.noteReaction Src.evrDrop (actionOf r.2 {}) 0 {}).countDrops n

/-- The self-reset delay pending: the earlier of two (R497). -/
def minDelay (a : Option Nat) (b : Nat) : Option Nat := some (match a with | some x => min x b | none => b)

/-- Entry to the fault state (R387), by an event of source `src`: ALIVE holds, every tile halts, HALT blocks and
darkness, the record of R436 and its flush, the sideband and in-band messages, and the pending self-reset (R404: none
after a thermal shut-down). -/
def Chip.enterFault (c : Chip) (src : BitVec 8) : Chip :=
  let thermal := src = Src.thmShutdown || src = Src.thmTrip
  let c := if thermal then
      { c with flt := { c.flt with thermal := true }, boot := { c.boot with selfReset := none } } else c
  if c.flt.faultState then c
  else
    let reason := if thermal then 2 else 1
    let r := c.flt.reaction.getD { level := 4, first := src, detail := 0 }
    let source := if src = Src.thmShutdown then 0x0103 else if src = Src.thmTrip then 147 else r.first.toNat
    let c := { c with
      pins := { c.pins with aliveRun := false }
      flt := { c.flt with faultState := true }
      fab := { c.fab with deviceHalt := true }
      cal := { c.cal with run := none, waiting := [], runM := none, waitingM := false, full := none }
      boot := { c.boot with
        selfReset := if c.flt.thermal then none else minDelay c.boot.selfReset c.flt.resetDelayMs.toNat } }
    let c := (c.sendCtl 0 .haltDevice).haltPorts reason
    let c := c.emits (c.upModules.map fun m => .sideband m .faultState)
    let c := if c.side.i3cAddr.isSome then c.emit (.inBand 0x01) else c
    let rec0 := { c.newRec 4 source with detail := r.detail, mergedCount := r.merged.length, merged := r.merged }
    let (c, bufDrops, slotDrops) := c.createRec rec0 false
    c.countDrops (bufDrops + slotDrops.length)

/-- The detail of a tile source (R521). -/
def tileDetail (t : TileIx) (unit slot : Nat) : BitVec 32 :=
  BitVec.ofNat 32 (place 22 10 t.toNat + place 14 8 unit + place 0 14 slot)

/-- The unit code of a physical N-array and S-array (R521). -/
def unitPhysN (a : Nat) : Nat := 0x40 + a
def unitPhysS (a : Nat) : Nat := 0xC0 + a

/-- The detail of a port source (R521): port, peer position, lane. -/
def Chip.portDetail (c : Chip) (p : PortIx) (lane : Nat) : BitVec 32 :=
  BitVec.ofNat 32 (p.toNat + place 8 9 (c.port p).peer.toNat + place 20 3 lane)

/-- A stand-in order that meets a stand-in that is not FREE, or whose stand-in fails (R101): STANDIN_EXHAUSTED raises
and, by its fixed action, the device enters the fault state. -/
def Chip.exhaust (c : Chip) (t : TileIx) (target : Target) : Chip :=
  let c := c.modTileArr t fun a => { a with exhausted := true }
  let detail := tileDetail t (targetCode target) 0
  let r := c.countEvent Src.standinExhausted detail
  let info : EventInfo := { detail, target := some (t, target) }
  (r.1.noteReaction Src.standinExhausted 4 detail info).enterFault Src.standinExhausted

/-- A target is held, or the stand-in loads for it or serves it: an order for it changes nothing (R95, R97). -/
def Chip.isCovered (c : Chip) (t : TileIx) (target : Target) : Bool :=
  let a := c.tileArr t
  a.held.contains target
    || (a.standin.state != .free && a.standin.state != .failed && a.standin.target == some target)

/-- A stand-in order (R95, R96, R101): the target is held and the stand-in, when FREE, starts LOADING. An S-array whose
place the stand-in is to take has failed (R108). -/
def Chip.orderStandin (c : Chip) (t : TileIx) (target : Target) (refresh : Bool) : Chip :=
  let c := c.modTileArr t fun a => { a with
    held := if target ∈ a.held then a.held else a.held ++ [target]
    sFailed := match target with
      | .s n => a.sFailed ||| (1#9 <<< n.toNat)
      | .n _ _ => a.sFailed }
  if (c.tileArr t).standin.state = .free then
    let c := c.modTileArr t fun a => { a with
      standin := { state := .loading, target := some target, rows := 0, refresh, permanent := false }
      standinTest := false }
    { c with load := { c.load with requests := c.load.requests ++ [.standin t target] } }
  else c.exhaust t target

/-- A pass-scope HALT on this device's control mesh (R171). -/
def Chip.haltPass (c : Chip) (p : Pass) : Chip :=
  let c := if p ∈ c.fab.halted then c else { c with fab := { c.fab with halted := c.fab.halted ++ [p] } }
  c.sendCtl 0 (.haltPass p)

/-- What a reaction does for an event of an action (R379). -/
def Chip.perform (c : Chip) (src : BitVec 8) (a : Nat) (info : EventInfo) : Chip :=
  match a with
  | 2 => match info.target with
    | some (t, tg) => if c.isCovered t tg then c else (c.sendCtl 0 (.standin t tg)).orderStandin t tg false
    | none => c
  | 3 => match info.pass with
    | some p => c.haltPass p
    | none => c
  | 4 => c.enterFault src
  | _ => c

/-- The consequences a source has beside its action: FLT_INT_STAT (R392), the retired spare and the failed stand-in
(R375), the tile's mark of R106. -/
def Chip.sourceEffect (c : Chip) (src : BitVec 8) (info : EventInfo) : Chip :=
  let tile : TileIx := info.detail.extractLsb' 22 10
  if src = Src.rangeCheck then c.modFlt fun f => { f with intRange := satAdd f.intRange 1 }
  else if src = Src.statEnvelope then c.modFlt fun f => { f with intEnvelope := satAdd f.intEnvelope 1 }
  else if src = Src.sprinkleSpare then
    let c := c.modFlt fun f => { f with intSprinkle := satAdd f.intSprinkle 1 }
    let c := c.modTileArr tile fun a => { a with spareState := 3 }
    { c with arr := { c.arr with maps := smod (fun _ => {}) c.arr.maps tile.toNat fun m =>
        { m with spare := 31, retired := if m.spare.toNat < 17 then m.retired ||| (1#17 <<< m.spare.toNat) else m.retired } } }
  else if src = Src.sprinkleStandin then
    let c := c.modFlt fun f => { f with intSprinkle := satAdd f.intSprinkle 1 }
    c.modTileArr tile fun a =>
      { a with standin := { a.standin with state := .failed }, sFailed := a.sFailed ||| 0x100 }
  else if src = Src.standinExhausted then c.modTileArr tile fun a => { a with exhausted := true }
  else if src = Src.sprinkleArray || src = Src.sprinkleVector || src = Src.sprinkleMesh then
    c.modFlt fun f => { f with intSprinkle := satAdd f.intSprinkle 1 }
  else c

/-- A fault event reaches the collector (R376 to R381). A reserved source never raises (R374). -/
def Chip.raise (c : Chip) (src : BitVec 8) (info : EventInfo) : Chip :=
  if (defaultTally src.toNat).isNone then c
  else
    let c := c.sourceEffect src info
    let r := c.countEvent src info.detail
    let a := actionOf r.2 info
    (r.1.noteReaction src a info.detail info).perform src a info

/-- Raise a source with a detail only. -/
def Chip.tally (c : Chip) (src : BitVec 8) (detail : BitVec 32) : Chip := c.raise src { detail }

/-- Raise EVR_DROP for each record dropped (R441, R443). -/
def Chip.raiseDrops (c : Chip) : Nat → Chip
  | 0 => c
  | n + 1 => (c.tally Src.evrDrop 0).raiseDrops n

/-- Create a record, reporting what it made drop. -/
def Chip.record (c : Chip) (r : EvRec) (reserved : Bool) : Chip :=
  let (c, a, b) := c.createRec r reserved
  c.raiseDrops (a + b.length)

end Sys2Proof.Machine
end

