-- ==== Sys2Proof/Machine/SyncCore.lean ====
section
/-! DEFINITION. One sync object by itself (R124 to R132, R137): its operations, and what each releases. What released
waiters then do stands in `Machine/SyncOps.lean`. -/

namespace Sys2Proof.Machine

/-- A sync object. -/
def Chip.soObj (c : Chip) (i : SoIx) : SyncObj := sget (fun _ => {}) c.so.obj i.toNat

/-- Store a sync object. -/
def Chip.setSo (c : Chip) (i : SoIx) (o : SyncObj) : Chip :=
  { c with so := { c.so with obj := sset (fun _ => {}) c.so.obj i.toNat o } }

/-- The detail of a source that names a sync object (R521). -/
def soDetail (i : SoIx) : BitVec 32 := tileDetail (i.extractLsb' 3 10) (i.toNat % 8) 0

/-- The object's place: object `l` of tile `t` (R123). -/
def soIx (t : TileIx) (l : BitVec 3) : SoIx := BitVec.ofNat 13 (8 * t.toNat + l.toNat)

/-- The state evaluation of R126. -/
def SyncObj.eval (o : SyncObj) : SyncObj :=
  match o.state with
  | .wait | .met => { o with state := if o.limit.toNat ≤ o.count.toNat then .met else .wait }
  | _ => o

/-- What an operation on an object brings about: waiters released with MET or the timeout outcome, and whether the
object became MET. -/
structure SoOut where
  released : List Waiter := []
  met : Bool := true
  becameMet : Bool := false
  deriving DecidableEq, Repr

/-- Evaluate an object and release whom its state releases; AUTO subtracts its limit once (R126, R127). -/
def SyncObj.settle (o : SyncObj) (was : SoState) : SyncObj × SoOut :=
  let o := o.eval
  match o.state with
  | .met =>
    let free := { o with waiters := [], timer := none }
    let free := if o.auto then ({ free with count := free.count - free.limit } : SyncObj).eval else free
    (free, { released := o.waiters, met := true, becameMet := was != .met })
  | .timeout | .error => ({ o with waiters := [], timer := none }, { released := o.waiters, met := false })
  | .off => ({ o with waiters := [], timer := none }, { released := o.waiters, met := true })
  | .wait => (o, {})

/-- The timeout of a class in µs. -/
def Chip.classUs (c : Chip) (k : BitVec 3) : Nat := (c.so.tclass.toList.getD k.toNat 0).toNat

/-- Count an object's entry into ERROR (R148). -/
def Chip.countError (c : Chip) : Chip := { c with so := { c.so with errors := satAdd c.so.errors 1 } }

/-- A signal to or a wait on an object in OFF (R126, R148). -/
def Chip.straySo (c : Chip) (i : SoIx) : Chip :=
  ({ c with so := { c.so with stray := satAdd c.so.stray 1 } } : Chip).tally Src.soStray (soDetail i)

/-- The operations that reach an object in one handshake, sorted as R132 applies them: a SET, a rearm, all signals summed
(how many there are, and their sum), a SIGNAL_ERR, the expiry of the timer. -/
structure SoBatch where
  set : Option (BitVec 24 × BitVec 24 × BitVec 3 × Bool) := none
  rearm : Bool := false
  count : Nat := 0
  signals : Nat := 0
  errs : Nat := 0
  err : Option (BitVec 4) := none
  expire : Bool := false
  deriving DecidableEq, Repr

/-- Add an operation to a handshake's batch. -/
def SoBatch.add (b : SoBatch) : SoOp → SoBatch
  | .set count limit tclass auto => { b with set := some (count, limit, tclass, auto) }
  | .signal n => { b with count := b.count + 1, signals := b.signals + n.toNat }
  | .err code => { b with errs := b.errs + 1, err := some code }
  | .expire => { b with expire := true }

/-- The batch of a handshake's operations. -/
def batchOf (ops : List SoOp) : SoBatch := ops.foldl SoBatch.add {}

/-- SET (R125): loads the four fields, clears ERR, stops the timer. -/
def SyncObj.put (o : SyncObj) (x : BitVec 24 × BitVec 24 × BitVec 3 × Bool) : SyncObj :=
  { o with count := x.1, limit := x.2.1, tclass := x.2.2.1, auto := x.2.2.2, err := 0, timer := none, state := .wait }

/-- The rearm of R137: LIMIT leaves COUNT; a count out of step is ERROR with code 5. -/
def SyncObj.rearmed (o : SyncObj) : SyncObj :=
  let under := decide (o.count.toNat < o.limit.toNat)
  let count := if under then 0 else o.count - o.limit
  if under || decide (o.limit.toNat ≤ count.toNat) then { o with count, err := 5, state := .error } else { o with count }

/-- Signals, summed (R125, R128); the flag says that COUNT would have passed its greatest value. -/
def SyncObj.signalled (o : SyncObj) (n : Nat) : SyncObj × Bool :=
  if 2 ^ 24 ≤ o.count.toNat + n then ({ o with count := BitVec.allOnes 24, err := 2, state := .error }, true)
  else ({ o with count := o.count + BitVec.ofNat 24 n }, false)

/-- The timer of a waited-on object has reached its timeout (R129). -/
def SyncObj.due (o : SyncObj) : Bool :=
  o.state == .wait && match o.timer with
    | some (k, us) => decide (us + 1 ≤ k)
    | none => false

/-- The operations of a handshake on an object that is not OFF when they reach it, in the order of R132. An error that meets an
object in TIMEOUT puts it in ERROR: R125 and R128 set the state, and R126 does not name the way (DESIGN CHOICE, log entry 53). -/
def SyncObj.run (o : SyncObj) (b : SoBatch) (was : SoState) (us : Nat) : SyncObj × SoOut × Bool :=
  let o := if b.rearm then o.rearmed else o
  let x := if b.count = 0 then (o, false) else o.signalled b.signals
  let o := match b.err with
    | some code => { x.1 with err := code, state := .error }
    | none => x.1
  let r := o.settle was
  let o := if b.set.isSome && r.1.state == .wait && !r.1.waiters.isEmpty then { r.1 with timer := some (0, us) } else r.1
  if b.expire && o.due then
    let e := ({ o with state := .timeout } : SyncObj).settle .wait
    (e.1, e.2, x.2)
  else (o, { r.2 with becameMet := r.2.becameMet && !b.rearm }, x.2)

/-- Signals and errors that meet an object in OFF (R126, R148). -/
def Chip.strays (c : Chip) (i : SoIx) (n : Nat) : Chip := (List.range n).foldl (fun c _ => c.straySo i) c

/-- The operations of one handshake on an object (R125 to R128, R132, R137, R148). -/
def Chip.soApply (c : Chip) (i : SoIx) (b : SoBatch) : Chip × SoOut :=
  let old := c.soObj i
  let o := match b.set with
    | some x => old.put x
    | none => old
  if o.state == .off then (c.strays i (b.count + b.errs), {})
  else
    let r := o.run b old.state (c.classUs o.tclass)
    let c := if r.1.state == .error && old.state != .error then c.countError else c
    let c := c.setSo i r.1
    (if r.2.2 then c.tally Src.soOverflow (soDetail i) else c, r.2.1)

/-- SET of an object by activation or re-initialisation, alone in its handshake (R131, R135): nothing else of the slot is
rearmed by it. -/
def Chip.soLoad (c : Chip) (i : SoIx) (count limit : BitVec 24) (tclass : BitVec 3) (auto : Bool) : Chip × SoOut :=
  let r := c.soApply i { set := some (count, limit, tclass, auto) }
  (r.1, { r.2 with becameMet := false })

/-- WAIT (R126, R127, R129): the operation is released at once, or stands in the object's list. -/
def Chip.soWaitOn (c : Chip) (i : SoIx) (w : Waiter) : Chip × SoOut :=
  let o := c.soObj i
  match o.state with
  | .off => (c.straySo i, { released := [w] })
  | .met =>
    let o' := if o.auto then ({ o with count := o.count - o.limit, waiters := [] } : SyncObj).eval else o
    (c.setSo i o', { released := (if o.auto then o.waiters else []) ++ [w] })
  | .timeout | .error => (c, { released := [w], met := false })
  | .wait =>
    let timer := match o.timer with | some t => some t | none => some (0, c.classUs o.tclass)
    (c.setSo i { o with waiters := o.waiters ++ [w], timer }, {})

/-- Put an object OFF (R131): its waiters are released as on an OFF object. -/
def Chip.soOff (c : Chip) (i : SoIx) : Chip × SoOut :=
  let o := c.soObj i
  let c := c.setSo i {}
  (o.waiters.foldl (fun c _ => c.straySo i) c, { released := o.waiters })

/-- One strobe: every running timer advances (R129). -/
def Chip.strobeTimers (c : Chip) : Chip :=
  { c with so := { c.so with obj := c.so.obj.map fun p =>
      (p.1, { p.2 with timer := p.2.timer.map fun t => (t.1 + 1, t.2) }) } }

/-- STATE code of the object word (R124). -/
def SoState.code : SoState → Nat
  | .off => 0 | .wait => 1 | .met => 2 | .timeout => 3 | .error => 4

/-- The object word (R124). -/
def SyncObj.word (o : SyncObj) : Word64 :=
  regOf [fld 40 o.limit, fld 16 o.count, fld 12 o.err, flb 11 o.auto, fld 8 o.tclass, (min 7 o.waiters.length) <<< 5,
    o.state.code]

end Sys2Proof.Machine
end

