-- ==== Sys2Proof/Machine/BufOps.lean ====
section
/-! DEFINITION. A buffer bank by itself (R112 to R119, R151): access slots and stalls, merged reads, the check code,
partial writes and write-backs. Slot guards stand in `Machine/SyncOps.lean`. -/

namespace Sys2Proof.Machine

/-- The key of a word's bank (R112). -/
def bankKey (t : TileIx) (w : WordIx) : Nat := 16 * t.toNat + w.toNat % 16

/-- A bank. -/
def Chip.bank (c : Chip) (t : TileIx) (w : WordIx) : Bank := sget (fun _ => {}) c.buf.bank (bankKey t w)

/-- Store a bank's timing. -/
def Chip.setBank (c : Chip) (t : TileIx) (w : WordIx) (b : Bank) : Chip :=
  { c with buf := { c.buf with bank := sset (fun _ => {}) c.buf.bank (bankKey t w) b } }

/-- A tile's buffer counts. -/
def Chip.tileBuf (c : Chip) (t : TileIx) : TileBuf := sget (fun _ => {}) c.buf.tile t.toNat

/-- Rewrite them. -/
def Chip.modTileBuf (c : Chip) (t : TileIx) (f : TileBuf → TileBuf) : Chip :=
  { c with buf := { c.buf with tile := smod (fun _ => {}) c.buf.tile t.toNat f } }

/-- Count a stall (R117, R147, R151). -/
def Chip.countStall (c : Chip) (t : TileIx) : Chip :=
  let c := c.modTileBuf t fun b => { b with stalls := satAdd b.stalls 1 }
  { c with buf := { c.buf with stalls := satAdd c.buf.stalls 1 } }

/-- Accesses of a bank whose word access has not begun when a request reaches stage 1 in slot `slot`. -/
def Bank.ahead (b : Bank) (slot : Nat) : List (Nat × WordIx × Bool) := b.sched.filter fun x => decide (slot ≤ x.1)

/-- Take `n` access slots of a bank for a request that reaches stage 1 in slot `slot`; one that waits is a stall (R116,
R117). -/
def Chip.takeBank (c : Chip) (t : TileIx) (w : WordIx) (slot n : Nat) : Chip :=
  let b := c.bank t w
  let served := max slot b.next
  let c := if slot < served then c.countStall t else c
  c.setBank t w { next := served + n, sched := b.ahead slot ++ [(served, w, false)] }

/-- A read takes its slot, or merges with a read of the same word whose word access has not begun, no write of the word
standing between them (R118). -/
def Chip.takeBankRead (c : Chip) (t : TileIx) (w : WordIx) (slot : Nat) : Chip × Bool :=
  let b := c.bank t w
  let merges := match ((b.ahead slot).filter fun x => x.2.1 == w).getLast? with
    | some x => x.2.2
    | none => false
  if merges then (c, true)
  else
    let served := max slot b.next
    let c := if slot < served then c.countStall t else c
    (c.setBank t w { next := served + 1, sched := b.ahead slot ++ [(served, w, true)] }, false)

/-- The detail of a source that names a buffer word (R521). -/
def wordDetail (t : TileIx) (w : WordIx) : BitVec 32 := tileDetail t (w.toNat % 16) w.toNat

/-- Queue or drop a word's write-back (R119). -/
def Chip.setBack (c : Chip) (t : TileIx) (w : WordIx) (x : Option BufWord) : Chip :=
  { c with buf := { c.buf with backs := sset (fun _ => none) c.buf.backs (bufKey t w) x } }

/-- The cells of a word flip as the environment has it; the flips stay until the word is written. -/
def Chip.upsetWord (c : Chip) (t : TileIx) (w : WordIx) (upset : BitVec 576) : Chip :=
  if upset = 0 then c
  else
    let x := c.bufWord t w
    c.bufStore t w { x with data := x.data ^^^ upset.extractLsb' 0 512, check := x.check ^^^ upset.extractLsb' 512 64 }

/-- Sense, check and correct a word (R119): its data and POISON; corrections and double errors are counted, reported for the
pass that reads when there is one, and queued for write-back. -/
def Chip.senseWord (c : Chip) (t : TileIx) (w : WordIx) (pass : Option Pass) : Chip × BitVec 512 × Bool :=
  let x := c.bufWord t w
  let d := decode512 x.data x.check
  if x.poison then (c, d.1, true)
  else
    let info : EventInfo := { detail := wordDetail t w, pass }
    let c := if d.2.1 then
        let c := c.modTileBuf t fun b => { b with sbe := satAdd b.sbe 1 }
        let c : Chip := { c with buf := { c.buf with sbe := satAdd c.buf.sbe 1 } }
        let back := { data := d.1, check := check512 d.1, poison := false : BufWord }
        (c.setBack t w (some back)).raise Src.bufSbe info
      else c
    let c := if d.2.2 then
        let c := c.modTileBuf t fun b => { b with ded := satAdd b.ded 1 }
        let c : Chip := { c with buf := { c.buf with ded := satAdd c.buf.ded 1 } }
        (c.setBack t w (some { x with poison := true })).raise Src.bufDed info
      else c
    (c, d.1, d.2.2)

/-- A read served by its bank (R114, R116 to R119), for a pass when one is known. -/
def Chip.readWord (c : Chip) (t : TileIx) (w : WordIx) (slot : Nat) (upset : BitVec 576) (pass : Option Pass) :
    Chip × BitVec 512 × Bool :=
  let r := (c.upsetWord t w upset).takeBankRead t w slot
  -- a merged read has one check (R118): what the first found is not counted again
  if r.2 then
    let x := r.1.bufWord t w
    let d := decode512 x.data x.check
    (r.1, d.1, x.poison || d.2.2)
  else r.1.senseWord t w pass

/-- A whole-word write served by its bank (R114, R119): a queued write-back of the word is dropped. -/
def Chip.writeWord (c : Chip) (t : TileIx) (w : WordIx) (data : BitVec 512) (poison : Bool) (slot : Nat) : Chip :=
  ((c.takeBank t w slot 1).bufPut t w data poison).setBack t w none

/-- A write of fewer than 64 bytes (R115): a read-modify-write in two consecutive slots; a word whose read finds a
double error or poison keeps its poison bit set. -/
def Chip.writePart (c : Chip) (t : TileIx) (w : WordIx) (off : Nat) (bytes : List Byte) (slot : Nat)
    (upset : BitVec 576) : Chip :=
  let r := ((c.upsetWord t w upset).takeBank t w slot 2).senseWord t w none
  let data := wordOfBytes (setBytes (leBytes 64 r.2.1.toNat) off bytes)
  (r.1.bufPut t w data r.2.2).setBack t w none

/-- The management complex changes some bytes of a word (R114 to R119, R458): it reads the word and writes it whole, in the
bank's next free slots (log entry 25). -/
def Chip.bufPatch (c : Chip) (t : TileIx) (w : WordIx) (off : Nat) (new : List Byte) : Chip :=
  let r := c.readWord t w (c.bank t w).next 0 none
  let data := wordOfBytes (setBytes (leBytes 64 r.2.1.toNat) off new)
  r.1.writeWord t w data r.2.2 (r.1.bank t w).next

/-- The queued write-back takes a slot that no request claims (R119). -/
def Chip.writeBack (c : Chip) (t : TileIx) (w : WordIx) : Chip :=
  match sget (fun _ => none) c.buf.backs (bufKey t w) with
  | some x =>
    let b := c.bank t w
    let c := c.setBank t w { next := b.next + 1, sched := b.sched ++ [(b.next, w, false)] }
    -- the corrected word's check bytes are computed by the write; a poisoned word is stored with its poison bit set
    (c.bufPut t w x.data x.poison).setBack t w none
  | none => c

/-- The 16 lanes of a buffer word, the lowest first (R146). -/
def wordLanes (data : BitVec 512) : List (BitVec 32) := (List.range 16).map fun i => data.extractLsb' (32 * i) 32

/-- Sixteen 32-bit values as a word. -/
def lanesWord (xs : List (BitVec 32)) : BitVec 512 :=
  BitVec.ofNat 512 (xs.foldr (fun x acc => x.toNat + 2 ^ 32 * acc) 0)

/-- A slot descriptor of a tile. -/
def Chip.slotDesc (c : Chip) (t : TileIx) (n : Nat) : SlotDesc := sget (fun _ => {}) c.buf.slots (4 * t.toNat + n)

/-- A word lies in a descriptor's region. -/
def SlotDesc.has (d : SlotDesc) (w : WordIx) : Bool :=
  d.valid && decide (d.start.toNat ≤ w.toNat) && decide (w.toNat < d.start.toNat + d.length.toNat)

/-- The valid slot whose region a word lies in (R136). -/
def Chip.slotOf (c : Chip) (t : TileIx) (w : WordIx) : Option SlotDesc :=
  ((List.range 4).map (c.slotDesc t)).find? (·.has w)

/-- A requester of the tile-local class (R116). -/
def isLocal : BufClass → Bool
  | .tileController | .vectorUnit | .fillCopy => true
  | .mesh | .management => false

/-- The tile buffer word (R151). -/
def Chip.tileBufWord (c : Chip) (t : TileIx) : Word64 :=
  let b := c.tileBuf t
  regOf [fld 40 b.stalls, fld 32 b.sbe, fld 24 b.ded, fld 16 b.underruns, fld 8 b.overruns,
    natOfBits ((List.range 4).map fun n => (c.slotDesc t n).valid) <<< 4]

end Sys2Proof.Machine
end

