-- ==== Sys2Proof/Machine/Fp32.lean ====
section
/-! DEFINITION. IEEE 754 binary32 as the vector unit computes it (R138, R139) and BF16 (R33, R56, R58).
Every operation forms its exact result as an integer times a power of two and rounds once. exp2, sine and cosine form
320 bits of their irrational result, which never ties; log entry 20 says why that many bits decide the rounding. -/

namespace Sys2Proof.Machine

/-- A binary32 or BF16 value taken apart: `fin neg m e` is (−1)^neg × m × 2^e. -/
inductive Fp where
  | nan
  | inf (neg : Bool)
  | fin (neg : Bool) (m : Nat) (e : Int)
  deriving DecidableEq, Repr

/-- Canonical NaN (R138). -/
def nan32 : BitVec 32 := 0x7FC0_0000#32

/-- Infinity of a sign. -/
def inf32 (neg : Bool) : BitVec 32 := if neg then 0xFF80_0000#32 else 0x7F80_0000#32

/-- Decode a binary32 pattern. -/
def fpOf (x : BitVec 32) : Fp :=
  let s := x.getLsbD 31
  let ex := field x.toNat 23 8
  let f := field x.toNat 0 23
  if ex = 255 then (if f = 0 then .inf s else .nan)
  else if ex = 0 then .fin s f (-149)
  else .fin s (2 ^ 23 + f) (Int.ofNat ex - 150)

/-- 2^n × x for a signed exponent, rounded half to even when the exponent is negative. -/
def scaleHalfEven (m : Nat) (sh : Int) : Nat :=
  match sh with
  | .ofNat k => m * 2 ^ k
  | .negSucc k => divHalfEven m (2 ^ (k + 1))

/-- The encoded magnitude of m × 2^e rounded to nearest, ties to even, at precision `p` and least exponent `emin`.
The encoding is exponent and fraction side by side, so a carry into the exponent is the right result. -/
def roundEnc (p : Nat) (emin : Int) (m : Nat) (e : Int) : Nat :=
  if m = 0 then 0
  else
    let l : Int := Int.ofNat (Nat.log2 m + 1)
    let q := max (l + e - Int.ofNat p) emin
    (q - emin).toNat * 2 ^ (p - 1) + scaleHalfEven m (e - q)

/-- Round (−1)^neg × m × 2^e to binary32; an overflow is an infinity. -/
def round32 (neg : Bool) (m : Nat) (e : Int) : BitVec 32 :=
  let enc := roundEnc 24 (-149) m e
  let mag := if 255 * 2 ^ 23 ≤ enc then 255 * 2 ^ 23 else enc
  BitVec.ofNat 32 (place 31 1 (bit neg) + mag)

/-- Round an inexact value that lies strictly between m and m + 1 units of 2^e. -/
def round32Sticky (neg : Bool) (m : Nat) (e : Int) : BitVec 32 := round32 neg (2 * m + 1) (e - 1)

/-- The exact signed integer of a finite value at exponent `e0 ≤ e`. -/
def fpInt (neg : Bool) (m : Nat) (e e0 : Int) : Int :=
  let v := Int.ofNat (m * 2 ^ (e - e0).toNat)
  if neg then -v else v

/-- Round a signed integer times 2^e; an exact zero takes the sign given. -/
def round32Int (v : Int) (e : Int) (zeroNeg : Bool) : BitVec 32 :=
  if v = 0 then round32 zeroNeg 0 0 else round32 (decide (v < 0)) v.natAbs e

/-- Sum of two taken-apart values, rounded once (R138). -/
def fpAdd : Fp → Fp → BitVec 32
  | .nan, _ => nan32
  | _, .nan => nan32
  | .inf a, .inf b => if a = b then inf32 a else nan32
  | .inf a, _ => inf32 a
  | _, .inf b => inf32 b
  | .fin sa ma ea, .fin sb mb eb =>
    let e0 := min ea eb
    round32Int (fpInt sa ma ea e0 + fpInt sb mb eb e0) e0 (sa && sb)

/-- The negated value. -/
def fpNeg : Fp → Fp
  | .nan => .nan
  | .inf s => .inf (!s)
  | .fin s m e => .fin (!s) m e

/-- Exact product of two taken-apart values. -/
def fpMulExact : Fp → Fp → Fp
  | .nan, _ => .nan
  | _, .nan => .nan
  | .inf a, .inf b => .inf (a != b)
  | .inf a, .fin b m _ => if m = 0 then .nan else .inf (a != b)
  | .fin a m _, .inf b => if m = 0 then .nan else .inf (a != b)
  | .fin sa ma ea, .fin sb mb eb => .fin (sa != sb) (ma * mb) (ea + eb)

/-- Encode a taken-apart value with one rounding. -/
def fpRound : Fp → BitVec 32
  | .nan => nan32
  | .inf s => inf32 s
  | .fin s m e => round32 s m e

/-- add_rne (R138). -/
def addRne (x y : BitVec 32) : BitVec 32 := fpAdd (fpOf x) (fpOf y)

/-- sub_rne (R138). -/
def subRne (x y : BitVec 32) : BitVec 32 := fpAdd (fpOf x) (fpNeg (fpOf y))

/-- mul_rne (R138). -/
def mulRne (x y : BitVec 32) : BitVec 32 := fpRound (fpMulExact (fpOf x) (fpOf y))

/-- fma_rne: one rounding of x × y + z (R138). -/
def fmaRne (x y z : BitVec 32) : BitVec 32 := fpAdd (fpMulExact (fpOf x) (fpOf y)) (fpOf z)

/-- Sign change of a pattern; a NaN stays the canonical NaN. -/
def neg32 (x : BitVec 32) : BitVec 32 := fpRound (fpNeg (fpOf x))

/-- a < b on values that are no NaN; +0 and −0 are equal. -/
def fpLt : Fp → Fp → Bool
  | .nan, _ => false
  | _, .nan => false
  | .inf a, .inf b => a && !b
  | .inf a, _ => a
  | _, .inf b => !b
  | .fin sa ma ea, .fin sb mb eb =>
    let e0 := min ea eb
    decide (fpInt sa ma ea e0 < fpInt sb mb eb e0)

/-- x < y of two patterns (false when either is NaN). -/
def lt32 (x y : BitVec 32) : Bool := fpLt (fpOf x) (fpOf y)

/-- The pattern is a NaN. -/
def isNan32 (x : BitVec 32) : Bool := fpOf x == .nan

/-- The pattern is +inf. -/
def isPosInf32 (x : BitVec 32) : Bool := fpOf x == .inf false

/-- The pattern is −inf. -/
def isNegInf32 (x : BitVec 32) : Bool := fpOf x == .inf true

/-- The pattern is a NaN or an infinity. -/
def nonfinite32 (x : BitVec 32) : Bool := field x.toNat 23 8 == 255

/-- Finite, positive and normal (R36, R141). -/
def posNormal32 (x : BitVec 32) : Bool :=
  !x.getLsbD 31 && field x.toNat 23 8 != 255 && field x.toNat 23 8 != 0

/-- max of R138: the non-NaN operand when exactly one is NaN; equal operands give the first. -/
def max32 (x y : BitVec 32) : BitVec 32 :=
  if isNan32 x then (if isNan32 y then nan32 else y)
  else if isNan32 y then x
  else if lt32 x y then y else x

/-- min of R138. -/
def min32 (x y : BitVec 32) : BitVec 32 :=
  if isNan32 x then (if isNan32 y then nan32 else y)
  else if isNan32 y then x
  else if lt32 y x then y else x

/-- Integer square root, bit by bit from bit `i` down. -/
def isqrtFrom (n : Nat) : Nat → Nat → Nat
  | 0, r => if (r + 1) * (r + 1) ≤ n then r + 1 else r
  | i + 1, r =>
    let c := r + 2 ^ (i + 1)
    isqrtFrom n i (if c * c ≤ n then c else r)

/-- Floor of the square root. -/
def isqrt (n : Nat) : Nat := isqrtFrom n (Nat.log2 n / 2 + 1) 0

/-- recip_cr (R139). -/
def recipCr (x : BitVec 32) : BitVec 32 :=
  match fpOf x with
  | .nan => nan32
  | .inf s => round32 s 0 0
  | .fin s m e =>
    if m = 0 then inf32 s
    else
      let k := Nat.log2 m + 41
      let q := 2 ^ k / m
      if 2 ^ k % m = 0 then round32 s q (- Int.ofNat k - e) else round32Sticky s q (- Int.ofNat k - e)

/-- rsqrt_cr (R139). -/
def rsqrtCr (x : BitVec 32) : BitVec 32 :=
  match fpOf x with
  | .nan => nan32
  | .inf s => if s then nan32 else 0#32
  | .fin s m e =>
    if m = 0 then inf32 s
    else if s then nan32
    else
      let odd := e % 2 ≠ 0
      let m' := if odd then 2 * m else m
      let e' := if odd then e - 1 else e
      let k := Nat.log2 m' / 2 + 42
      let r := isqrt (2 ^ (2 * k) / m')
      let ex := - Int.ofNat k - e' / 2
      if r * r * m' = 2 ^ (2 * k) then round32 false r ex else round32Sticky false r ex

/-- Fraction bits of the working numbers of exp2, sine and cosine. -/
def workBits : Nat := 320

/-- 2^(f / 2^k) at `workBits` fraction bits: the product of 2^(2^−i) over the set bits of f, from bit k − 1 down;
`c` holds 2^(2^−i) of the step before. -/
def exp2Frac (f : Nat) : Nat → Nat → Nat → Nat
  | 0, _, acc => acc
  | k + 1, c, acc =>
    let c' := isqrt (c * 2 ^ workBits)
    exp2Frac f k c' (if bitAt f k then acc * c' / 2 ^ workBits else acc)

/-- exp2_cr (R139): correctly rounded 2^x. -/
def exp2Cr (x : BitVec 32) : BitVec 32 :=
  match fpOf x with
  | .nan => nan32
  | .inf s => if s then 0#32 else inf32 false
  | .fin s m e =>
    -- |x| of 256 or more: beyond every finite result, or below half the least subnormal
    if decide (8 ≤ e + Int.ofNat (Nat.log2 m) ∧ m ≠ 0) then (if s then 0#32 else inf32 false)
    else
      let k := (-e).toNat
      let v : Int := fpInt s m e (- Int.ofNat k)
      let n := v / (2 ^ k : Int)
      let f := (v % (2 ^ k : Int)).toNat
      if f = 0 then round32 false 1 n
      else round32Sticky false (exp2Frac f k (2 * 2 ^ workBits) (2 ^ workBits)) (n - Int.ofNat workBits)

/-- cosine and sine of 2π/2^(j+2) from those of twice the angle, by the half-angle formulas. -/
def halfAngle (c : Int) : Int × Int :=
  let one : Int := 2 ^ workBits
  (Int.ofNat (isqrt (((one + c) * 2 ^ workBits / 2).toNat)), Int.ofNat (isqrt (((one - c) * 2 ^ workBits / 2).toNat)))

/-- Complex product of working numbers. -/
def cmul (x y : Int × Int) : Int × Int :=
  let d : Int := 2 ^ workBits
  ((x.1 * y.1 - x.2 * y.2) / d, (x.1 * y.2 + x.2 * y.1) / d)

/-- The unit number of angle a / 2^32 turns: product of the unit numbers of the set bits, from bit `n − 1` down;
`c` is the cosine of the step before. -/
def turnFrac (a : Nat) : Nat → Int → Int × Int → Int × Int
  | 0, _, z => z
  | n + 1, c, z =>
    let w := halfAngle c
    turnFrac a n w.1 (if bitAt a n then cmul z w else z)

/-- (cosine, sine) of 2π a / 2^32 at `workBits` fraction bits; the quarter turns are exact. -/
def turnUnit (a : BitVec 32) : Int × Int :=
  let one : Int := 2 ^ workBits
  let quarter := field a.toNat 30 2
  let z : Int × Int := if quarter = 0 then (one, 0) else if quarter = 1 then (0, one) else if quarter = 2 then (-one, 0) else (0, -one)
  turnFrac a.toNat 30 0 z

/-- Round a working number to binary32; an exact zero is +0 (R139). -/
def roundWork (v : Int) : BitVec 32 :=
  let one : Nat := 2 ^ workBits
  if v = 0 then 0#32
  else if v.natAbs = one then round32 (decide (v < 0)) one (- Int.ofNat workBits)
  else round32Sticky (decide (v < 0)) v.natAbs (- Int.ofNat workBits)

/-- cos_cr of R143. -/
def cosCr (a : BitVec 32) : BitVec 32 := roundWork (turnUnit a).1

/-- sin_cr of R143. -/
def sinCr (a : BitVec 32) : BitVec 32 := roundWork (turnUnit a).2

/-- BF16 to FP32, exact; a NaN becomes the canonical NaN (R58). -/
def bf16To32 (x : BitVec 16) : BitVec 32 :=
  let y := BitVec.ofNat 32 (x.toNat * 2 ^ 16)
  if isNan32 y then nan32 else y

/-- Round an exact finite value to BF16, saturating; the flag says that it saturated (R56). A zero result is +0. -/
def roundBf16 (neg : Bool) (m : Nat) (e : Int) : BitVec 16 × Bool :=
  let enc := roundEnc 8 (-133) m e
  if 255 * 2 ^ 7 ≤ enc then (if neg then 0xFF7F#16 else 0x7F7F#16, true)
  else if enc = 0 then (0#16, false)
  else (BitVec.ofNat 16 (place 15 1 (bit neg) + enc), false)

/-- FP32 to BF16 with its OUT_SAT flag (R58). -/
def f32ToBf16 (x : BitVec 32) : BitVec 16 × Bool :=
  match fpOf x with
  | .nan => (0x7FC0#16, false)
  | .inf s => (if s then 0xFF7F#16 else 0x7F7F#16, true)
  | .fin s m e => roundBf16 s m e

/-- An unsigned integer as FP32, rounded to nearest even. -/
def natTo32 (n : Nat) : BitVec 32 := round32 false n 0

end Sys2Proof.Machine
end

