-- ==== Sys2Proof/Machine/Numfmt.lean ====
section
/-! DEFINITION. The exact arithmetic contract: scales, A8 preparation and the outlier lane, beat partials, terms,
accumulators and output conversion (R33 to R58, R74, R79). -/

namespace Sys2Proof.Machine

/-- An exact value m × 2^e, the `real` of chapter 02 as far as it occurs. -/
structure Dy where
  m : Int
  e : Int
  deriving DecidableEq, Repr

/-- The exact value of a finite binary32 pattern; none for a NaN or an infinity. -/
def dyOf32 (x : BitVec 32) : Option Dy :=
  match fpOf x with
  | .fin s m e => some ⟨if s then -Int.ofNat m else Int.ofNat m, e⟩
  | _ => none

/-- The exact value of a finite BF16 pattern. -/
def dyOfBf16 (x : BitVec 16) : Option Dy := dyOf32 (BitVec.ofNat 32 (x.toNat * 2 ^ 16))

/-- A dyadic as an integer of units 2^e0, for e0 not above its exponent. -/
def Dy.at (x : Dy) (e0 : Int) : Int := x.m * 2 ^ (x.e - e0).toNat

/-- Product of two dyadics. -/
def Dy.mul (x y : Dy) : Dy := ⟨x.m * y.m, x.e + y.e⟩

/-- x ≤ y, exactly. -/
def Dy.le (x y : Dy) : Bool :=
  let e0 := min x.e y.e
  decide (x.at e0 ≤ y.at e0)

/-- Magnitude. -/
def Dy.abs (x : Dy) : Dy := ⟨Int.ofNat x.m.natAbs, x.e⟩

/-- An E4M3 byte as an integer of units 2⁻⁹, the sign apart; NaN bytes give none (R34). -/
def e4m3Units (b : Byte) : Option Nat :=
  let e := field b.toNat 3 4
  let f := field b.toNat 0 3
  if e = 15 ∧ f = 7 then none
  else if e = 0 then some f
  else some ((8 + f) * 2 ^ (e - 1))

/-- A scale whose sign bit is 1 or whose encoding is NaN (R35). -/
def invalidScale (b : Byte) : Bool := bitAt b.toNat 7 || (e4m3Units b).isNone

/-- A scale as used: an invalid one is 0 (R35). -/
def scaleUnits (b : Byte) : Nat := if invalidScale b then 0 else (e4m3Units b).getD 0

/-- choose_scale() of R43 over the bytes 0x01 to 0x7E; the flag is INPUT_SAT. -/
def chooseScaleFrom (amax : Dy) : List Nat → Byte × Bool
  | [] => (0x7E#8, true)
  | e :: es =>
    let b := BitVec.ofNat 8 e
    if amax.le ⟨127 * Int.ofNat (scaleUnits b), -9⟩ then (b, false) else chooseScaleFrom amax es

/-- The scale of a block from its amax (R43). -/
def chooseScale (amax : Dy) : Byte × Bool :=
  if amax.m = 0 then (0#8, false) else chooseScaleFrom amax ((List.range 126).map (· + 1))

/-- Round half to even of the exact quotient of a dyadic by a number of units 2⁻⁹. -/
def dyDivUnits (x : Dy) (u : Nat) : Int :=
  let e := x.e + 9
  if 0 ≤ e then intDivHalfEven (x.m * 2 ^ e.toNat) u else intDivHalfEven x.m (u * 2 ^ (-e).toNat)

/-- quantise() of R44. -/
def quantise (x : Dy) (s : Byte) : Int :=
  let u := scaleUnits s
  if u = 0 then 0 else max (-127) (min 127 (dyDivUnits x u))

/-- The magnitude limit of a lane value, 255 × 2¹⁶, as a BF16 pattern (R47). -/
def laneMax (neg : Bool) : BitVec 16 := if neg then 0xCB7F#16 else 0x4B7F#16

/-- Round a lane element to BF16 and clamp it; the flag is INPUT_SAT (R47). -/
def laneValue (x : Dy) : BitVec 16 × Bool :=
  let r := (roundBf16 (decide (x.m < 0)) x.m.natAbs x.e).1
  let beyond := match dyOfBf16 r with
    | some d => !(d.abs.le ⟨16711680, 0⟩)
    | none => true
  if beyond then (laneMax (decide (x.m < 0)), true) else (r, false)

/-- Put an element of the ranking in its place: larger magnitude first, the lower index among equals (R46). -/
def rankInsert (x : Nat × Dy) : List (Nat × Dy) → List (Nat × Dy)
  | [] => [x]
  | y :: ys => if y.2.abs.le x.2.abs && !(x.2.abs.le y.2.abs) then x :: y :: ys else y :: rankInsert x ys

/-- Rank by magnitude; the input is in ascending element index. -/
def rankMag (xs : List (Nat × Dy)) : List (Nat × Dy) := xs.foldl (fun acc x => rankInsert x acc) []

/-- What preparing a chunk produces (R42). -/
structure Prepared where
  /-- block scales, and 64 elements for each -/
  scales : List Byte
  elems : List Int
  /-- lane entries: element index within the chunk and BF16 value, in ascending index (R59) -/
  lane : List (Nat × BitVec 16)
  nonfinite : Bool
  /-- block scales and lane values that saturated -/
  inputSat : Nat
  overflow : Bool
  deriving DecidableEq, Repr

/-- The largest magnitude of a list. -/
def maxAbs (xs : List Dy) : Dy := xs.foldl (fun a x => if a.le x.abs then x.abs else a) ⟨0, 0⟩

/-- The qualifying test of R45: x² n 65,536 > TH² S and |x| ≥ 2⁻⁸, decided on integers of units 2^e0. -/
def qualifies (th n : Nat) (e0 : Int) (sumSq : Int) (x : Dy) : Bool :=
  let v := x.at e0
  th ≠ 0 && decide (Int.ofNat (th * th) * sumSq < v * v * Int.ofNat (n * 65536)) && Dy.le ⟨1, -8⟩ x.abs

/-- Prepare one chunk (R42 to R48): `xs` are its exact values, none for a NaN or an infinity. -/
def prepareA8 (xs : List (Option Dy)) (th : Nat) (capacity : Nat) : Prepared :=
  let nonfinite := xs.any Option.isNone
  let vs := xs.map fun o => o.getD ⟨0, 0⟩
  let n := vs.length
  let e0 := vs.foldl (fun a x => min a x.e) 0
  let sumSq := vs.foldl (fun a x => a + x.at e0 * x.at e0) 0
  let idx := (List.range n).zip vs
  let ranked := rankMag (idx.filter fun p => qualifies th n e0 sumSq p.2)
  let lane := ranked.take capacity
  let excess := ranked.drop capacity
  let taken := fun i => lane.any (·.1 == i)
  let isExcess := fun i => excess.any (·.1 == i)
  let laneVals := (idx.filter fun p => taken p.1).map fun p => (p.1, laneValue p.2)
  let blocks := chunksOf 64 n idx
  let scaled := blocks.map fun b =>
    let plain := maxAbs ((b.filter fun p => !(taken p.1) && !(isExcess p.1)).map (·.2))
    let amax := if plain.m = 0 then maxAbs ((b.filter fun p => isExcess p.1).map (·.2)) else plain
    chooseScale amax
  let elems := (blocks.zip scaled).flatMap fun (b, s) =>
    b.map fun p => if taken p.1 then 0 else quantise p.2 s.1
  { scales := scaled.map (·.1), elems, lane := laneVals.map fun p => (p.1, p.2.1), nonfinite,
    inputSat := (scaled.filter (·.2)).length + (laneVals.filter (·.2.2)).length, overflow := !excess.isEmpty }

/-- A two's-complement byte as an integer. -/
def i8 (b : Byte) : Int := b.toInt

/-- The 80-bit accumulator word of an integer of units 2⁻²⁴ (R53). -/
def accWord (v : Int) : BitVec 80 := BitVec.ofInt 80 v

/-- The term P × s_w × s_a in units of 2⁻²⁴ (R51): scale products are multiples of 2⁻¹⁸. -/
def beatTerm (p : Int) (sw sa : Byte) : Int := p * Int.ofNat (scaleUnits sw * scaleUnits sa) * 64

/-- The lane term x_o × w × s_w in units of 2⁻²⁴ (R52). -/
def laneTerm (x : Dy) (w : Int) (sw : Byte) : Int :=
  let u := Int.ofNat (scaleUnits sw)
  -- x.m × 2^x.e × w × u × 2⁻⁹ = … × 2⁻²⁴; the grid of R52 makes the division exact
  let e := x.e + 15
  if 0 ≤ e then x.m * w * u * 2 ^ e.toNat else (x.m * w * u) / 2 ^ (-e).toNat

/-- The magnitude of an accumulator reaches 2⁵⁴: A of magnitude at least 2⁷⁸ (R54). -/
def accRange (a : BitVec 80) : Bool := decide (2 ^ 78 ≤ a.toInt.natAbs)

/-- The exact value A × 2⁻²⁴ × T of R56, for a finite T. -/
def accTimes (a : BitVec 80) (t : BitVec 32) : Option Dy := (dyOf32 t).map fun d => Dy.mul ⟨a.toInt, -24⟩ d

/-- Output conversion to BF16 with its OUT_SAT flag (R56). -/
def outBf16 (x : Dy) : BitVec 16 × Bool := roundBf16 (decide (x.m < 0)) x.m.natAbs x.e

/-- Columns per weight and weights per row (R37, R38). -/
def WFmt.cols : WFmt → Nat
  | .w1 => 1 | .wt => 2 | .w2 => 2 | .w2s => 2 | .w4 => 8 | .w8 => 12 | .kv8 => 8

/-- Weights per row (R38). -/
def WFmt.perRow : WFmt → Nat
  | .w1 => 1024 | .wt => 512 | .w2 => 512 | .w2s => 512 | .w4 => 128 | .w8 => 85 | .kv8 => 128

/-- The vote over a slice's primary and two icing values: value used, minority, split (R79). -/
def icingVote (p a b : Int) : Int × Bool × Bool :=
  if p = a ∨ p = b then (p, false, false)
  else if a = b then (a, true, false)
  else (max (min p a) (min (max p a) b), false, true)

/-- The combination Σ 2ⁱ Cᵢ over slices `lo … lo + n − 1`. -/
def slices (c : Nat → Int) (n : Nat) : Int := (List.range n).foldl (fun acc i => acc + 2 ^ i * c i) 0

/-- The beat partial of a weight from its column values (by offset within the weight) and Q, with the votes' findings
(R74, R79): value, minorities, splits. -/
def beatPartial (f : WFmt) (c : Nat → Int) (q : Int) : Int × Nat × Nat :=
  match f with
  | .w1 => (2 * c 0 - q, 0, 0)
  | .wt => (c 0 - c 1, 0, 0)
  | .w2 => (c 0 - 2 * c 1, 0, 0)
  | .w2s => (4 * c 1 + 2 * c 0 - 3 * q, 0, 0)
  | .w4 =>
    let v2 := icingVote (c 2) (c 4) (c 5)
    let v3 := icingVote (c 3) (c 6) (c 7)
    (c 0 + 2 * c 1 + 4 * v2.1 - 8 * v3.1, bit v2.2.1 + bit v3.2.1, bit v2.2.2 + bit v3.2.2)
  | .w8 =>
    let v6 := icingVote (c 6) (c 8) (c 9)
    let v7 := icingVote (c 7) (c 10) (c 11)
    (slices c 6 + 64 * v6.1 - 128 * v7.1, bit v6.2.1 + bit v7.2.1, bit v6.2.2 + bit v7.2.2)
  | .kv8 => (slices c 7 - 128 * c 7, 0, 0)

/-- Majority of three bits (R80). -/
def maj3 (a b c : Bool) : Bool := (a && b) || (a && c) || (b && c)

/-- A weight's value from its stored bits, by offset within the weight, the icing copies voted bit-wise (R37, R80). -/
def weightValue (f : WFmt) (b : Nat → Bool) : Int :=
  let v := fun i => Int.ofNat (bit (b i))
  match f with
  | .w1 => 2 * v 0 - 1
  | .wt => v 0 - v 1
  | .w2 => v 0 - 2 * v 1
  | .w2s => 2 * (2 * v 1 + v 0) - 3
  | .w4 =>
    let b2 := Int.ofNat (bit (maj3 (b 2) (b 4) (b 5)))
    let b3 := Int.ofNat (bit (maj3 (b 3) (b 6) (b 7)))
    v 0 + 2 * v 1 + 4 * b2 - 8 * b3
  | .w8 =>
    let b6 := Int.ofNat (bit (maj3 (b 6) (b 8) (b 9)))
    let b7 := Int.ofNat (bit (maj3 (b 7) (b 10) (b 11)))
    slices v 6 + 64 * b6 - 128 * b7
  | .kv8 => slices v 7 - 128 * v 7

/-- The column value Σ cell × q over the driven rows of a beat (R74): the eight bit-phases sum to exactly this. -/
def columnValue (rows : List (BitVec 1024)) (q : List Int) (col : Nat) : Int :=
  (rows.zip q).foldl (fun acc (r, x) => if r.getLsbD col then acc + x else acc) 0

/-- The number of driven rows whose cell of a column holds 1 in bit-phase k: the count c_k of R73. -/
def phaseCount (rows : List (BitVec 1024)) (q : List Int) (k col : Nat) : Nat :=
  ((rows.zip q).filter fun (r, x) => r.getLsbD col && (BitVec.ofInt 8 x).getLsbD k).length

/-- A column's value from its eight phase counts (R74). -/
def columnOfPhases (rows : List (BitVec 1024)) (q : List Int) (col : Nat) : Int :=
  (List.range 7).foldl (fun acc k => acc + 2 ^ k * Int.ofNat (phaseCount rows q k col)) 0
    - 128 * Int.ofNat (phaseCount rows q 7 col)

end Sys2Proof.Machine
end

