-- ==== Sys2Proof/Machine/ArrayOps.lean ====
section
/-! DEFINITION. The arrays' stores and tables (R63 to R72, R81 to R108): planes, records, maps, busy arrays, the write
queue, spares and stand-ins at a pass boundary. -/

namespace Sys2Proof.Machine

/-- Keys of the flat tables: 320 rows of a plane (R66), 324 of an S-array (R70). -/
def planeKey (t : TileIx) (n : Fin 17) (p : BitVec 2) : Nat := (17 * t.toNat + n.val) * 4 + p.toNat
def cellKey (t : TileIx) (n : Fin 17) (p : BitVec 2) (row : Nat) : Nat := planeKey t n p * 320 + row
def sKey (t : TileIx) (a : Fin 9) (row : Nat) : Nat := (9 * t.toNat + a.val) * 324 + row
def arrKey (t : TileIx) : ArrRef → Nat
  | .n i => 26 * t.toNat + i.val
  | .s i => 26 * t.toNat + 17 + i.val

/-- The 400 field bits of a plane record (R69); reserved fields are 0. -/
def PlaneRec.fields (r : PlaneRec) : Nat :=
  place 0 16 r.format.toNat + place 16 24 r.writeCount.toNat + place 40 8 r.kind.toNat + place 48 8 r.wepoch.toNat
    + place 64 32 r.hours.toNat + place 96 64 r.digest.toNat

/-- The 512 bits of a plane record: its fields, their BCH remainder and parity, bit 511 zero (R69). -/
def PlaneRec.bits (r : PlaneRec) : BitVec 512 :=
  BitVec.ofNat 512 (PlaneRec.fields r + bchCheck 400 (PlaneRec.fields r) * 2 ^ 400)

/-- The record that a plane's row 319 holds in columns 512 to 1,023 (R67, R69). -/
def recordOf (row : BitVec 1024) : PlaneRec :=
  let x := row.extractLsb' 512 512
  { format := x.extractLsb' 0 16, writeCount := x.extractLsb' 16 24, kind := x.extractLsb' 40 8, wepoch := x.extractLsb' 48 8
    hours := x.extractLsb' 64 32, digest := x.extractLsb' 96 64 }

/-- Row 319 with its record replaced. -/
def withRecord (row : BitVec 1024) (r : PlaneRec) : BitVec 1024 := PlaneRec.bits r ++ row.extractLsb' 0 512

/-- Cells of a plane that has never been written: every row 0, its check fields with it, and a blank record (log entry 2). -/
def cellDefault (k : Nat) : BitVec 1024 := if k % 320 = 319 then withRecord 0 {} else 0

/-- A row of a plane, 0 to 319; there are no others. -/
def Chip.cellRow (c : Chip) (t : TileIx) (n : Fin 17) (p : BitVec 2) (row : Nat) : BitVec 1024 :=
  if row < 320 then sget cellDefault c.arr.cells (cellKey t n p row) else 0

/-- A row of an S-array, 0 to 323; there are no others. -/
def Chip.sRow (c : Chip) (t : TileIx) (a : Fin 9) (row : Nat) : BitVec 1024 :=
  if row < 324 then sget (fun _ => 0) c.arr.sCells (sKey t a row) else 0

/-- Store a row of a plane. -/
def Chip.setCell (c : Chip) (t : TileIx) (n : Fin 17) (p : BitVec 2) (row : Nat) (x : BitVec 1024) : Chip :=
  if row < 320 then { c with arr := { c.arr with cells := sset cellDefault c.arr.cells (cellKey t n p row) x } } else c

/-- Store a row of an S-array. -/
def Chip.setSRow (c : Chip) (t : TileIx) (a : Fin 9) (row : Nat) (x : BitVec 1024) : Chip :=
  if row < 324 then { c with arr := { c.arr with sCells := sset (fun _ => 0) c.arr.sCells (sKey t a row) x } } else c

/-- Words of a mask from two rows: the masked 64-bit words of the new one (R84, R90). -/
def mergeRow (mask : BitVec 16) (old new : BitVec 1024) : BitVec 1024 :=
  BitVec.ofNat 1024 ((List.range 16).foldr (fun w acc =>
    (if mask.getLsbD w then new.extractLsb' (64 * w) 64 else old.extractLsb' (64 * w) 64).toNat * 2 ^ (64 * w) + acc) 0)

/-- The check bytes of a row's 16 words, word 0 lowest (R71). -/
def rowChecks (x : BitVec 1024) : BitVec 128 :=
  BitVec.ofNat 128 ((List.range 16).foldr (fun w acc => (secdedCheck (x.extractLsb' (64 * w) 64)).toNat + 256 * acc) 0)

/-- The check row of an S-array that holds the check bytes of row `i`, and their first bit in it (R71). -/
def checkPlace (i : Nat) : Nat × Nat := (288 + i / 8, 128 * (i % 8))

/-- Replace 128 bits of a row from bit `lo`. -/
def setBits128 (x : BitVec 1024) (lo : Nat) (v : BitVec 128) : BitVec 1024 :=
  let m : BitVec 1024 := (BitVec.allOnes 128).setWidth 1024 <<< lo
  (x &&& ~~~m) ||| (v.setWidth 1024 <<< lo)

/-- The stored check bytes of an S-array row. -/
def Chip.sChecks (c : Chip) (t : TileIx) (a : Fin 9) (row : Nat) : BitVec 128 :=
  (c.sRow t a (checkPlace row).1).extractLsb' (checkPlace row).2 128

/-- Bytes of a mask from two groups of 16. -/
def mergeChecks (mask : BitVec 16) (old new : BitVec 128) : BitVec 128 :=
  BitVec.ofNat 128 ((List.range 16).foldr (fun w acc =>
    (if mask.getLsbD w then new.extractLsb' (8 * w) 8 else old.extractLsb' (8 * w) 8).toNat + 256 * acc) 0)

/-- An S-array row write: the masked words and their check bytes; the others keep content and check bytes (R90). -/
def Chip.writeSRow (c : Chip) (t : TileIx) (a : Fin 9) (row : Nat) (mask : BitVec 16) (data : BitVec 1024) : Chip :=
  let new := mergeRow mask (c.sRow t a row) data
  let k := checkPlace row
  let checks := setBits128 (c.sRow t a k.1) k.2 (mergeChecks mask (c.sChecks t a row) (rowChecks new))
  (c.setSRow t a row new).setSRow t a k.1 checks

/-- The check area of a plane, bit 0 first, from its 288 weight and scale rows (R67). -/
def checkArea (row : Nat → BitVec 1024) : Nat :=
  (List.range 288).foldr (fun i acc => bchCheck 1024 (row i).toNat + 2 ^ 112 * acc) 0

/-- Row `r` of the check rows, 288 to 319, of a check area (R66). -/
def checkRow (area r : Nat) : BitVec 1024 := BitVec.ofNat 1024 (area >>> (1024 * (r - 288)))

/-- A plane's record (R69). -/
def Chip.planeRec (c : Chip) (t : TileIx) (n : Fin 17) (p : BitVec 2) : PlaneRec := recordOf (c.cellRow t n p 319)

/-- Rewrite a plane's record, its remainder and parity with it (R69, R83). -/
def Chip.modRec (c : Chip) (t : TileIx) (n : Fin 17) (p : BitVec 2) (f : PlaneRec → PlaneRec) : Chip :=
  c.setCell t n p 319 (withRecord (c.cellRow t n p 319) (f (c.planeRec t n p)))

/-- A tile's array map. -/
def Chip.tileMap (c : Chip) (t : TileIx) : TileMap := sget (fun _ => {}) c.arr.maps t.toNat

/-- Rewrite it. -/
def Chip.modMap (c : Chip) (t : TileIx) (f : TileMap → TileMap) : Chip :=
  { c with arr := { c.arr with maps := smod (fun _ => {}) c.arr.maps t.toNat f } }

/-- Physical index of a logical N-array (R64). -/
def TileMap.phys (m : TileMap) (a : BitVec 4) : Fin 17 := Fin.ofNat 17 (m.map.toList.getD a.toNat 0).toNat

/-- The unused spare, when the tile has one. -/
def TileMap.spareIx (m : TileMap) : Option (Fin 17) :=
  if h : m.spare.toNat < 17 then some ⟨m.spare.toNat, h⟩ else none

/-- The logical array a physical one carries. -/
def TileMap.logical (m : TileMap) (n : Fin 17) : Option (BitVec 4) :=
  ((List.range 16).find? fun a => (m.map.toList.getD a 0).toNat == n.val).map (BitVec.ofNat 4)

/-- A retired array. -/
def TileMap.isRetired (m : TileMap) (n : Fin 17) : Bool := m.retired.getLsbD n.val

/-- Bank-relative and physical planes (R230): the relation is its own inverse. -/
def bankPlane (bank : Bool) (p : BitVec 2) : BitVec 2 := p ^^^ (if bank then 2 else 0)

/-- BANK of the active epoch. -/
def Chip.bankBit (c : Chip) : Bool := (c.load.active.map (·.bank)).getD false

/-- What an array is doing (R72). -/
def Chip.arrOp (c : Chip) (t : TileIx) (a : ArrRef) : Option ArrOp := sget (fun _ => none) c.arr.busy (arrKey t a)

/-- Start or end an array's operation. -/
def Chip.setArrOp (c : Chip) (t : TileIx) (a : ArrRef) (o : Option ArrOp) : Chip :=
  { c with arr := { c.arr with busy := sset (fun _ => none) c.arr.busy (arrKey t a) o } }

/-- The selected plane of an N-array; plane 0 before any select (log entry 15). -/
def Chip.selectedPlane (c : Chip) (t : TileIx) (n : Fin 17) : BitVec 2 :=
  sget (fun _ => 0) c.arr.selected (17 * t.toNat + n.val)

/-- Select a plane. -/
def Chip.setSelected (c : Chip) (t : TileIx) (n : Fin 17) (p : BitVec 2) : Chip :=
  { c with arr := { c.arr with selected := sset (fun _ => 0) c.arr.selected (17 * t.toNat + n.val) p } }

/-- A tile's working through its order; a prompt chunk is carried beside the other passes (chapter 08, R293). -/
def Chip.tileRun (c : Chip) (t : TileIx) (chunk : Bool) : TileRun := sget (fun _ => {}) c.arr.run (2 * t.toNat + bit chunk)

/-- Rewrite it. -/
def Chip.modRun (c : Chip) (t : TileIx) (chunk : Bool) (f : TileRun → TileRun) : Chip :=
  { c with arr := { c.arr with run := smod (fun _ => {}) c.arr.run (2 * t.toNat + bit chunk) f } }

/-- The sector of a tile (R16, R17). -/
def sectorOf (t : TileIx) : Nat := 4 * ((t.toNat / 32) / 8) + (t.toNat % 32) / 8

/-- A sector's governor. -/
def Chip.sector (c : Chip) (s : Nat) : Sector := sget (fun _ => {}) c.arr.sector s

/-- Rewrite it. -/
def Chip.modSector (c : Chip) (s : Nat) (f : Sector → Sector) : Chip :=
  { c with arr := { c.arr with sector := smod (fun _ => {}) c.arr.sector s f } }

/-- The detail of a source that names a physical plane, a row when one is named (R521). -/
def physDetail (t : TileIx) (n : Fin 17) (p : BitVec 2) (row : Nat) : BitVec 32 :=
  tileDetail t (unitPhysN n.val) (p.toNat + 4 * row)

/-- The rest of a waiting event: its target too. -/
def Chip.raiseTarget (c : Chip) (src : BitVec 8) (detail : BitVec 32) (t : TileIx) (tg : Target) (p : Option Pass) : Chip :=
  c.raise src { detail, target := some (t, tg), pass := p }

/-- Queue a plane for refresh once (R79, R93). -/
def Chip.queueRefresh (c : Chip) (t : TileIx) (n : Fin 17) (p : BitVec 2) : Chip :=
  c.modTileArr t fun a => { a with refreshQ := if (n, p) ∈ a.refreshQ then a.refreshQ else a.refreshQ ++ [(n, p)] }

/-- The priority of a queued plane write (R82). -/
def WriteWhy.rank : WriteWhy → Nat
  | .repair => 1 | .refreshInPlace => 2 | .rotation => 3 | .testPlane => 3 | .dormant => 3 | .load => 4

/-- Queue a plane write, once for each plane. -/
def Chip.queueWrite (c : Chip) (j : PlaneJob) : Chip :=
  if c.arr.writes.any fun x => x.tile == j.tile && x.phys == j.phys && x.plane == j.plane && x.why == j.why then c
  else { c with arr := { c.arr with writes := c.arr.writes ++ [j] } }

/-- Remove a plane's running write. -/
def Chip.dropWrite (c : Chip) (t : TileIx) (n : Fin 17) (p : BitVec 2) : Chip :=
  { c with arr := { c.arr with writes := c.arr.writes.filter fun x =>
      !(x.running && x.tile == t && x.phys == n && x.plane == p) } }

/-- The running write of a plane. -/
def Chip.runningWrite (c : Chip) (t : TileIx) (n : Fin 17) (p : BitVec 2) : Option PlaneJob :=
  c.arr.writes.find? fun x => x.running && x.tile == t && x.phys == n && x.plane == p

/-- The write of a plane of an epoch with its content as that epoch's image has it: kind, epoch and digest of its record
(R83, R230). -/
def goldenOf (e : Epoch) (t : TileIx) (n : Fin 17) (logical : BitVec 4) (rel : BitVec 2) (why : WriteWhy) : PlaneJob :=
  { tile := t, phys := n, plane := bankPlane e.bank rel, why, logical, rel
    kind := if rel.toNat < 2 then 0x01 else if e.buddyOff then 0x03 else 0x02
    wepoch := e.wepoch, digest := BitVec.ofNat 64 (beNat (e.digest.drop 40)) }

/-- No epoch: what a device without one would write. -/
def noEpoch : Epoch := { wepoch := 0, bank := false, digest := [], layout := [], buddyOff := false }

/-- A plane's write as the active epoch's golden image has it. -/
def Chip.goldenJob (c : Chip) (t : TileIx) (n : Fin 17) (logical : BitVec 4) (rel : BitVec 2) (why : WriteWhy) : PlaneJob :=
  goldenOf (c.load.active.getD noEpoch) t n logical rel why

/-- The write of a physical plane of the spare that takes a logical array: its content in the epoch that the former array's
plane belongs to, the incoming one where a load has already written it (R99). -/
def Chip.moveJob (c : Chip) (t : TileIx) (sp : Fin 17) (logical : BitVec 4) (why : WriteWhy) (p : BitVec 2) : PlaneJob :=
  let r := c.planeRec t ((c.tileMap t).phys logical) p
  match c.load.incoming with
  | some (e, _, _) =>
    if r.kind == 0x01 && r.wepoch == e.wepoch then goldenOf e t sp logical (bankPlane e.bank p) why
    else c.goldenJob t sp logical (bankPlane c.bankBit p) why
  | none => c.goldenJob t sp logical (bankPlane c.bankBit p) why

/-- The physical planes that a spare takes when it is programmed (R86, R98, R99, R250): all four of the logical array; for a
repair only the active epoch's own bank while a weight load holds the other; none while no epoch is active. -/
def Chip.movePlanes (c : Chip) (repair : Bool) : List (BitVec 2) :=
  if c.load.active.isNone then []
  else if repair && c.load.incoming.isSome then [bankPlane c.bankBit 0, bankPlane c.bankBit 1] else [0, 1, 2, 3]

/-- Start programming the spare for a logical array: a repair, or a rotation (R88, R98, R99). While another move of the tile
runs nothing starts; one of the same array that is to retire it takes that over. -/
def Chip.startMove (c : Chip) (t : TileIx) (logical : BitVec 4) (repair retire : Bool)
    (refreshing : Option (Fin 17 × BitVec 2)) : Chip :=
  match (c.tileMap t).spareIx, (c.tileArr t).move with
  | some sp, none =>
    let ps := c.movePlanes repair
    let why := if repair then WriteWhy.repair else WriteWhy.rotation
    let c := c.modTileArr t fun a => { a with
      move := some { logical, toPhys := sp, left := ps, retire, refreshing }, moveReady := ps.isEmpty
      spareState := if repair then 1 else 2, spareTest := false }
    let c : Chip := { c with arr := { c.arr with
      writes := c.arr.writes.filter fun j => j.running || !(j.tile == t && j.why == .testPlane) } }
    ps.foldl (fun c p => c.queueWrite (c.moveJob t sp logical why p)) c
  | some sp, some m =>
    if m.logical = logical && retire then
      let c := c.modTileArr t fun a => { a with
        move := some { m with retire := true }, spareState := if repair then 1 else a.spareState }
      if repair then { c with arr := { c.arr with writes := c.arr.writes.map fun j =>
        if j.tile = t ∧ j.phys = sp ∧ j.why = .rotation then { j with why := .repair } else j } } else c
    else c
  | none, _ => c

/-- Write the active unbound pack's test plane for a kind of entry (R368, R370). -/
def Chip.testPlane (c : Chip) (kind : Nat) (t : TileIx) : Option (List (BitVec 1024)) :=
  match c.spk.unbound with
  | none => none
  | some p => (p.entries.find? fun e => e.kind == kind && e.testPlane.isSome && (e.tile.isNone || e.tile == some t)).bind
      (·.testPlane)

/-- Queue the test plane for plane 3 of the spare (R368). -/
def Chip.queueTest (c : Chip) (t : TileIx) : Chip :=
  match (c.tileMap t).spareIx, c.testPlane 2 t with
  | some sp, some rows =>
    let c := c.modTileArr t fun a => { a with spareTest := false }
    c.queueWrite { tile := t, phys := sp, plane := 3, why := .testPlane, rows }
  | _, _ => c

/-- Put a whole row into an S-array, its check bytes with it. -/
def Chip.putSRow (c : Chip) (t : TileIx) (a : Fin 9) (row : Nat) (data : BitVec 1024) : Chip := c.writeSRow t a row 0xFFFF data

/-- The stand-in returns to FREE: its target is released, and the test plane goes into its rows (R98, R99, R368). -/
def Chip.freeStandin (c : Chip) (t : TileIx) : Chip :=
  let tg := (c.tileArr t).standin.target
  let c := c.modTileArr t fun a => { a with
    standin := {}, held := a.held.filter fun x => some x != tg, refreshDone := false, standinTest := false }
  match c.testPlane 3 t with
  | some rows =>
    let c := ((List.range 288).zip rows).foldl (fun c p => c.putSRow t 8 p.1 p.2) c
    c.modTileArr t fun a => { a with standinTest := true }
  | none => c

/-- Write KIND = 0xFF into the records of a retired array; a record left at 0xFE by a failed write stays (R86, R98). -/
def Chip.retireRecs (c : Chip) (t : TileIx) (n : Fin 17) : Chip :=
  ([0, 1, 2, 3] : List (BitVec 2)).foldl (fun c p =>
    if (c.planeRec t n p).kind = 0xFE then c else c.modRec t n p fun r => { r with kind := 0xFF }) c

/-- The stand-in serves a plane permanently: the nonvolatile table records it (R86, R102). -/
def Chip.servePermanently (c : Chip) (t : TileIx) : Chip :=
  let tg := (c.tileArr t).standin.target
  (c.modTileArr t fun a => { a with standin := { a.standin with permanent := true } }).modMap t fun m => { m with served := tg }

/-- The stand-in is SERVING the logical array's plane. -/
def Standin.servesArray (s : Standin) (logical : BitVec 4) : Bool :=
  s.state == .serving && match s.target with
    | some (.n l _) => l == logical
    | _ => false

/-- Repair starts while the stand-in serves a failed N-array plane and the spare is unused (R98); with no spare the
stand-in serves permanently (R102). -/
def Chip.startRepair (c : Chip) (t : TileIx) : Chip :=
  let s := (c.tileArr t).standin
  match s.state, s.target with
  | .serving, some (.n l _) =>
    if (c.tileMap t).spareIx.isSome then c.startMove t l true true none else c.servePermanently t
  | _, _ => c

/-- A move whose planes are all written takes effect at the tile's pass boundary (R64, R98, R99). A spare that a rotation
sets free serves a repair that has been waiting for it. -/
def Chip.finishMove (c : Chip) (t : TileIx) : Chip :=
  let a := c.tileArr t
  match a.move with
  | some m =>
    if !a.moveReady then c
    else
      let old := (c.tileMap t).phys m.logical
      let c := c.modMap t fun x => { x with
        map := setAt x.map m.logical.toNat (BitVec.ofNat 5 m.toPhys.val)
        spare := if m.retire then 31 else BitVec.ofNat 5 old.val
        retired := if m.retire then x.retired ||| (1#17 <<< old.val) else x.retired
        served := match x.served with
          | some (.n l _) => if l = m.logical then none else x.served
          | y => y }
      let c := if m.retire then c.retireRecs t old else c
      let c := if m.refreshing.isSome then
          { c with arr := { c.arr with refreshes := satAdd c.arr.refreshes 1 } } else c
      let c := c.modTileArr t fun x => { x with
        move := none, moveReady := false, spareState := if m.retire then 3 else 0
        refreshQ := x.refreshQ.filter fun y => y.1 != old, dormant := x.dormant.filter fun y => y.1 != old }
      let c := if (c.tileArr t).standin.servesArray m.logical then c.freeStandin t else c
      let c := c.startRepair t
      if (c.tileArr t).move.isSome then c else c.queueTest t
  | none => c

/-- A refresh in place that is complete: the plane serves again (R99); a stand-in that has failed meanwhile stays FAILED
(R103). -/
def Chip.finishInPlace (c : Chip) (t : TileIx) : Chip :=
  if (c.tileArr t).refreshDone then
    let c : Chip := { c with arr := { c.arr with refreshes := satAdd c.arr.refreshes 1 } }
    if (c.tileArr t).standin.state = .servingRefresh then c.freeStandin t
    else
      let tg := (c.tileArr t).standin.target
      c.modTileArr t fun a => { a with
        refreshDone := false, held := a.held.filter fun x => some x != tg, standin := { a.standin with target := none } }
  else c

/-- What changes in a tile's arrays at its pass boundary (R64, R98, R99, R208). -/
def Chip.arrayBoundary (c : Chip) (t : TileIx) : Chip := (c.finishMove t).finishInPlace t

/-- On a device on which no pass has begun, every instant is a boundary (R208). -/
def Chip.arrayBoundaryIdle (c : Chip) (t : TileIx) : Chip := if c.rcp.begun then c else c.arrayBoundary t

/-- The last of its rows is in the stand-in (R96, R103): it serves, its target is released, a repair or the rewrite
in place starts. -/
def Chip.standinLoaded (c : Chip) (t : TileIx) : Chip :=
  let s := (c.tileArr t).standin
  match s.target with
  | none => c
  | some tg =>
    let c := c.modTileArr t fun a => { a with
      standin := { a.standin with state := if s.refresh then .servingRefresh else .serving }
      held := a.held.filter (· != tg) }
    let c := { c with arr := { c.arr with substitutions := satAdd c.arr.substitutions 1 } }
    if s.refresh then
      match tg with
      | .n l p => c.queueWrite (c.goldenJob t ((c.tileMap t).phys l) l p .refreshInPlace)
      | .s _ => c
    else c.startRepair t

/-- The stand-in serves a target (R97). -/
def Chip.servedByStandin (c : Chip) (t : TileIx) (tg : Target) : Bool :=
  let s := (c.tileArr t).standin
  (s.state == .serving || s.state == .servingRefresh) && s.target == some tg

/-- The bank-relative plane and logical array of a physical plane: its target in stand-in orders. -/
def Chip.targetOf (c : Chip) (t : TileIx) (n : Fin 17) (p : BitVec 2) : Option Target :=
  ((c.tileMap t).logical n).map fun l => .n l (bankPlane c.bankBit p)

/-- A plane lies in the active epoch's own bank, or the epoch has BUDDY_OFF (R230). -/
def Chip.ownBank (c : Chip) (p : BitVec 2) : Bool :=
  decide ((bankPlane c.bankBit p).toNat < 2) || (c.load.active.map (·.buddyOff)).getD false

/-- A live plane: of a mapped array, in the own bank (or any with BUDDY_OFF), its record valid (R260, R263). -/
def Chip.planeLive (c : Chip) (t : TileIx) (n : Fin 17) (p : BitVec 2) : Bool :=
  let k := (c.planeRec t n p).kind
  ((c.tileMap t).logical n).isSome && c.ownBank p && (k == 0x01 || k == 0x03)

/-- The tile array word (R108). -/
def Chip.tileArrayWord (c : Chip) (t : TileIx) : Word64 :=
  let a := c.tileArr t
  let m := c.tileMap t
  let st := match a.standin.state with
    | .free => 0 | .loading => 1 | .serving => 2 | .servingRefresh => 3 | .failed => 4
  regOf [fld 41 m.retired, fld 32 a.sFailed, st <<< 24, ((a.standin.target.map targetCode).getD 0xFF) <<< 16,
    fld 11 m.spare, fld 8 a.spareState, min 255 a.refreshQ.length]

end Sys2Proof.Machine
end

