-- ==== Sys2Proof/Machine/OrderOps.lean ====
section
/-! DEFINITION. The compiled order in force and what a pass has to do by it (R110, R204, R206 to R211, R220, R221). -/

namespace Sys2Proof.Machine

/-- The fallback section a code of SYS_RECIPE.FALLBACK names (R220, R224). -/
def Recipe.fallbackOf (r : Recipe) (code : BitVec 4) : Option Fallback :=
  if code = 0 then none
  else if code = 1 then (if r.buddyOff then none else r.fallbacks.find? fun f => f.port.isNone)
  else r.fallbacks.find? fun f => f.port == some (code.setWidth 3)

/-- The compiled order in force: tile orders and node lists (R204, R221). -/
def Chip.orders (c : Chip) : List TileOrder × List NodeList :=
  match c.rcp.active with
  | none => ([], [])
  | some r => match r.fallbackOf c.rcp.fallback with
    | some f => (f.tiles, f.nodes)
    | none => (r.tiles, r.nodes)

/-- A tile's part of the order in force. -/
def Chip.tileOrder (c : Chip) (t : TileIx) : Option TileOrder := c.orders.1.find? (·.tile == t)

/-- The smallest class whose LIMIT is greater than the last position (R211). -/
def Recipe.lengthOf (r : Recipe) (pos positions : Nat) : Option LengthClass :=
  r.lengths.find? fun l => decide (pos + positions - 1 < l.limit)

/-- A prompt chunk (R206). -/
def PassRec.isChunk (p : PassRec) : Bool := p.kind == 2

/-- The order's operations for a pass: the length class's sub-order stands where attention stands (R210). -/
def TileOrder.expand (o : TileOrder) (ref : Nat) : List OrderItem :=
  o.ops.flatMap fun x => if x.op = .attention then ((o.subs.find? (·.1 == ref)).map (·.2)).getD [] else [x]

/-- A node's list for a pass: the length class's sub-order stands where attention stands (R210). -/
def NodeList.expand (l : NodeList) (ref : Nat) : List NodeEntry :=
  l.entries.flatMap fun x => if x = .attention then ((l.subs.find? (·.1 == ref)).map (·.2)).getD [] else [x]

/-- RES_INT, 16 where the recipe does not set it (R164). -/
def Recipe.resInterval (r : Recipe) : Nat := if r.resInt = 0 then 16 else r.resInt

/-- ORDER_REF of a pass's length class. -/
def Chip.passRef (c : Chip) (p : PassRec) : Nat :=
  ((c.rcp.active.bind fun r => r.lengthOf p.pos.toNat p.positions).map (·.ref)).getD 0

/-- The order list of an output for a pass (R155, R210). -/
def Chip.listFor (c : Chip) (t : TileIx) (out : NodePort) (p : PassRec) : List NodeEntry :=
  ((c.orders.2.find? fun l => l.tile == t && l.out == out).map fun l => l.expand (c.passRef p)).getD []

/-- A pass's operations on a tile. -/
def Chip.passOps (c : Chip) (t : TileIx) (p : PassRec) : List OrderItem :=
  match c.tileOrder t with
  | some o => o.expand (c.passRef p)
  | none => []

/-- The next pass of a lane a tile has not worked on. -/
def Chip.nextPass (c : Chip) (t : TileIx) (chunk : Bool) : Option PassRec :=
  let last := (c.tileRun t chunk).last
  c.rcp.passes.find? fun p => p.isChunk == chunk && (match last with | some l => passAfter p.pass l | none => true)

/-- A pass's work on this device is done. -/
def Chip.passDone (c : Chip) (p : PassRec) : Bool :=
  c.orders.1.all fun o => (c.passOps o.tile p).isEmpty || (match (c.tileRun o.tile p.isChunk).last with
    | some l => !passAfter p.pass l && (c.tileRun o.tile p.isChunk).ops.isEmpty
    | none => false)

end Sys2Proof.Machine
end

