-- ==== Sys2Proof/Machine/LoadOps.lean ====
section
/-! DEFINITION. The load engine (R230 to R268): plans and chunk images, queueing of segments, completion of a plan, of a
resume and of a rebuild, the end of a drain, and the golden image's rows. -/

namespace Sys2Proof.Machine

/-- Rewrite the load state. -/
def Chip.modLoad (c : Chip) (f : Load → Load) : Chip := { c with load := f c.load }

/-- The device's position as POS_X, POS_Y, POS_Z (R29, R457). -/
def Chip.posX (c : Chip) : Nat := field c.sys.position.toNat 5 3
def Chip.posY (c : Chip) : Nat := field c.sys.position.toNat 2 3
def Chip.posZ (c : Chip) : Nat := field c.sys.position.toNat 0 2
def Chip.posBytes (c : Chip) : List Byte := leBytes 1 c.posX ++ leBytes 1 c.posY ++ leBytes 1 c.posZ

/-- Size of an image-area slot (R237). -/
def mib : Nat := 2 ^ 20

/-- The plan's image area as an interval (R237). -/
def Plan.areaEnd (p : Plan) : Nat := p.area + p.chunks.length * mib

/-- Two far-memory intervals overlap. -/
def overlaps (a b c d : Nat) : Bool := decide (a < d) && decide (c < b) && decide (a < b) && decide (c < d)

/-- A far-memory byte interval meets the image area of a held epoch (R246). -/
def Chip.inImage (c : Chip) (a n : Nat) : Bool :=
  let meets := fun (p : Plan) => overlaps a (a + n) p.area p.areaEnd
  (c.load.incoming.any fun x => meets x.2.1) || (c.load.activePlan.any meets)
    || (c.load.old.any fun x => x.2.1.any meets)

/-- One segment header (R240). -/
def readSeg (payload : List Byte) (off role : Nat) (buddyOff : Bool) : Option Seg :=
  let v := leAt payload
  let isS := v (off + 2) 1 == 1
  let array := v (off + 3) 1
  let plane := v (off + 4) 1
  let first := v (off + 6) 2
  let count := v (off + 8) 2
  let okN := decide (array < 16) && first == 0 && count == 288
    && (if role = 1 then decide (plane < 2) || (buddyOff && decide (plane < 4)) else role == 2 && (plane == 2 || plane == 3))
  let okS := decide (array < 8) && plane == 0 && decide (0 < count) && decide (first + count ≤ 288) && decide (3 ≤ role)
  if decide (off + 64 + 128 * count ≤ payload.length) && decide (v off 2 < 1024) && decide (v (off + 2) 1 ≤ 1)
      && v (off + 5) 1 == 0 && allZero (bytesAt payload (off + 10) 54) && (if isS then okS else okN) then
    some { tile := BitVec.ofNat 10 (v off 2), isS, array := BitVec.ofNat 4 array, plane := BitVec.ofNat 2 plane, first, count
           offset := off + 64 }
  else none

/-- All segments of a payload (R240), with fuel for their number. -/
def readSegs (payload : List Byte) (role : Nat) (buddyOff : Bool) : Nat → Nat → Option (List Seg)
  | 0, off => if off = payload.length then some [] else none
  | f + 1, off =>
    if off = payload.length then some []
    else match readSeg payload off role buddyOff with
      | some s => (readSegs payload role buddyOff f (s.offset + 128 * s.count)).map (s :: ·)
      | none => none

/-- How an image checks (R244, R245). -/
inductive ImageCheck where
  | corrupt
  | invalid
  | good (payload : List Byte) (segs : List Seg)
  deriving DecidableEq, Repr

/-- Authenticate chunk `i` (R238 to R240, R244). -/
def checkImage (pos : List Byte) (e : Epoch) (key : List Byte) (i : Nat) (r : ChunkRec) (image : List Byte) : ImageCheck :=
  let v := leAt image
  let n := v 12 4
  let iv := leBytes 4 i ++ [e.wepoch, BitVec.ofNat 8 r.role] ++ pos ++ [0, 0, 0]
  if decide (image.length = r.len) && v 0 4 == 0x4B4E4843 && v 4 2 == 1 && v 6 1 == e.wepoch.toNat && v 7 1 == r.role
      && v 8 4 == i && n % 64 == 0 && inRange 64 1048448 n && n + 80 == image.length && bytesAt image 16 12 == iv
      && bytesAt image 28 3 == pos && allZero (bytesAt image 31 33) then
    match gcmDecrypt key iv (image.take 64) (bytesAt image 64 n) (bytesAt image (64 + n) 16) with
    | none => .corrupt
    | some payload =>
      if sha384 payload ≠ r.hash then .corrupt
      else match readSegs payload r.role e.buddyOff (n / 64 + 1) 0 with
        | some segs => .good payload segs
        | none => .invalid
  else .corrupt

/-- Rewrite the plan of a held epoch. -/
def Chip.modPlanOf (c : Chip) (w : Byte) (f : Plan → Plan) : Chip :=
  c.modLoad fun l =>
    if (l.incoming.map fun x => x.1.wepoch) = some w then { l with incoming := l.incoming.map fun x => (x.1, f x.2.1, x.2.2) }
    else if (l.active.map (·.wepoch)) = some w then { l with activePlan := l.activePlan.map f }
    else l

/-- The plan and key of an epoch the device holds, by WEPOCH (R232, R256): active, incoming, or the former one while it
drains. -/
def Chip.epochPlan (c : Chip) (w : Byte) : Option (Epoch × Plan × ContentKey) :=
  let act := match c.load.active, c.load.activePlan, c.load.keyActive with
    | some e, some p, some k => if e.wepoch = w then some (e, p, k) else none
    | _, _, _ => none
  let inc := match c.load.incoming, c.load.keyIncoming with
    | some (e, p, _), some k => if e.wepoch = w then some (e, p, k) else none
    | _, _ => none
  let old := match c.load.old with
    | some (e, some p, some k) => if e.wepoch = w then some (e, p, k) else none
    | _ => none
  (act.orElse fun _ => inc).orElse fun _ => old

/-- Rewrite a chunk's record. -/
def Plan.modChunk (p : Plan) (i : Nat) (f : ChunkRec → ChunkRec) : Plan :=
  match p.chunks[i]? with
  | some r => { p with chunks := listSet p.chunks i (f r) }
  | none => p

/-- Rewrite the state of a chunk of an epoch. -/
def Chip.setChunk (c : Chip) (w : Byte) (i : Nat) (st : ChunkState) : Chip :=
  c.modPlanOf w fun p => p.modChunk i fun r => { r with state := st }

/-- A chunk of an epoch fails (R245): CHUNK_FAILED names it. -/
def Chip.failChunk (c : Chip) (w : Byte) (i cause : Nat) : Chip :=
  (c.setChunk w i (.failed cause)).tally Src.chunkFailed (BitVec.ofNat 32 i)

/-- The slice that fetches chunk `i` (R243): slice i mod 4, or the next whose module is up, in ascending order. -/
def Chip.sliceOf (c : Chip) (i : Nat) : Option UcieIx :=
  ([0, 1, 2, 3] : List Nat).findSome? fun k =>
    let m : UcieIx := BitVec.ofNat 2 (i + k)
    if c.sys.ucieUp.getLsbD m.toNat then some m else none

/-- The chunks of a plan that a slice is fetching. -/
def Plan.fetchedBy (p : Plan) (m : UcieIx) : Nat := (p.chunks.filter fun r => r.state == .fetching m).length

/-- The fetches of a slice that are out. -/
def Chip.fetchesOf (c : Chip) (m : UcieIx) : Nat :=
  ((c.load.incoming.map fun x => x.2.1.fetchedBy m).getD 0) + ((c.load.activePlan.map fun p => p.fetchedBy m).getD 0)

/-- Start the fetches of an epoch's chunks that wait, in index order, at most 16 of a slice at a time (R243), none while PWRFAIL_N is low (R494). -/
def Chip.pumpPlan (c : Chip) (w : Byte) (p : Plan) : Chip :=
  p.chunks.zipIdx.foldl (fun c x =>
    if x.1.state = .waiting then
      match c.sliceOf x.2 with
      | some m => if c.pins.pwrfailN && decide (c.fetchesOf m < 16) then (c.setChunk w x.2 (.fetching m)).emit (.chunkFetch m x.1.addr x.1.len) else c
      | none => c
    else c) c

/-- Start what fetches may start. -/
def Chip.pumpFetches (c : Chip) : Chip :=
  let c := match c.load.incoming with
    | some (e, p, _) => c.pumpPlan e.wepoch p
    | none => c
  match c.load.active, c.load.activePlan with
  | some e, some p => c.pumpPlan e.wepoch p
  | _, _ => c

/-- The fetches of a module that has gone down pass to the next working slice (R243). -/
def Chip.dropFetches (c : Chip) (m : UcieIx) : Chip :=
  let again := fun (r : ChunkRec) => if r.state = .fetching m then { r with state := .waiting } else r
  let redo := fun (p : Plan) => { p with chunks := p.chunks.map again }
  (c.modLoad fun l => { l with
    incoming := l.incoming.map fun x => (x.1, redo x.2.1, x.2.2), activePlan := l.activePlan.map redo }).pumpFetches

/-- A chunk is fetched again: one more re-fetch of its plan (R245, R253, R267). -/
def Chip.refetch (c : Chip) (w : Byte) (i tries : Nat) : Chip :=
  ((c.modPlanOf w fun p => p.modChunk i fun r => { r with state := .waiting, tries }).modLoad fun l =>
    { l with retries := satAdd l.retries 1 }).pumpFetches

/-- A plan has every chunk authenticated. -/
def Plan.allAuth (p : Plan) : Bool := p.chunks.all (·.state == .authenticated)

/-- Some chunk of the plan has failed. -/
def Plan.anyFailed (p : Plan) (f : ChunkRec → Bool) : Bool := p.chunks.any fun r => f r && r.state.isFailed

/-- Every chunk is authenticated or has failed (R245). -/
def Plan.settled (p : Plan) : Bool := p.chunks.all fun r => r.state == .authenticated || r.state.isFailed

/-- The image-area chunks of an epoch are all authenticated (R253). -/
def Plan.goldenOk (p : Plan) : Bool := p.chunks.all fun r => r.state == .authenticated || r.role == 3 || r.role == 4

/-- A row of 128 bytes as a row's columns (R240). -/
def rowOf (bs : List Byte) : BitVec 1024 := BitVec.ofNat 1024 (leNat bs)

/-- The plane write of a segment of an epoch (R83, R230, R249). -/
def Chip.segJob (c : Chip) (e : Epoch) (i role : Nat) (s : Seg) : PlaneJob :=
  let n := (c.tileMap s.tile).phys s.array
  { tile := s.tile, phys := n, plane := bankPlane e.bank s.plane, why := .load, logical := s.array, rel := s.plane
    kind := if role = 2 then 0x02 else if decide (2 ≤ s.plane.toNat) then 0x03 else 0x01
    wepoch := e.wepoch, digest := BitVec.ofNat 64 (beNat (e.digest.drop 40)), chunk := some i, role }

/-- Emit rows as weight-chunk crumbs of a destination class (R247). -/
def Chip.emitRows (c : Chip) (w : Byte) (t : TileIx) (cls array plane first : Nat) (rows : List (List Byte)) : Chip :=
  let repoch := (c.rcp.active.map (·.repoch)).getD 0
  rows.zipIdx.foldl (fun c x => c.emits ((rowCrumbs repoch w t cls array plane (first + x.2) x.1).map .crumb)) c

/-- The rows of a segment in a chunk's payload (R240). -/
def Seg.rowsOf (s : Seg) (payload : List Byte) : List (List Byte) :=
  (List.range s.count).map fun n => bytesAt payload (s.offset + 128 * n) 128

/-- An S-array segment's rows are streamed to its tile, where each is written as it arrives (R249). -/
def Chip.streamSeg (c : Chip) (w : Byte) (s : Seg) (payload : List Byte) : Chip :=
  (c.modLoad fun l => { l with
    sLeft := l.sLeft ++ (List.range s.count).map fun r => (w, s.tile, s.array, s.first + r) }).emitRows w s.tile 1 s.array.toNat 0
      s.first (s.rowsOf payload)

/-- Queue the segments of an authenticated chunk (R249): plane writes of N-array segments, rows of S-array segments. -/
def Chip.queueSegs (c : Chip) (e : Epoch) (i role : Nat) (segs : List Seg) (payload : List Byte) : Chip :=
  if role = 5 then c
  else segs.foldl (fun c s => if s.isS then c.streamSeg e.wepoch s payload else c.queueWrite (c.segJob e i role s)) c

/-- Queue the role-2 segments of the active plan: the rebuild (R258). -/
def Chip.queueRebuild (c : Chip) : Chip :=
  match c.load.active, c.load.activePlan with
  | some e, some p =>
    ((List.range p.chunks.length).zip p.chunks).foldl (fun c x =>
      if x.2.role = 2 && x.2.state == .authenticated then c.queueSegs e x.1 2 x.2.segs [] else c) c
  | _, _ => c

/-- Some weight-load write waits or runs. -/
def Chip.loadWrites (c : Chip) (f : PlaneJob → Bool) : Bool := c.arr.writes.any fun j => j.chunk.isSome && f j

/-- After a return, BUDDY_OK sets when both devices have acknowledged a LAST mirror record of the other (R353). -/
def Chip.settleRejoin (c : Chip) : Chip :=
  if c.opt.rejoin = some (true, true) then
    { c with opt := { c.opt with rejoin := none }, load := { c.load with buddyOk := true } }
  else c

/-- BUDDY_OK sets when this device has completed its rebuild and has the buddy's notice (R258). -/
def Chip.settleBuddy (c : Chip) : Chip :=
  let off := (c.load.active.map (·.buddyOff)).getD true
  let dormant := c.arr.tile.any fun p => !p.2.dormant.isEmpty
  if c.load.rebuilt && c.load.buddyNotice && !off && !dormant && c.opt.tkState = 0 then
    c.modLoad fun l => { l with buddyOk := true } else c

/-- The buddy bank is whole: REBUILD_PENDING clears, the table is written, the buddy gets its notice (R258, R262). A role-2
chunk that has failed leaves the rebuild unfinished. -/
def Chip.finishRebuild (c : Chip) : Chip :=
  if c.load.activePlan.any fun p => p.anyFailed (·.role == 2) then c.modLoad fun l => { l with rebuilding := false, state := 3 }
  else
    let c := c.modLoad fun l => { l with rebuilding := false, rebuildPending := false, rebuilt := true, state := 2 }
    (c.tell [c.buddyPort] .rebuildDone).settleBuddy

/-- Start the rebuild of the buddy bank (R258, R264). -/
def Chip.startRebuild (c : Chip) : Chip :=
  if (c.load.active.map (·.buddyOff)).getD true then c.modLoad fun l => { l with state := 2 }
  else
    let c := (c.modLoad fun l => { l with state := 4, rebuilding := true }).queueRebuild
    if c.loadWrites (·.role == 2) then c else c.finishRebuild

/-- An initial plan completes: its epoch becomes active without an arm (R261, R262). -/
def Chip.becomeActive (c : Chip) (e : Epoch) (p : Plan) : Chip :=
  let c := c.modLoad fun l => { l with
    active := some e, activePlan := some { p with initial := false }, activeLive := true, incoming := none
    keyActive := l.keyIncoming, keyIncoming := none, goldenOk := true, rebuildPending := false, state := 2
    rebuilt := !e.buddyOff }
  if e.buddyOff then c else (c.tell [c.buddyPort] .rebuildDone).settleBuddy

/-- A plan has load writes or S-array rows under way. -/
def Chip.planWrites (c : Chip) (w : Byte) : Bool := c.loadWrites (·.wepoch == w) || c.load.sLeft.any fun x => x.1 == w

/-- Progress of an incoming plan or a rebuild after a chunk, a plane write or a row (R245, R249, R258). -/
def Chip.planProgress (c : Chip) : Chip :=
  let c := match c.load.incoming with
    | some (e, p, .loading) =>
      if p.allAuth then
        if c.planWrites e.wepoch then c
        else if p.initial then c.becomeActive e p
        else c.modLoad fun l => { l with incoming := some (e, p, .complete), state := 2 }
      else if p.settled then c.modLoad fun l => { l with state := 3 }
      else c
    | _ => c
  if c.load.rebuilding && !c.loadWrites (·.role == 2) then c.finishRebuild else c

/-- The drain ends, the object met or timed out (R258, R259): the former epoch is released and the rebuild starts. -/
def Chip.drainEnd (c : Chip) (met : Bool) : Chip :=
  if c.load.old.isNone then c
  else
    let c := if met then c
      else
        let late := c.rcp.passes.filter fun p => passBefore p.pass c.load.switchPass && !c.passDone p
        (late.foldl (fun c p => c.haltPass p.pass) c).tally Src.epochDrain 0
    (c.modLoad fun l => { l with old := none, drainSo := none, switchPass := 0 }).startRebuild

/-- The chunk and segment of a plan that hold a plane, or an S-array (R240). -/
def Plan.find (p : Plan) (f : Seg → Bool) : Option (Nat × ChunkRec × Seg) :=
  ((List.range p.chunks.length).zip p.chunks).findSome? fun x => (x.2.segs.find? f).map fun s => (x.1, x.2, s)

/-- The rows of a segment of an image-area chunk, which is authenticated again (R249, R253); `none`: it fails. -/
def Chip.imageRows (c : Chip) (far : List Host.Cell) (e : Epoch) (p : Plan) (k : ContentKey) (i : Nat) (r : ChunkRec)
    (s : Seg) : Option (List (List Byte)) :=
  match checkImage c.posBytes e k.key i r (farRead far (p.area + i * mib) r.len) with
  | .good payload _ => some ((List.range s.count).map fun n => bytesAt payload (s.offset + 128 * n) 128)
  | _ => none

/-- An image-area chunk fails at a later use (R253): GOLDEN_CORRUPT, GOLDEN_OK clears, the chunk is fetched again. -/
def Chip.goldenFailed (c : Chip) (w : Byte) (i : Nat) : Chip :=
  let c := (c.modLoad fun l => { l with goldenOk := false }).tally Src.goldenCorrupt (BitVec.ofNat 32 i)
  c.refetch w i 0

/-- The row of a plane that a write has asked for (R249); `true` when it is served. -/
def Chip.servePlaneRow (c : Chip) (far : List Host.Cell) (t : TileIx) (a : BitVec 4) (pl : BitVec 2) (w : Byte) (row : Nat) :
    Chip × Bool :=
  match c.epochPlan w with
  | none => (c, false)
  | some (e, p, k) =>
    match p.find fun s => !s.isS && s.tile == t && s.array == a && s.plane == pl with
    | none => (c, true)
    | some (i, r, s) =>
      if r.state != .authenticated then (c, false)
      else match c.imageRows far e p k i r s with
        | none => (c.goldenFailed w i, false)
        | some rows => (c.emitRows w t 0 a.toNat pl.toNat row (rows[row]?).toList, true)

/-- Every segment of a plan that holds rows of an S-array, with its chunk (R235, R240). -/
def Plan.sSegs (p : Plan) (t : TileIx) (a : BitVec 3) (f : Nat → ChunkRec → Bool) : List (Nat × ChunkRec × Seg) :=
  p.chunks.zipIdx.flatMap fun x =>
    if f x.2 x.1 then (x.1.segs.filter fun s => s.isS && s.tile == t && s.array == a.setWidth 4).map fun s => (x.2, x.1, s) else []

/-- The image chunks of a streaming section: those whose places its bytes begin in (R217, R237). -/
def StreamSec.chunkIxs (s : StreamSec) (p : Plan) : List Nat :=
  (List.range ((s.bytes + mib - 1) / mib)).map fun n => (s.addr - p.area) / mib + n

/-- WEPOCH of the active epoch. -/
def Chip.activeW (c : Chip) : Byte := (c.load.active.map (·.wepoch)).getD 0

/-- The chunks of a plan whose streamed experts are resident, by the places of their images (R217, R218). -/
def Chip.residentChunks (c : Chip) (p : Plan) : List Nat :=
  ((c.rcp.active.map (·.streams)).getD []).zipIdx.flatMap fun s =>
    if c.rcp.resident.contains s.2 then s.1.chunkIxs p else []

/-- What an S-array holds of a plan: private and draft weights, and resident streamed experts (R100). -/
def Chip.sHeld (c : Chip) (p : Plan) (t : TileIx) (a : BitVec 3) : List (Nat × ChunkRec × Seg) :=
  let live := c.residentChunks p
  p.sSegs t a fun i r => r.role == 3 || r.role == 4 || r.role == 5 && live.contains i

/-- Stream what a failed S-array of an epoch held to the stand-in (R96, R100, R252): private and draft weights from their
host images, which are fetched first, and resident streamed experts from the image area. What has no row is loaded at
once. -/
def Chip.serveSArray (c : Chip) (far : List Host.Cell) (t : TileIx) (a : BitVec 3) (w : Byte) : Chip × Bool :=
  match c.epochPlan w with
  | none => (c, false)
  | some (e, p, k) =>
    let segs := c.sHeld p t a
    if segs.any fun x => x.2.1.state != .authenticated then (c, false)
    else
      let need := ((segs.flatMap fun x => (List.range x.2.2.count).map (x.2.2.first + ·)).eraseDups).length
      let c := c.modTileArr t fun x => { x with standin := { x.standin with need } }
      let imaged := (segs.filter fun x => x.2.1.role == 5).map fun x => (x, c.imageRows far e p k x.1 x.2.1 x.2.2)
      match imaged.find? fun y => y.2.isNone with
      | some y => (c.goldenFailed w y.1.1, false)
      | none =>
        if need = 0 then (c.standinLoaded t, true)
        else
          let c := imaged.foldl (fun c y => c.emitRows w t 2 a.toNat 0 y.1.2.2.first (y.2.getD [])) c
          ((segs.filter fun x => x.2.1.role != 5).foldl (fun c x =>
            let key := (w, x.1, t, a, 0)
            if c.load.restores.contains key then c
            else (c.modLoad fun l => { l with restores := l.restores ++ [key] }).startFetch
              (.chunkFetch ((c.sliceOf x.1).getD 0) x.2.1.addr x.2.1.len)) c, true)

/-- The epoch whose image holds an S-array's content: the active one's, unless only the epoch that drains has any. -/
def Chip.sEpoch (c : Chip) (t : TileIx) (a : BitVec 3) : Byte :=
  let act := (c.load.active.map (·.wepoch)).getD 0
  match c.load.activePlan, c.load.old with
  | some p, some (e, some q, _) => if (c.sHeld p t a).isEmpty && !(c.sHeld q t a).isEmpty then e.wepoch else act
  | _, _ => act

/-- The epoch and bank-relative plane of a plane that a stand-in order names after the active bank: while the former epoch
drains, the other bank holds its own planes (R232, R256). -/
def Chip.nEpoch (c : Chip) (pl : BitVec 2) : Byte × BitVec 2 :=
  match c.load.old with
  | some (e, _, _) => if 2 ≤ pl.toNat then (e.wepoch, bankPlane e.bank (bankPlane c.bankBit pl)) else (c.activeW, pl)
  | none => (c.activeW, pl)

/-- A streaming section of the active recipe. -/
def Chip.streamSec (c : Chip) (k : Nat) : Option StreamSec := c.rcp.active.bind fun r => r.streams[k]?

/-- A streamed expert all of whose rows are in its arrays is resident (R218). -/
def Chip.streamSettle (c : Chip) (k : Nat) : Chip :=
  if c.rcp.streaming.contains k && !(c.rcp.streamLeft.any fun x => x.1 == k) then
    { c with rcp := { c.rcp with streaming := c.rcp.streaming.erase k, resident := c.rcp.resident ++ [k] } }
  else c

/-- Stream a cold expert of an epoch, by its section, to its S-arrays (R217, R218, R249). -/
def Chip.serveStream (c : Chip) (far : List Host.Cell) (k : Nat) (w : Byte) : Chip × Bool :=
  match c.streamSec k, c.epochPlan w with
  | some s, some (e, p, key) =>
    let chunks := (s.chunkIxs p).filterMap fun i => (p.chunks[i]?).map fun r => (i, r)
    if chunks.any fun x => x.2.state != .authenticated then (c, false)
    else
      let rows := chunks.map fun x => (x.1, x.2, x.2.segs.map fun g => (g, c.imageRows far e p key x.1 x.2 g))
      match rows.find? fun x => x.2.2.any fun y => y.2.isNone with
      | some x => (c.goldenFailed w x.1, false)
      | none =>
        let c := rows.foldl (fun c x => x.2.2.foldl (fun (c : Chip) y =>
          ({ c with rcp := { c.rcp with streamLeft := c.rcp.streamLeft ++ (List.range y.1.count).map fun r =>
              (k, y.1.tile, y.1.array, y.1.first + r) } } : Chip).emitRows w y.1.tile 1 y.1.array.toNat 0 y.1.first
            (y.2.getD [])) c) c
        (c.streamSettle k, true)
  | some _, none => (c, false)
  | none, _ => (c, true)

/-- Stream the image of a plane to the stand-in (R96). -/
def Chip.serveNPlane (c : Chip) (far : List Host.Cell) (t : TileIx) (a : BitVec 4) (pl : BitVec 2) : Chip × Bool :=
  let at' := c.nEpoch pl
  match c.epochPlan at'.1 with
  | none => (c, false)
  | some (e, p, k) =>
    match p.find fun s => !s.isS && s.tile == t && s.array == a && s.plane == at'.2 with
    | none => (c, true)
    | some (i, r, s) =>
      if r.state != .authenticated then (c, false)
      else match c.imageRows far e p k i r s with
        | none => (c.goldenFailed at'.1 i, false)
        | some rows => (c.emitRows at'.1 t 2 a.toNat pl.toNat s.first rows, true)

/-- Stream one request: the crumbs of its rows, or what stands in the way; `true` when it is served (R96, R218, R249). -/
def Chip.serveRequest (c : Chip) (far : List Host.Cell) (q : GoldenReq) : Chip × Bool :=
  match q with
  | .standin t (.n a pl) => c.serveNPlane far t a pl
  | .standin t (.s a) => c.serveSArray far t a (c.sEpoch t a)
  | .stream k w => c.serveStream far k w
  | .plane t a p w row => c.servePlaneRow far t a p w row

/-- Serve every request that waits; those that cannot be served wait on (R96, R253). -/
def Chip.serveRequests (c : Chip) (far : List Host.Cell) : Chip :=
  let qs := c.load.requests
  let c := c.modLoad fun l => { l with requests := [] }
  qs.foldl (fun c q =>
    let r := c.serveRequest far q
    if r.2 then r.1 else r.1.modLoad fun l => { l with requests := l.requests ++ [q] }) c

/-- A resume is under way (R264). -/
def Chip.resuming (c : Chip) : Option (Epoch × Plan × ContentKey) :=
  match c.load.active, c.load.activePlan, c.load.keyActive with
  | some e, some p, some k => if p.resume && !c.load.activeLive then some (e, p, k) else none
  | _, _, _ => none

/-- Step 2 of R264: the planes that the start-up check has found bad are rewritten from their chunks. -/
def Chip.resumeRewrite (c : Chip) (e : Epoch) (p : Plan) : Chip :=
  let c := c.load.rewrite.foldl (fun c x =>
    match (c.tileMap x.1).logical x.2.1 with
    | some l =>
      match p.find fun s => !s.isS && s.tile == x.1 && s.array == l && s.plane == bankPlane e.bank x.2.2 with
      | some (i, r, s) => c.queueWrite (c.segJob e i r.role s)
      | none => c
    | none => c) c
  c.modLoad fun l => { l with rewrite := [], goldenOk := true, resumeStep := 1 }

/-- The chunks among some that no longer authenticate in the image area. -/
def Chip.badChunks (c : Chip) (far : List Host.Cell) (e : Epoch) (p : Plan) (k : ContentKey) (f : Nat → ChunkRec → Bool) :
    List Nat :=
  (p.chunks.zipIdx.filter fun x => f x.2 x.1 &&
    match checkImage c.posBytes e k.key x.2 x.1 (farRead far (p.area + x.2 * mib) x.1.len) with
    | .good _ _ => false
    | _ => true).map (·.2)

/-- A chunk that step 3 of R264 compares. -/
def Chip.compares (c : Chip) (i : Nat) (r : ChunkRec) : Bool :=
  (r.role == 1 || r.role == 2) && i % 64 == c.evr.pcycle.toNat % 64

/-- Planes of the compared chunks whose rows differ from the image, read by normal sense (R264 step 3). -/
def Chip.diffOf (c : Chip) (far : List Host.Cell) (e : Epoch) (p : Plan) (k : ContentKey) : List (Nat × Nat × Seg) :=
  (p.chunks.zipIdx).flatMap fun x =>
    if c.compares x.2 x.1 then
      x.1.segs.filterMap fun s =>
        let n := (c.tileMap s.tile).phys s.array
        match c.imageRows far e p k x.2 x.1 s with
        | some rows =>
          if rows.zipIdx.all fun r => c.cellRow s.tile n (bankPlane e.bank s.plane) (s.first + r.2) == rowOf r.1 then none
          else some (x.2, x.1.role, s)
        | none => none
    else []

/-- Step 3 of R264: each plane that differs is rewritten, START_VERIFY raised for it. -/
def Chip.resumeCompare (c : Chip) (far : List Host.Cell) (e : Epoch) (p : Plan) (k : ContentKey) : Chip :=
  let c := (c.diffOf far e p k).foldl (fun c x =>
    let j := c.segJob e x.1 x.2.1 x.2.2
    (c.tally Src.startVerify (physDetail j.tile j.phys j.plane 0)).queueWrite j) c
  c.modLoad fun l => { l with resumeStep := 2 }

/-- Step 4 of R264: role-3 and role-4 content goes to its S-arrays. -/
def Chip.resumeRows (c : Chip) (far : List Host.Cell) (e : Epoch) (p : Plan) (k : ContentKey) : Chip :=
  let c := p.chunks.zipIdx.foldl (fun c x =>
    if x.1.role = 3 ∨ x.1.role = 4 then
      match checkImage c.posBytes e k.key x.2 x.1 (farRead far (p.area + x.2 * mib) x.1.len) with
      | .good payload segs => c.queueSegs e x.2 x.1.role segs payload
      | _ => c
    else c) c
  c.modLoad fun l => { l with resumeStep := 3 }

/-- A step that reads chunks again, when all of them authenticate; those that do not are fetched again first (R253). -/
def Chip.ifGood (c : Chip) (bad : List Nat) (w : Byte) (go : Chip → Chip) : Chip :=
  if bad.isEmpty then go c else bad.foldl (fun c i => c.goldenFailed w i) c

/-- The resume is complete: the epoch is live, and a rebuild that was pending runs (R264). -/
def Chip.resumeEnd (c : Chip) : Chip :=
  let c := c.modLoad fun l => { l with activeLive := true, resumeStep := 0, state := 2 }
  if c.load.rebuildPending then c.startRebuild
  else ((c.modLoad fun l => { l with rebuilt := true }).tell [c.buddyPort] .rebuildDone).settleBuddy

/-- One step of a resume, when what it waits for is done (R264). -/
def Chip.resumeStepOn (c : Chip) (far : List Host.Cell) : Chip :=
  match c.resuming with
  | none => c
  | some (e, p, k) =>
    if !p.allAuth then (if p.settled then c.modLoad fun l => { l with state := 3 } else c)
    else if c.load.resumeStep = 0 then c.resumeRewrite e p
    else if c.planWrites e.wepoch then c
    else match c.load.resumeStep with
      | 1 => c.ifGood (c.badChunks far e p k c.compares) e.wepoch fun c => c.resumeCompare far e p k
      | 2 => c.ifGood (c.badChunks far e p k fun _ r => r.role == 3 || r.role == 4) e.wepoch fun c => c.resumeRows far e p k
      | _ => c.resumeEnd

/-- A resume goes on as far as it can: four steps. -/
def Chip.resumeProgress (c : Chip) (far : List Host.Cell) : Chip :=
  (((c.resumeStepOn far).resumeStepOn far).resumeStepOn far).resumeStepOn far

/-- The S-array map byte: the logical S-array that holds what the recipe names `n` of tile `t` in an epoch (R235). -/
def smapOf (smap : List Byte) (t : TileIx) (n : BitVec 3) : BitVec 3 :=
  match smap[8 * t.toNat + n.toNat]? with
  | some b => if b = 0xFF then n else b.setWidth 3
  | none => n

/-- The epoch of a pass by its WEPOCH: BANK and S-array map (R235, R256). -/
def Chip.epochBank (c : Chip) (w : Byte) : Bool × List Byte :=
  let sm := fun (p : Option Plan) => (p.map (·.smap)).getD []
  match c.load.old with
  | some (e, p, _) => if e.wepoch = w then (e.bank, sm p) else (c.bankBit, sm c.load.activePlan)
  | none => (c.bankBit, sm c.load.activePlan)

end Sys2Proof.Machine
end

