-- ==== Sys2Proof/Machine/SyncOps.lean ====
section
/-! DEFINITION. What operations on sync objects bring about (R126 to R137): released waiters act by their guards, slot
guards rearm each other, and guarded buffer accesses. -/

namespace Sys2Proof.Machine

/-- Something still to be done after an operation on an object. -/
inductive SoTask where
  | apply (i : SoIx) (b : SoBatch)
  | release (i : SoIx) (w : Waiter) (met : Bool)
  deriving DecidableEq, Repr

/-- The other object of the slot an object guards (R137). -/
def Chip.slotPartner (c : Chip) (i : SoIx) : Option SoIx :=
  let t : TileIx := i.extractLsb' 3 10
  let l : BitVec 3 := i.extractLsb' 0 3
  ((List.range 4).map (c.slotDesc t)).findSome? fun d =>
    if !d.valid then none else if d.fill = l then some (soIx t d.drain) else if d.drain = l then some (soIx t d.fill) else none

/-- The tasks an operation's outcome gives: the partner's rearm, then the released waiters (R132, R137). -/
def Chip.tasksOf (c : Chip) (i : SoIx) (o : SoOut) : List SoTask :=
  (if o.becameMet then (c.slotPartner i).toList.map fun j => .apply j { rearm := true } else []) ++ o.released.map fun w => .release i w o.met

/-- The task of one signal by 1. -/
def signalOne (i : SoIx) : SoTask := .apply i { count := 1, signals := 1 }

/-- A slot read released with the timeout outcome (R133, R148, R151). -/
def Chip.underrun (c : Chip) (i : SoIx) (w : WordIx) : Chip :=
  let t : TileIx := i.extractLsb' 3 10
  let c := c.modTileBuf t fun b => { b with underruns := satAdd b.underruns 1 }
  ({ c with so := { c.so with underruns := satAdd c.so.underruns 1 } } : Chip).tally Src.slotUnderrun
    (tileDetail t (i.toNat % 8) w.toNat)

/-- A slot write discarded by the timeout outcome (R133, R148, R151). -/
def Chip.overrun (c : Chip) (i : SoIx) (w : WordIx) : Chip :=
  let t : TileIx := i.extractLsb' 3 10
  let c := c.modTileBuf t fun b => { b with overruns := satAdd b.overruns 1 }
  ({ c with so := { c.so with overruns := satAdd c.so.overruns 1 } } : Chip).tally Src.slotOverrun
    (tileDetail t (i.toNat % 8) w.toNat)

/-- Release the oldest pass in custody of a port (R335, R337). -/
def Chip.releaseOldest (c : Chip) (p : PortIx) : Chip :=
  c.modPort p fun x => match x.custody with
    | [] => x
    | (pass, _) :: rest => { x with custody := rest, kept := x.kept.filter fun k => k.1 != pass, holding := none }

/-- The port whose custody object an object is (R337). -/
def Chip.custodyPort (c : Chip) (i : SoIx) : Option PortIx :=
  (c.rcp.active.bind fun r => r.desc.custody.find? fun x => x.2 == i).map (·.1)

/-- A tile's fills and copies. -/
def Chip.engineOf (c : Chip) (t : TileIx) : List FillCopy := sget (fun _ => []) c.buf.engine t.toNat

/-- Rewrite them. -/
def Chip.setEngine (c : Chip) (t : TileIx) (fs : List FillCopy) : Chip :=
  { c with buf := { c.buf with engine := sset (fun _ => []) c.buf.engine t.toNat fs } }

/-- A word of the running fill or copy was discarded (R120). -/
def Chip.engineLost (c : Chip) (t : TileIx) : Chip :=
  match c.engineOf t with
  | f :: fs => c.setEngine t ({ f with lost := true } :: fs)
  | [] => c

/-- A compiled operand of a tile has passed its guard, met or not (R110, R133): the operation that waited finds it. -/
def Chip.grant (c : Chip) (t : TileIx) (w : WordIx) (met : Bool) : Chip :=
  { c with buf := { c.buf with grants := c.buf.grants.filter (fun g => !(g.1 == t && g.2.1 == w)) ++ [(t, w, met)] } }

/-- A released waiter acts by its guard (R133). -/
def Chip.releaseWaiter (c : Chip) (i : SoIx) (w : Waiter) (met : Bool) : Chip × List SoTask :=
  let c := c.emit (.released i w.guard met)
  let t : TileIx := i.extractLsb' 3 10
  match w.access with
  | some (.operand t w) => (c.grant t w met, [])
  | some (.order t chunk) =>
    let c := c.modRun t chunk fun r => { r with passed := some met }
    (if w.guard = .windowAck ∧ !met then
      (c.modRun t chunk fun r => { r with spoiled := true }).tally Src.winAckTimeout (soDetail i) else c, [])
  | some (.read t w cls last upset slot) =>
    if met then
      let r := c.readWord t w (slot.getD (c.bank t w).next) upset none
      let drain := match c.slotOf t w with
        | some d => if last then [signalOne (soIx t d.drain)] else []
        | none => []
      (r.1.emit (.bufReply t w cls r.2.1 r.2.2), drain)
    else ((c.emit (.bufReply t w cls 0 true)).underrun i w, [])
  | some (.write t w cls data poison slot) =>
    if met then
      let fill := match c.slotOf t w with
        | some d => [signalOne (soIx t d.fill)]
        | none => []
      (c.writeWord t w data poison (slot.getD (c.bank t w).next), fill)
    else
      let c := c.overrun i w
      (if cls = .fillCopy then c.engineLost t else c, [])
  | none =>
    match w.guard with
    | .slotRead => (if met then c else c.underrun i 0, [])
    | .slotWrite => (if met then c else c.overrun i 0, [])
    | .windowAck => (if met then c else (c.modRun t false fun r => { r with spoiled := true }).tally Src.winAckTimeout (soDetail i), [])
    | .custody =>
      match c.custodyPort i with
      | some p => (if met then c else (c.releaseOldest p).tally Src.custodyTimeout (c.portDetail p 0), [])
      | none => (if met then c else c.tally Src.custodyTimeout (tileDetail t 0 0), [])
    | .epochDrain => (c.drainEnd met, [])
    | .recipeGuard => (if met then c else c.modRun t false fun r => { r with spoiled := true }, [])
    | .stream _ => (c, [])

/-- Carry out tasks in order, each with what it brings about before the rest; fuel bounds the chain. -/
def Chip.runTasks : Nat → List SoTask → Chip → Chip
  | 0, _, c => c
  | _, [], c => c
  | f + 1, .apply i b :: rest, c =>
    let r := c.soApply i b
    Chip.runTasks f (r.1.tasksOf i r.2 ++ rest) r.1
  | f + 1, .release i w met :: rest, c =>
    let r := c.releaseWaiter i w met
    Chip.runTasks f (r.2 ++ rest) r.1

/-- Waiters on all objects: each is released at most once in a chain. -/
def Chip.waiterCount (c : Chip) : Nat := c.so.obj.foldl (fun n p => n + p.2.waiters.length) 0

/-- Carry out tasks with fuel for every waiter, the signal it may give and the rearm that may follow. -/
def Chip.finishTasks (c : Chip) (ts : List SoTask) : Chip := Chip.runTasks (4 * (c.waiterCount + ts.length) + 16) ts c

/-- Re-initialise an object in TIMEOUT or ERROR (R131): the recipe's values, or OFF. It has no waiter left. -/
def Chip.reinit (c : Chip) (i : SoIx) : Chip :=
  match (c.soObj i).state with
  | .timeout | .error =>
    let given := c.rcp.active.bind fun r => r.desc.objects.find? fun o => o.index == i
    let c := match given with
      | some o => (c.soLoad i o.count o.limit o.tclass o.auto).1
      | none => c.setSo i {}
    c.tally Src.soReinit (soDetail i)
  | _ => c

/-- On a device on which no pass has begun every instant is a boundary: objects in TIMEOUT or ERROR are re-initialised at
once (R131, R208). -/
def Chip.reinitIdle (c : Chip) : Chip :=
  if c.rcp.begun then c else (c.so.obj.map fun p => BitVec.ofNat 13 p.1).foldl Chip.reinit c

/-- An operation's outcome and all that follows. -/
def Chip.afterSo (r : Chip × SoOut) (i : SoIx) : Chip := (r.1.finishTasks (r.1.tasksOf i r.2)).reinitIdle

/-- The operations of one handshake with all that follows (R125, R132). -/
def Chip.soHandshake (c : Chip) (i : SoIx) (ops : List SoOp) : Chip := Chip.afterSo (c.soApply i (batchOf ops)) i

/-- SET with all that follows (R125). -/
def Chip.soSet (c : Chip) (i : SoIx) (count limit : BitVec 24) (tclass : BitVec 3) (auto : Bool) : Chip :=
  c.soHandshake i [.set count limit tclass auto]

/-- SIGNAL with all that follows (R125). -/
def Chip.soSignal (c : Chip) (i : SoIx) (n : Nat) : Chip := Chip.afterSo (c.soApply i { count := 1, signals := n }) i

/-- SIGNAL_ERR with all that follows. -/
def Chip.soSignalErr (c : Chip) (i : SoIx) (code : BitVec 4) : Chip := c.soHandshake i [.err code]

/-- WAIT with all that follows. -/
def Chip.soWait (c : Chip) (i : SoIx) (w : Waiter) : Chip := Chip.afterSo (c.soWaitOn i w) i

/-- Put an object OFF with all that follows. -/
def Chip.soClear (c : Chip) (i : SoIx) : Chip := Chip.afterSo (c.soOff i) i

/-- A buffer read (R114, R136): a tile-local read inside a slot waits on its fill object; management and mesh reads do
not wait. -/
def Chip.bufRead (c : Chip) (t : TileIx) (w : WordIx) (cls : BufClass) (last : Bool) (slot : Nat) (upset : BitVec 576) : Chip :=
  match (if isLocal cls then c.slotOf t w else none) with
  | some d =>
    let i := soIx t d.fill
    let at' := if (c.soObj i).state == .wait then none else some slot
    c.soWait i { guard := .slotRead, access := some (.read t w cls last upset at') }
  | none =>
    let r := c.readWord t w slot upset none
    r.1.emit (.bufReply t w cls r.2.1 r.2.2)

/-- A whole-word write (R114, R136): a tile-local or mesh write inside a slot waits on its drain object and signals its
fill object. -/
def Chip.bufWrite (c : Chip) (t : TileIx) (w : WordIx) (cls : BufClass) (data : BitVec 512) (poison : Bool) (slot : Nat) : Chip :=
  match (if cls == .management then none else c.slotOf t w) with
  | some d =>
    let i := soIx t d.drain
    let at' := if (c.soObj i).state == .wait then none else some slot
    c.soWait i { guard := .slotWrite, access := some (.write t w cls data poison at') }
  | none => c.writeWord t w data poison slot

/-- The class rank of a request, reads before writes (R116). -/
def BufReq.rank (r : BufReq) : Nat :=
  let k := match r.cls with
    | .tileController => 0 | .vectorUnit => 1 | .fillCopy => 2 | .mesh => 3 | .management => 4
  let w := match r.kind with
    | .read _ _ => 0
    | .write _ _ | .part _ _ _ => 1
  2 * k + w

/-- Put a request behind those that are served before it or with it. -/
def insertReq (r : BufReq) : List BufReq → List BufReq
  | [] => [r]
  | x :: xs => if BufReq.rank x ≤ BufReq.rank r then x :: insertReq r xs else r :: x :: xs

/-- One request at a bank. -/
def Chip.bufServe (c : Chip) (t : TileIx) (slot : Nat) (r : BufReq) : Chip :=
  match r.kind with
  | .read last upset => c.bufRead t r.word r.cls last slot upset
  | .write data poison => c.bufWrite t r.word r.cls data poison slot
  | .part offset bytes upset => c.writePart t r.word offset.toNat bytes slot upset

/-- The requests that reach stage 1 of a bank within one access slot, served in class order, reads of a word before its
write (R116). -/
def Chip.bufServeAll (c : Chip) (t : TileIx) (slot : Nat) (rs : List BufReq) : Chip :=
  (rs.foldl (fun acc r => insertReq r acc) []).foldl (fun c r => c.bufServe t slot r) c

/-- A write in the bank's next free slot: for an access whose command gives no slot (log entry 25). -/
def Chip.bufWriteNext (c : Chip) (t : TileIx) (w : WordIx) (cls : BufClass) (data : BitVec 512) (poison : Bool) : Chip :=
  c.bufWrite t w cls data poison (c.bank t w).next

end Sys2Proof.Machine
end

