-- ==== Sys2Proof/Machine/PassOps.lean ====
section
/-! DEFINITION. Passes on the device (R203 to R211, R220, R221, R256 to R259): the compiled order in force, length classes,
tile and device pass boundaries and all that takes effect there. -/

namespace Sys2Proof.Machine

/-- A waiting beat holds its array in the compiled order (R24, R110). -/
def Chip.beatWaits (c : Chip) (t : TileIx) (a : ArrRef) : Bool :=
  (c.sector (sectorOf t)).waiting.any fun x => x.1 == t && x.2.1 == a

/-- The array carries out nothing and no beat waits for it (R72). -/
def Chip.arrFree (c : Chip) (t : TileIx) (a : ArrRef) : Bool := (c.arrOp t a).isNone && !c.beatWaits t a

/-- No array of the tile works. -/
def Chip.tileIdle (c : Chip) (t : TileIx) : Bool :=
  !(c.arr.busy.any fun p => p.1 / 26 == t.toNat && p.2.isSome)
    && !((c.sector (sectorOf t)).waiting.any fun x => x.1 == t)

/-- The tile stands between passes in both lanes (R208). -/
def Chip.tileAtBoundary (c : Chip) (t : TileIx) : Bool :=
  (c.tileRun t false).ops.isEmpty && (c.tileRun t true).ops.isEmpty && c.tileIdle t

/-- What takes effect at a tile's pass boundary (R64, R98, R99, R131, R208). -/
def Chip.tileBoundary (c : Chip) (t : TileIx) : Chip :=
  let c := (c.arrayBoundary t).settleBuddy
  ([0, 1, 2, 3, 4, 5, 6, 7] : List (BitVec 3)).foldl (fun c l => c.reinit (soIx t l)) c

/-- A tile still has operations of a pass before W (R258). -/
def Chip.hasOldWork (c : Chip) (t : TileIx) (w : Pass) : Bool :=
  c.rcp.passes.any fun p => passBefore p.pass w && !(c.passOps t p).isEmpty &&
    (let r := c.tileRun t p.isChunk
     match r.last with
     | some l => passAfter p.pass l
     | none => true)

/-- The tile has completed every operation of every pass before W: it signals the drain object by 1 (R258). -/
def Chip.signalDrain (c : Chip) (t : TileIx) : Chip :=
  match c.load.drainSo with
  | some so =>
    if t ∈ c.load.drainLeft && !c.hasOldWork t c.load.switchPass then
      (c.modLoad fun l => { l with drainLeft := l.drainLeft.filter (· != t) }).soSignal so 1
    else c
  | none => c

/-- Load the recipe's slot and window descriptors, in place of the former ones (R204). -/
def Chip.loadDescriptors (c : Chip) (d : Descriptors) : Chip :=
  let slots := d.slots.foldl (fun m s => sset (fun _ => {}) m (4 * s.tile.toNat + s.n.toNat) s.desc) []
  let inWin := d.windows.foldl (fun m w => match w.inbound with
    | some x => sset (fun _ => {}) m (4 * w.tile.toNat + w.w.toNat) x
    | none => m) []
  let outWin := d.windows.foldl (fun m w => match w.outbound with
    | some x => sset (fun _ => {}) m (4 * w.tile.toNat + w.w.toNat) x
    | none => m) []
  { c with buf := { c.buf with slots }, fab := { c.fab with inWin, outWin } }

/-- The drain object of a weight switch that is armed or draining (R204, R254). -/
def Chip.keptDrain (c : Chip) : Option SoIx := c.load.drainSo

/-- Step 3 of R204: SET the objects with activation values, put every other object OFF. The values stand as they are given
(R135): no SET rearms another object of its slot. -/
def Chip.loadObjects (c : Chip) (d : Descriptors) : Chip :=
  let kept := c.keptDrain
  let listed := fun (i : SoIx) => d.objects.any fun o => o.index == i
  let others := (c.so.obj.map fun p => BitVec.ofNat 13 p.1).filter fun i => !listed i && some i != kept
  let c := others.foldl (fun c i => c.soClear i) c
  let r := d.objects.foldl (fun (x : Chip × List SoTask) o =>
    if some o.index = kept then x
    else
      let r := x.1.soLoad o.index o.count o.limit o.tclass o.auto
      (r.1, x.2 ++ r.1.tasksOf o.index r.2)) (c, [])
  r.1.finishTasks r.2

/-- Timeout values of classes 0 and 3 to 7 (R150): 0 keeps the register's value. -/
def Chip.loadClasses (c : Chip) (d : Descriptors) : Chip :=
  d.tclass.foldl (fun c x =>
    if fixedClass x.1.toNat || x.2 = 0 then c
    else { c with so := { c.so with tclass := setAt c.so.tclass x.1.toNat (BitVec.ofNat 24 x.2) } }) c

/-- The device switches to another set of orders: tiles start them at their beginning. -/
def Chip.restartOrders (c : Chip) : Chip :=
  { c with
    arr := { c.arr with run := c.arr.run.map fun p => (p.1, { p.2 with ops := [], touched := [], onStandin := [] }) }
    fab := { c.fab with listPos := [], listPass := [], promptOut := [] } }

/-- Activation of the armed recipe at the boundary into the first pass at or after A (R60, R200, R204, R205). -/
def Chip.activate (c : Chip) (r : Recipe) (a : Pass) : Chip :=
  let former := (c.rcp.active.map (·.repoch)).getD 0
  let c := { c with rcp := { c.rcp with
    active := some r, activeFrom := some a, formerRepoch := former, staged := none, fallback := 0, fallbackNext := 0
    resident := [], streaming := [], wanted := [], streamLeft := [], draining := false, drained := false } }
  let c := { c with arr := { c.arr with
    numeric := [], monitors := [], routes := []
    sector := (List.range 16).foldl (fun m i => smod (fun _ => {}) m i fun x =>
      { x with share := BitVec.ofNat 10 (r.firing.shares.getD i 0) }) c.arr.sector } }
  let c := (c.restartOrders.loadDescriptors r.desc).loadClasses r.desc
  c.loadObjects r.desc

/-- The boundary into the first pass at or after W (R256, R258, R262): the new epoch is active, the old one drains. -/
def Chip.switchEpoch (c : Chip) (e : Epoch) (p : Plan) (w : Pass) : Chip :=
  let c := c.modLoad fun l => { l with
    old := l.active.map fun x => (x, l.activePlan, l.keyActive), active := some e, activePlan := some p, incoming := none
    keyActive := l.keyIncoming, keyIncoming := none, activeLive := true, goldenOk := p.goldenOk, switchPass := w
    rebuildPending := !e.buddyOff, rebuilt := false }
  let left := ((List.range 1024).map (BitVec.ofNat 10)).filter fun t => c.hasOldWork t w
  let c := c.modLoad fun l => { l with drainLeft := left }
  match c.load.drainSo with
  | some so =>
    let c := c.soWait so { guard := .epochDrain }
    if left.length < 1024 then c.soSignal so (1024 - left.length) else c
  | none => c

/-- Sprinkle runs of a former pack count for nothing. -/
def Spk.forget (k : Spk) (bound : Bool) : Spk :=
  { k with suspect := k.suspect.filter fun x => x.2.2 != bound, completed := k.completed.filter fun x => decide (x.2.1 < 0x100) != bound }

/-- Packs that wait take effect (R368, R371): a bound pack for an incoming epoch waits for its switch. -/
def Chip.activatePacks (c : Chip) : Chip :=
  let c : Chip := match c.spk.unboundNext with
    | some p =>
      let c := { c with spk := { c.spk.forget false with unbound := some p, unboundNext := none } }
      if p.entries.any fun e => e.kind == 2 && e.testPlane.isSome then
        ((List.range 1024).map (BitVec.ofNat 10)).foldl (fun (c : Chip) t => c.queueTest t) c
      else c
    | none => c
  match c.spk.boundNext with
  | some p =>
    if (c.load.incoming.map fun x => x.1.digest) == some p.epoch then c
    else { c with spk := { c.spk.forget true with bound := some p, boundNext := none } }
  | none => c

/-- A change of section at the boundary into pass `p` (R221, R331, R347): the buddy section's start is announced, and the
device stops mirroring. -/
def Chip.switchSection (c : Chip) (p : Pass) : Chip :=
  if c.rcp.fallback = c.rcp.fallbackNext then c
  else
    let c := ({ c with rcp := { c.rcp with fallback := c.rcp.fallbackNext } } : Chip).restartOrders
    if c.rcp.fallback = 1 then
      let c := { c with opt := { c.opt with tkFirst := p, tkState := 3, mirrored := [], mirrorRows := [] } }
      (c.modLoad fun l => { l with buddyOk := false }).tell ([4, 5] ++ c.exitPort.toList) (.takeover p)
    else c

/-- The armed return's boundary into R (R353): main order, no detour, no mirror, no splice. -/
def Chip.returnBoundary (c : Chip) (p : Pass) : Chip :=
  match c.opt.returnAt with
  | some r =>
    if passBefore p r then c
    else
      let c := { c with
        rcp := { c.rcp with fallbackNext := 0 }
        opt := { c.opt with
          returnAt := none, restoring := false, rejoin := if c.load.buddyOk then none else some (false, false)
          mirrorFrom := none, skip := none, tkState := 0, tkFirst := 0, lost := [] }
        serve := { c.serve with stopped := false } }
      allPorts.foldl (fun c q => c.modPort q fun x => { x with detour := false, mirrorOut := false, splice := false }) c
  | none => c

/-- Mirror records of a pass are still to be sent or acknowledged (R336, R339). -/
def Chip.awaitsRecords (c : Chip) (p : Pass) : Bool :=
  (c.opt.mirrored.any fun x => x.1 == some p) || c.opt.mirrorRows.any fun x => x.1 == p

/-- The device's boundary out of a pass: the acknowledge goes once every mirror record is acknowledged (R336). -/
def Chip.leavePass (c : Chip) (p : Pass) : Chip :=
  if c.awaitsRecords p then
    { c with opt := { c.opt with ackDue := c.opt.ackDue ++ [p] } }
  else c.sendCustodyAck p

/-- Tiles that have something to settle at a boundary. -/
def Chip.boundaryTiles (c : Chip) : List TileIx :=
  let keys := (c.so.obj.map fun x => x.1 / 8) ++ (c.arr.tile.map fun x => x.1)
  keys.eraseDups.map (BitVec.ofNat 10)

/-- A pass is known on this device. -/
def Chip.hasBegun (c : Chip) (p : Pass) : Bool := c.rcp.passes.any (·.pass == p)

/-- The armed recipe becomes active when the pass is at or after A (R200, R204). -/
def Chip.activateAt (c : Chip) (p : Pass) : Chip :=
  match c.rcp.staged with
  | some (r, .armed a) => if passBefore p a then c else c.activate r a
  | _ => c

/-- The armed weight switch takes effect when the pass is at or after W (R258). -/
def Chip.switchAt (c : Chip) (p : Pass) : Chip :=
  match c.load.incoming with
  | some (e, pl, .armed w) => if passBefore p w then c else c.switchEpoch e pl w
  | _ => c

/-- The device's boundary into a pass (R204, R208): what waits for it takes effect, then the pass begins. Passes out at
once are at most 128 (R207), so older ones are forgotten. -/
def Chip.deviceBoundary (c : Chip) (p : PassRec) : Chip :=
  let c : Chip := match c.rcp.passes.reverse.find? fun x => x.isChunk == p.isChunk with
    | some x => c.leavePass x.pass
    | none => c
  let c := ((((c.activateAt p.pass).switchAt p.pass).returnBoundary p.pass).switchSection p.pass).activatePacks
  let c := c.boundaryTiles.foldl (fun c t => if c.tileAtBoundary t then c.tileBoundary t else c) c
  { c with
    rcp := { c.rcp with
      begun := true, lastPass := if c.rcp.begun && passBefore p.pass c.rcp.lastPass then c.rcp.lastPass else p.pass
      passes := (c.rcp.passes ++ [p]).drop (c.rcp.passes.length - 127) }
    fab := { c.fab with
      marks := c.fab.marks.filter fun m => m.2.1 == p.pass || c.hasBegun m.2.1
      entered := c.fab.entered.filter fun m => m.1 == p.pass || c.hasBegun m.1
      exited := c.fab.exited.filter fun m => m.1 == p.pass || c.hasBegun m.1
      latStart := c.fab.latStart.filter fun m => m.1 == p.pass || c.hasBegun m.1
      promptOut := c.fab.promptOut.filter fun m => c.hasBegun m.2.2.1 }
    spk := { c.spk with begun := c.spk.begun + 1 } }

end Sys2Proof.Machine
end

