-- ==== Sys2Proof/Machine/ServeOps.lean ====
section
/-! DEFINITION. The serving engine's stores (R272 to R290, R300, R313): request entries, page tables, KV pages, prefix
nodes, the prompt store and the token ring, in far memory and in the chip. -/

namespace Sys2Proof.Machine

/-- Chip and far memory together. -/
abbrev Both := Chip × List Host.Cell

/-- Rewrite the serving state. -/
def Chip.modServe (c : Chip) (f : Serve → Serve) : Chip := { c with serve := f c.serve }

/-- This device's group. -/
def Chip.inGroup (c : Chip) (g : Nat) : Bool := c.sys.posValid && groupOf c.sys.position == g

/-- A device of the entry group, of the output group (R270). -/
def Chip.isEntry (c : Chip) : Bool := c.inGroup 0
def Chip.isOutput (c : Chip) : Bool := c.inGroup 63

/-- The scheduling authority (R270, R271): (0, 0, 0), or (0, 0, 1) when that device is absent. -/
def Chip.isAuthority (c : Chip) : Bool :=
  c.isEntry && (c.posZ == 0 || (c.posZ == 1 && decide ((0 : Pos) ∈ c.opt.lost)))

/-- The largest LIMIT of the length classes. -/
def Recipe.maxLimit (r : Recipe) : Nat := r.lengths.foldl (fun n l => max n l.limit) 0

/-- A variant exists in the recipe (R291): a table for it in every layer; without EXPERTS only variant 0 does. -/
def Recipe.hasVariant (r : Recipe) (v : Nat) : Bool :=
  match r.experts with
  | none => v == 0
  | some ts =>
    let layers := (ts.map (·.layer)).eraseDups
    decide (v < 64) && !layers.isEmpty && layers.all fun l => ts.any fun x => x.layer == l && x.variant.toNat == v

/-- The entry's 128 bytes (R273). -/
def Entry.bytes (e : Entry) : List Byte :=
  [e.state, e.prio, e.variant, e.spidx, e.flags, e.draftMax, e.draftCur, e.rejectRun] ++ leBytes 4 e.len.toNat
    ++ leBytes 4 e.promptLen.toNat ++ leBytes 4 e.maxLen.toNat ++ leBytes 4 e.shared.toNat ++ leBytes 8 e.deadline.toNat
    ++ leBytes 8 e.seed.toNat ++ leBytes 4 e.prefixRef.toNat ++ [e.wepoch, e.repoch, e.status, e.offCount]
    ++ leBytes 4 e.tokensOut.toNat ++ leBytes 4 e.cancelPass.toNat ++ leBytes 4 e.promptUnit.toNat
    ++ List.replicate 68 0

/-- An entry from its bytes (R273). -/
def entryOf (bs : List Byte) : Entry :=
  let b := fun o => BitVec.ofNat 8 (leAt bs o 1)
  let w := fun o => BitVec.ofNat 32 (leAt bs o 4)
  let q := fun o => BitVec.ofNat 64 (leAt bs o 8)
  { state := b 0, prio := b 1, variant := b 2, spidx := b 3, flags := b 4, draftMax := b 5, draftCur := b 6
    rejectRun := b 7, len := w 8, promptLen := w 12, maxLen := w 16, shared := w 20, deadline := q 24, seed := q 32
    prefixRef := w 40, wepoch := b 44, repoch := b 45, status := b 46, offCount := b 47, tokensOut := w 48
    cancelPass := w 52, promptUnit := w 56 }

/-- State codes of R274. -/
def stFree : Byte := 0
def stQueued : Byte := 1
def stReady : Byte := 2
def stPrompt : Byte := 3
def stGenerating : Byte := 4
def stCancelling : Byte := 5
def stDone : Byte := 6
def stCancelled : Byte := 7
def stFailed : Byte := 8

/-- FLAGS bits of R273. -/
def Entry.flag (e : Entry) (i : Nat) : Bool := e.flags.getLsbD i
def Entry.setFlag (e : Entry) (i : Nat) (b : Bool) : Entry :=
  { e with flags := if b then e.flags ||| (1#8 <<< i) else e.flags &&& ~~~(1#8 <<< i) }

/-- A hot entry. -/
def Chip.hotEntry (c : Chip) (req : BitVec 12) : Option Entry := sget (fun _ => none) c.serve.hot req.toNat

/-- Place or remove a hot entry. -/
def Chip.setHot (c : Chip) (req : BitVec 12) (e : Option Entry) : Chip :=
  c.modServe fun s => { s with hot := sset (fun _ => none) s.hot req.toNat e }

/-- Read an entry: the hot copy, else the request table's (R272). -/
def getEntry (x : Both) (req : BitVec 12) : Entry :=
  match x.1.hotEntry req with
  | some e => e
  | none => match x.1.serve.area with
    | some a => entryOf (farRead x.2 (a.table + 128 * req.toNat) 128)
    | none => {}

/-- Write an entry where it stands; a cold one in far memory. -/
def putEntry (x : Both) (req : BitVec 12) (e : Entry) : Both :=
  if (x.1.hotEntry req).isSome then (x.1.setHot req (some e), x.2)
  else match x.1.serve.area with
    | some a => (x.1, farWrite x.2 (a.table + 128 * req.toNat) e.bytes)
    | none => x

/-- Make an entry hot, with its HOT flag. -/
def makeHot (x : Both) (req : BitVec 12) (e : Entry) : Both := (x.1.setHot req (some (e.setFlag 3 true)), x.2)

/-- Make an entry cold: its copy goes to the table. -/
def makeCold (x : Both) (req : BitVec 12) (e : Entry) : Both :=
  putEntry (x.1.setHot req none, x.2) req (e.setFlag 3 false)

/-- Address of a page descriptor (R272, R282). -/
def Area.pageAddr (a : Area) (req : BitVec 12) (page : Nat) : Nat := a.pages + (req.toNat * 8192 + page) * 4

/-- Read a page descriptor. -/
def getPage (x : Both) (req : BitVec 12) (page : Nat) : Nat :=
  match x.1.serve.area with
  | some a => leNat (farRead x.2 (a.pageAddr req page) 4)
  | none => 0

/-- Write a page descriptor. -/
def putPage (x : Both) (req : BitVec 12) (page d : Nat) : Both :=
  match x.1.serve.area with
  | some a => (x.1, farWrite x.2 (a.pageAddr req page) (leBytes 4 d))
  | none => x

/-- Size of a KV frame (R272, R282). -/
def frameBytes : Nat := 73728

/-- A descriptor names a frame (R282). -/
def isFrame (d : Nat) : Bool := bitAt d 31
def frameNo (d : Nat) : Nat := field d 0 31
def pairNo (d : Nat) : Nat := field d 0 12

/-- Lowest index below `n` that is not in use. -/
def lowestFree (used : List Nat) (n : Nat) : Option Nat := (List.range n).find? fun i => !used.contains i

/-- The logical S-array that a KV array of the recipe is in the active epoch (R235). -/
def Chip.kvArr (c : Chip) (t : TileIx) (n : BitVec 3) : BitVec 3 := smapOf ((c.load.activePlan.map (·.smap)).getD []) t n

/-- The same as a physical S-array. -/
def Chip.kvPhys (c : Chip) (t : TileIx) (n : BitVec 3) : Fin 9 := Fin.ofNat 9 (c.kvArr t n).toNat

/-- The 576 rows of a page: 288 of K, then 288 of V (R282). -/
def pageRows (x : Both) (d : Nat) : List (BitVec 1024) :=
  if isFrame d then
    match x.1.serve.area with
    | some a => (List.range 576).map fun i => rowOf (farRead x.2 (a.frames + frameNo d * frameBytes + 128 * i) 128)
    | none => []
  else match x.1.servingRecipe.bind fun r => r.placement.pairs[pairNo d]? with
    | some p => (List.range 288).map (x.1.sRow p.kTile (x.1.kvPhys p.kTile p.kArr))
        ++ (List.range 288).map (x.1.sRow p.vTile (x.1.kvPhys p.vTile p.vArr))
    | none => []

/-- Write the rows of a page. -/
def putPageRows (x : Both) (d : Nat) (rows : List (BitVec 1024)) : Both :=
  if isFrame d then
    match x.1.serve.area with
    | some a =>
      let at' := a.frames + frameNo d * frameBytes
      (x.1, ((List.range rows.length).zip rows).foldl (fun m r => farWrite m (at' + 128 * r.1) (leBytes 128 r.2.toNat)) x.2)
    | none => x
  else match x.1.servingRecipe.bind fun r => r.placement.pairs[pairNo d]? with
    | some p =>
      (((List.range rows.length).zip rows).foldl (fun c r =>
        if r.1 < 288 then c.putSRow p.kTile (c.kvPhys p.kTile p.kArr) r.1 r.2
        else c.putSRow p.vTile (c.kvPhys p.vTile p.vArr) (r.1 - 288) r.2) x.1, x.2)
    | none => x

/-- The buffer word of a root-region node (R286). -/
def rootTile (n : Nat) : TileIx := BitVec.ofNat 10 (16 + n / 128)
def rootWord (n : Nat) : WordIx := BitVec.ofNat 11 (1920 + n % 128)

/-- A prefix node's 64 bytes, from the root region or far memory (R286). -/
def nodeBytes (x : Both) (n : Nat) : List Byte :=
  if n < 2048 then x.1.bufBytes (rootTile n) (rootWord n)
  else match x.1.serve.area with
    | some a => farRead x.2 (a.nodes + 64 * (n - 2048)) 64
    | none => List.replicate 64 0

/-- The management complex reads a root-region node through its bank (R114, R119), in the bank's next free slot (log entry
25); a node in far memory takes no bank. -/
def readNode (x : Both) (n : Nat) : Both :=
  if n < 2048 then ((x.1.readWord (rootTile n) (rootWord n) (x.1.bank (rootTile n) (rootWord n)).next 0 none).1, x.2) else x

/-- Write a prefix node. -/
def putNode (x : Both) (n : Nat) (bs : List Byte) : Both :=
  if n < 2048 then
    (x.1.writeWord (rootTile n) (rootWord n) (wordOfBytes bs) false (x.1.bank (rootTile n) (rootWord n)).next, x.2)
  else match x.1.serve.area with
    | some a => (x.1, farWrite x.2 (a.nodes + 64 * (n - 2048)) bs)
    | none => x

/-- Fields of a node (R286). -/
def nodeKey (bs : List Byte) : List Byte := bytesAt bs 0 16
def nodeParent (bs : List Byte) : Nat := leAt bs 16 4
def nodeRefs (bs : List Byte) : Nat := leAt bs 20 4
def nodePage (bs : List Byte) : Nat := leAt bs 24 4
def nodeDepth (bs : List Byte) : Nat := leAt bs 28 2
def nodeValid (bs : List Byte) : Bool := bitAt (leAt bs 33 1) 0
def nodePinned (bs : List Byte) : Bool := bitAt (leAt bs 33 1) 1
def nodeBlock (bs : List Byte) : Nat := leAt bs 40 4

/-- No node. -/
def noNode : Nat := 0xFFFF_FFFF

/-- Number of node indices: the root region and the records in far memory. -/
def Chip.nodeLimit (c : Chip) : Nat := 2048 + (c.serve.area.map (·.nodeCount)).getD 0

/-- Address of a token block: beside the prefix-node region, by block index (R272). -/
def Area.blockAddr (a : Area) (b : Nat) : Nat := a.nodes + (a.nodeCount * 64 + mib - 1) / mib * mib + 512 * b

/-- Change a node's REFS. -/
def addRefs (x : Both) (n : Nat) (d : Int) : Both :=
  let bs := nodeBytes x n
  putNode (readNode x n) n (setBytes bs 20 (leBytes 4 (Int.ofNat (nodeRefs bs) + d).toNat))

/-- The chain above a node, deepest first, with fuel for its depth (R286). -/
def chainOf (x : Both) : Nat → Nat → List Nat
  | 0, _ => []
  | f + 1, n =>
    if n ≥ x.1.nodeLimit then []
    else
      let bs := nodeBytes x n
      if nodeValid bs then n :: (if nodeDepth bs = 0 then [] else chainOf x f (nodeParent bs)) else []

/-- The key of a page's node (R285). -/
def pageKey (secret parentKey : List Byte) (variant wepoch repoch : Byte) (tokens : List (BitVec 32)) : List Byte :=
  (sha384 (secret ++ parentKey ++ [variant, wepoch, repoch] ++ tokens.flatMap fun t => leBytes 4 t.toNat)).take 16

/-- A VALID node with a key whose token block holds the page's tokens (R287). -/
def findNode (x : Both) (key : List Byte) (tokens : List (BitVec 32)) : Option Nat :=
  match x.1.serve.area with
  | none => none
  | some a =>
    (List.range x.1.nodeLimit).find? fun n =>
      let bs := nodeBytes x n
      nodeValid bs && nodeKey bs == key && farRead x.2 (a.blockAddr (nodeBlock bs)) 512 == tokens.flatMap fun t => leBytes 4 t.toNat

/-- Walk the prefix tree over a token sequence from page `p` (R287): pages matched and deepest node. -/
def walk (x : Both) (secret : List Byte) (variant wepoch repoch : Byte) :
    Nat → Nat → Nat → List Byte → List (BitVec 32) → Nat × Nat
  | 0, p, last, _, _ => (p, last)
  | f + 1, p, last, pk, ts =>
    if ts.length < 128 then (p, last)
    else
      let page := ts.take 128
      let key := pageKey secret pk variant wepoch repoch page
      match findNode x key page with
      | some n => walk x secret variant wepoch repoch f (p + 1) n key (ts.drop 128)
      | none => (p, last)

/-- The active epochs (R287). -/
def Chip.activeWepoch (c : Chip) : Byte := (c.load.active.map (·.wepoch)).getD 0
def Chip.activeRepoch (c : Chip) : Byte := (c.servingRecipe.map (·.repoch)).getD 0

/-- PREFIX_REF and SHARED pass R287: the named node is VALID, deep enough, and its chain carries the variant and the
active epochs. -/
def prefixOk (x : Both) (ref shared variant : Nat) : Bool :=
  if ref = noNode then shared == 0
  else
    let chain := chainOf x 8192 ref
    match chain with
    | [] => false
    | n :: _ =>
      let bs := nodeBytes x n
      decide ((shared + 127) / 128 - 1 ≤ nodeDepth bs) && chain.length == nodeDepth bs + 1 && chain.all fun k =>
        let b := nodeBytes x k
        leAt b 30 1 == variant && leAt b 31 1 == x.1.activeWepoch.toNat && leAt b 32 1 == x.1.activeRepoch.toNat

/-- Nodes of the chain whose pages an entry shares: depth below ⌈SHARED / 128⌉. -/
def sharedNodes (x : Both) (e : Entry) : List Nat :=
  if e.prefixRef.toNat = noNode || e.shared = 0 then []
  else (chainOf x 8192 e.prefixRef.toNat).filter fun n => decide (nodeDepth (nodeBytes x n) < (e.shared.toNat + 127) / 128)

/-- Append a record to the token ring (R300, R311). -/
def appendRecord (x : Both) (req : BitVec 12) (reason rflags : Nat) (token pos : Nat) (pass : Pass) : Both :=
  match x.1.serve.area with
  | none => x
  | some a =>
    if a.ringSize = 0 then x
    else
      let bytes := leBytes 2 req.toNat ++ leBytes 1 reason ++ leBytes 1 rflags ++ leBytes 4 token ++ leBytes 4 pos
        ++ leBytes 4 pass.toNat
      (x.1.modServe fun s => { s with head := s.head + 1 }, farWrite x.2 (a.ring + 16 * (x.1.serve.head.toNat % a.ringSize)) bytes)

/-- The ring has room for 9 records (R302, R311). -/
def Chip.ringRoom (c : Chip) : Bool :=
  match c.serve.area with
  | none => true
  | some a => a.ringSize == 0 || decide ((c.serve.head - c.serve.tail + 9).toNat ≤ a.ringSize)

/-- No token. -/
def noToken : Nat := 0xFFFF_FFFF

/-- RFLAGS of a record (R300). -/
def recFlags (final spec changed missed : Bool) : Nat := bit final + 2 * bit spec + 4 * bit changed + 8 * bit missed

/-- An entry ends with a final record that carries no token (R301, R306, R308). -/
def endEntry (x : Both) (req : BitVec 12) (state : Byte) (reason : Nat) (pass : Pass) : Both :=
  let e := getEntry x req
  let x := putEntry x req { e with state, status := BitVec.ofNat 8 reason }
  if x.1.isEntry then
    appendRecord x req reason (recFlags true false (e.wepoch != x.1.activeWepoch || e.repoch != x.1.activeRepoch) (e.flag 4))
      noToken e.len.toNat pass
  else x

/-- A page is lost (R284): each entry whose page it is, or that references a node whose page it is, fails with STATUS 6, KV_LOST raises, the authority is told, and
a node that holds the page is invalidated. -/
def pageLost (x : Both) (d : Nat) : Both :=
  let nodes := (List.range x.1.nodeLimit).filter fun n =>
    let bs := nodeBytes x n
    nodeValid bs && nodePage bs == d
  let reqs := (((x.1.serve.owned.filter fun o => o.2.2 == d).map (·.1))
    ++ ((x.1.serve.refs.filter fun f => nodes.contains f.2).map (·.1))).eraseDups
  let x := nodes.foldl (fun x n =>
    let bs := nodeBytes x n
    putNode (readNode x n) n (setBytes bs 33 (leBytes 1 (leAt bs 33 1 / 2 * 2)))) x
  reqs.foldl (fun x req =>
    let e := getEntry x req
    if inRange 1 5 e.state.toNat then
      let x := putEntry x req { e with state := stFailed, status := 6 }
      ((x.1.tally Src.kvLost (req.setWidth 32)).tell [] (.kvFailure req), x.2)
    else x) x

/-- The pool pair a logical S-array belongs to: the recipe's names stand for logical S-arrays by the epoch's map (R235,
R282). -/
def Chip.pairOf (c : Chip) (t : TileIx) (a : BitVec 3) : Option Nat :=
  c.servingRecipe.bind fun r => (r.placement.pairs.findIdx? fun p =>
    (p.kTile == t && c.kvArr t p.kArr == a) || (p.vTile == t && c.kvArr t p.vArr == a))

/-- The stand-in is to hold an S-array of a KV page (R100, R284): its rows come from the buddy's mirror; while buddy
protection is suspended the page is lost, and nothing is left to load. -/
def restorePage (x : Both) (t : TileIx) (a : BitVec 3) (pair : Nat) : Both :=
  if x.1.load.buddyOk then (x.1.tell [x.1.buddyPort] (.mirrorRead pair t a), x.2)
  else
    let x := pageLost x pair
    (x.1.standinLoaded t, x.2)

/-- What the load engine does about the stand-in targets and plane rows asked of it (R96, R100, R249, R264, R284): a KV page
comes from the buddy's mirror; the rest is the load engine's. -/
def settleRequests (x : Both) : Both :=
  let kv := x.1.load.requests.filterMap fun q => match q with
    | .standin t (.s a) => (x.1.pairOf t a).map fun p => (q, t, a, p)
    | _ => none
  let x := kv.foldl (fun x q =>
    restorePage (x.1.modLoad fun l => { l with requests := l.requests.filter (· != q.1) }, x.2) q.2.1 q.2.2.1 q.2.2.2) x
  let c := x.1.resumeProgress x.2
  (c.serveRequests x.2, x.2)

/-- An event of a device that is powered and out of reset. -/
def State.onDevice (s : State) (f : Chip → Chip) : Result := s.onChip fun c => if c.on then f c else c

/-- The same over chip and far memory. -/
def State.onDeviceBoth (s : State) (f : Both → Both) : Result :=
  s.onBoth fun c m => if c.on then f (c, m) else (c, m)

end Sys2Proof.Machine
end

