-- ==== Sys2Proof/Machine/GovernorOps.lean ====
section
/-! DEFINITION. Where an operation on an array runs (R64, R77, R83, R95, R97, R235), and the firing governor with its proofs
(R22 to R27, R403). -/

namespace Sys2Proof.Machine

/-- A physical S-array by index. -/
def sArr (a : BitVec 3) : ArrRef := .s (Fin.ofNat 9 a.toNat)

/-- The stand-in array (R63). -/
def standinArr : ArrRef := .s 8

/-- A row of an array as its selected plane, or the S-array, holds it. -/
def Chip.arrRow (c : Chip) (t : TileIx) (a : ArrRef) (row : Nat) : BitVec 1024 :=
  match a with
  | .n i => c.cellRow t i (c.selectedPlane t i) row
  | .s i => c.sRow t i row

/-- A pass's target in the names of stand-in orders: planes relative to the active bank, S-arrays after the pass's map
(R95, R230, R235). -/
def Chip.orderName (c : Chip) (w : Byte) (t : TileIx) (tg : Target) : Target :=
  let eb := c.epochBank w
  match tg with
  | .n a p => .n a (bankPlane c.bankBit (bankPlane eb.1 p))
  | .s a => .s (smapOf eb.2 t a)

/-- The physical array and plane of a target in the names of stand-in orders. -/
def Chip.physOf (c : Chip) (t : TileIx) (tg : Target) : ArrRef × BitVec 2 :=
  match tg with
  | .n a p => (.n ((c.tileMap t).phys a), bankPlane c.bankBit p)
  | .s a => (sArr a, 0)

/-- Where an operation of a pass on a target runs (R95, R97); `none`: it waits. The flag says that it is the stand-in. -/
def Chip.runsOn (c : Chip) (t : TileIx) (run : TileRun) (tg : Target) : Option (ArrRef × Bool) :=
  let served := c.servedByStandin t tg
  if tg ∈ run.onStandin then (if served then some (standinArr, true) else none)
  else if tg ∈ run.touched then some ((c.physOf t tg).1, false)
  else if tg ∈ (c.tileArr t).held then none
  else if served then some (standinArr, true)
  else some ((c.physOf t tg).1, false)

/-- Proof settings in force in a sector: beats between proofs and length in units of 8u (R26, R27, R403). -/
def Chip.proofOf (c : Chip) (s : Nat) : Option (Nat × Nat) :=
  let th := (max 1 c.hk.act.proofK.toNat, max 1 c.hk.act.proofLen.toNat)
  let pw := (max 1 c.sys.pwrProofK.toNat, max 1 c.sys.pwrProofLen.toNat)
  match (c.sector s).throttle, c.sys.pwrActive with
  | true, true => some (min th.1 pw.1, max th.2 pw.2)
  | true, false => some th
  | false, true => some pw
  | false, false => none

/-- A proof holds the sector's beats back (R403). -/
def Chip.proofHolds (c : Chip) (s : Nat) : Bool :=
  (c.sector s).proof || (match c.proofOf s with
    | some (k, _) => decide (k ≤ (c.sector s).counted.toNat)
    | none => false)

/-- The governor has a place (R24). -/
def Chip.hasPlace (c : Chip) (s : Nat) : Bool := decide ((c.sector s).inBeat.toNat < (c.sector s).share.toNat)

/-- A beat is admitted: its block is latched, its array inside a beat, and the governor counts it (R24, R73, R403). -/
def Chip.admitBeat (c : Chip) (t : TileIx) (a : ArrRef) (b : Beat) : Chip :=
  let s := sectorOf t
  let counts := (c.proofOf s).isSome
  (c.modSector s fun x => { x with
    inBeat := x.inBeat + 1, counted := if counts then satAdd x.counted 1 else 0 }).setArrOp t a (some (.beat b))

/-- The plane a target needs selected (R77): the array that must select it first, if any. -/
def Chip.selectFirst (c : Chip) (t : TileIx) (tg : Target) : Option (Fin 17 × BitVec 2) :=
  match c.physOf t tg with
  | (.n i, p) => if c.selectedPlane t i = p then none else some (i, p)
  | (.s _, _) => none

/-- A plane whose write is in progress or failed is never read (R83). -/
def Chip.unreadable (c : Chip) (t : TileIx) (tg : Target) (standin : Bool) : Bool :=
  match c.physOf t tg with
  | (.n i, p) => !standin && (c.planeRec t i p).kind == 0xFE
  | (.s _, _) => false

/-- The first waiting beats of a sector that the governor can admit now, with fuel for their number. Of several that wait it
takes them in the order in which they reached it (DESIGN CHOICE, log entry 27: R24 names no order). -/
def Chip.admitWaiting (s : Nat) : Nat → Chip → Chip
  | 0, c => c
  | f + 1, c =>
    match (c.sector s).waiting with
    | [] => c
    | (t, a, b, _) :: rest =>
      if c.proofHolds s || !c.hasPlace s then c
      else Chip.admitWaiting s f ((c.modSector s fun x => { x with waiting := rest }).admitBeat t a b)

/-- A beat that waits for a place is tallied and counted, once (R24, R25); a wait for a proof is not (R403). -/
def Chip.tallyWaits (c : Chip) (s : Nat) : Chip :=
  if c.proofHolds s || c.hasPlace s then c
  else
    let new := (c.sector s).waiting.filter fun x => !x.2.2.2
    let c := c.modSector s fun x => { x with waiting := x.waiting.map fun w => (w.1, w.2.1, w.2.2.1, true) }
    new.foldl (fun c w =>
      ({ c with sys := { c.sys with fireWaits := satAdd c.sys.fireWaits 1 } } : Chip).tally Src.fireGovernor
        (tileDetail w.1 (targetCode w.2.2.1.name) w.2.2.1.layer.toNat)) c

/-- The governor of a sector acts: it admits what it can, and what is left waits (R24). -/
def Chip.runGovernor (c : Chip) (s : Nat) : Chip := (Chip.admitWaiting s (c.sector s).waiting.length c).tallyWaits s

/-- A beat reaches the governor (R24). -/
def Chip.offerBeat (c : Chip) (t : TileIx) (a : ArrRef) (b : Beat) : Chip :=
  (c.modSector (sectorOf t) fun x => { x with waiting := x.waiting ++ [(t, a, b, false)] }).runGovernor (sectorOf t)

/-- The array is free and the firing place released; waiting beats are offered the place (R24, R73). -/
def Chip.endBeat (c : Chip) (t : TileIx) (a : ArrRef) : Chip :=
  ((c.modSector (sectorOf t) fun x => { x with inBeat := x.inBeat - 1 }).setArrOp t a none).runGovernor (sectorOf t)

end Sys2Proof.Machine
end

