-- ==== Sys2Proof/Machine/SprinkleOps.lean ====
section
/-! DEFINITION. Sprinkles in a tile (R364 to R368): entries and their targets, coverage, outcomes, and the start of an entry's
beats. -/

namespace Sys2Proof.Machine

/-- The formats in the code order of R370. -/
def fmtOf (op : Nat) : WFmt := ([.w1, .wt, .w2, .w2s, .w4, .w8, .kv8] : List WFmt).getD op .w1

/-- A target's number in the coverage counts: the code of R108 for arrays, then spare, stand-in, vector unit and loops. -/
def PackEntry.targetNo (e : PackEntry) : Nat :=
  if e.kind = 1 then (if e.target.toNat < 128 then e.target.toNat * 4 + e.plane.toNat else 0x80 + e.target.toNat % 8)
  else if e.kind = 2 then 0x100 else if e.kind = 3 then 0x101 else if e.kind = 4 then 0x102 else 0x200 + e.target.toNat

/-- The detail by which an event names a target (R521): logical arrays, the physical spare and stand-in, no unit for the
vector unit, the loop. -/
def Chip.sprinkleDetail (c : Chip) (t : TileIx) (n : Nat) : BitVec 32 :=
  if n < 0x100 then tileDetail t n 0
  else if n = 0x100 then (match (c.tileMap t).spareIx with
    | some sp => physDetail t sp 3 0
    | none => tileDetail t (unitPhysN 31) 3)
  else if n = 0x101 then tileDetail t (unitPhysS 8) 0
  else if n = 0x102 then tileDetail t 0 0
  else tileDetail t (n - 0x200) 0

/-- The source of an entry's kind (R366). -/
def sprinkleSource (kind : Nat) : BitVec 8 :=
  match kind with
  | 1 => Src.sprinkleArray
  | 2 => Src.sprinkleSpare
  | 3 => Src.sprinkleStandin
  | 4 => Src.sprinkleVector
  | _ => Src.sprinkleMesh

/-- An ARRAY entry's target in the names of stand-in orders. -/
def PackEntry.arrayTarget (e : PackEntry) : Target :=
  if e.target.toNat < 128 then .n (e.target.setWidth 4) e.plane else .s (e.target.setWidth 3)

/-- An entry completes: when every entry of both packs that names the target has, its coverage count restarts (R367). -/
def Chip.coverDone (c : Chip) (t : TileIx) (n i : Nat) : Chip :=
  let mine := fun (p : Option Pack) => ((p.map (·.entries)).getD []).zipIdx.filterMap fun x =>
    if x.1.targetNo = n && (x.1.tile.isNone || x.1.tile == some t) then some x.2 else none
  let all := if n < 0x100 then mine c.spk.bound else mine c.spk.unbound
  let done := (t, n, i) :: c.spk.completed.filter (· != (t, n, i))
  if all.all fun j => done.contains (t, n, j) then
    { c with spk := { c.spk with
        completed := done.filter fun x => !(x.1 == t && x.2.1 == n)
        cover := (t, n, c.spk.begun) :: c.spk.cover.filter fun x => !(x.1 == t && x.2.1 == n) } }
  else { c with spk := { c.spk with completed := done } }

/-- An entry's outcome (R366): a first mismatch runs again, a second raises, a repeat that matches is a transient. -/
def Chip.sprinkleOutcome (c : Chip) (t : TileIx) (i : Nat) (bound : Bool) (e : PackEntry) (good : Bool) : Chip :=
  let key := (t, i, bound)
  let again := c.spk.suspect.contains key
  let detail := c.sprinkleDetail t e.targetNo
  let drop := fun (c : Chip) => { c with spk := { c.spk with suspect := c.spk.suspect.filter (· != key) } }
  let c := c.coverDone t e.targetNo i
  if good then (if again then (drop c).tally Src.sprinkleTransient detail else c)
  else if again then
    (drop c).raise (sprinkleSource e.kind) { detail, target := if e.kind = 1 then some (t, e.arrayTarget) else none }
  else { c with spk := { c.spk with suspect := c.spk.suspect ++ [key] } }

/-- An entry of an active pack that names a tile. -/
def Chip.packEntryOf (c : Chip) (t : TileIx) (i : Nat) (bound : Bool) : Option PackEntry :=
  match (if bound then c.spk.bound else c.spk.unbound).bind fun p => p.entries[i]? with
  | some e => if e.tile.isNone || e.tile == some t then some e else none
  | none => none

/-- The array and plane an entry's beats run on, when it can run now: its array idle, its test content in place, its
epoch active (R97, R364, R368, R371). -/
def Chip.sprinkleArray (c : Chip) (t : TileIx) (e : PackEntry) : Option (ArrRef × Option (Fin 17 × BitVec 2)) :=
  let a := c.tileArr t
  let at' : Option (ArrRef × Option (Fin 17 × BitVec 2)) :=
    match e.kind with
    | 1 =>
      let tg := e.arrayTarget
      if (c.load.active.map fun x => x.digest) != c.spk.bound.map (·.epoch) || tg ∈ a.held then none
      else if c.servedByStandin t tg then some (standinArr, none)
      else match c.physOf t tg with
        | (.n i, p) => if c.unreadable t tg false then none else some (.n i, some (i, p))
        | (.s i, _) => some (.s i, none)
    | 2 => if a.spareTest then (c.tileMap t).spareIx.map fun sp => (.n sp, some (sp, 3)) else none
    | 3 => if a.standinTest && a.standin.state == .free then some (standinArr, none) else none
    | _ => none
  match at' with
  | some (r, p) => if c.arrFree t r then some (r, p) else none
  | none => none

/-- Start an entry of kind ARRAY, SPARE or STANDIN in a sprinkle slot (R364, R365): its first beat goes to the governor, its
plane selected before it. It needs its array idle; in another slot it runs later. -/
def Chip.startSprinkle (c : Chip) (t : TileIx) (i : Nat) (bound : Bool) (e : PackEntry) : Chip :=
  match c.sprinkleArray t e, e.blocks with
  | some (r, sel), block :: left =>
    let name := if e.kind = 1 then e.arrayTarget else if e.kind = 3 then .s 0 else .n 0 3
    let b : Beat := {
      name, target := name, fmt := fmtOf e.op, group := e.group, plane := (sel.map (·.2)).getD 0, block, scale := 0
      poison := false, acc := 0, pass := 0, layer := 0, sprinkle := some { entry := i, bound, left } }
    match sel with
    | some (n, p) => if c.selectedPlane t n = p then c.offerBeat t r b else c.setArrOp t (.n n) (some (.select p (some b)))
    | none => c.offerBeat t r b
  | _, _ => c

end Sys2Proof.Machine
end

