-- ==== Sys2Proof/Machine/BeatOps.lean ====
section
/-! DEFINITION. What a beat's completion does (R35, R50 to R55, R73 to R80, R363 to R365): accumulators, monitors, votes, and
the digest of a sprinkle. -/

namespace Sys2Proof.Machine

/-- An accumulator. -/
def Chip.accOf (c : Chip) (t : TileIx) (i : Nat) : Acc := sget (fun _ => {}) c.vu.acc (2048 * t.toNat + i % 2048)

/-- Store an accumulator. -/
def Chip.setAcc (c : Chip) (t : TileIx) (i : Nat) (x : Acc) : Chip :=
  { c with vu := { c.vu with acc := sset (fun _ => {}) c.vu.acc (2048 * t.toNat + i % 2048) x } }

/-- Add into an accumulator modulo 2⁸⁰; it starts at 0 for each pass (R53). -/
def Chip.addAcc (c : Chip) (t : TileIx) (i : Nat) (p : Pass) (v : BitVec 80) (poison : Bool) : Chip :=
  let x := c.accOf t i
  let x := if x.pass = p then x else { value := 0, pass := p, poison := false }
  c.setAcc t i { x with value := x.value + v, poison := x.poison || poison }

/-- The weight scale byte of weight j in row group g (R39). -/
def Chip.weightScale (c : Chip) (t : TileIx) (a : ArrRef) (g j : Nat) : Byte :=
  (c.arrRow t a (256 + 8 * g + j / 128)).extractLsb' (8 * (j % 128)) 8

/-- The 64 driven rows of a row group, with the cells that read wrong (row in the group, column). -/
def Chip.groupRows (c : Chip) (t : TileIx) (a : ArrRef) (g : Nat) (wrong : List (Nat × Nat)) : List (BitVec 1024) :=
  (List.range 64).map fun r =>
    wrong.foldl (fun (x : BitVec 1024) w => if w.1 = r && decide (w.2 < 1024) then x ^^^ (1#1024 <<< w.2) else x)
      (c.arrRow t a (64 * g + r))

/-- The partials of a beat: value, minorities and splits of each weight of the row (R74, R79). -/
def beatPartials (f : WFmt) (rows : List (BitVec 1024)) (q : List Int) : List (Int × Nat × Nat) :=
  let total := q.foldl (· + ·) 0
  (List.range (WFmt.perRow f)).map fun j => beatPartial f (fun k => columnValue rows q (WFmt.cols f * j + k)) total

/-- An envelope is enabled: none of its intervals is empty (R222). -/
def Envelope.enabled (e : Envelope) : Bool :=
  let le := fun (a b : BitVec 32) => match dyOf32 a, dyOf32 b with
    | some x, some y => x.le y
    | _, _ => false
  le e.minLo e.minHi && le e.maxLo e.maxHi && le e.meanLo e.meanHi

/-- The monitor of a target and layer slot takes a beat's terms (R363). -/
def Chip.monitor (c : Chip) (t : TileIx) (tg : Target) (layer : BitVec 14) (p : Pass) (terms : List Int) : Chip :=
  let watched := c.rcp.active.any fun r => r.integrity.envelopes.any fun e =>
    e.tile == t && e.target == tg && e.layer == layer && e.enabled
  if !watched then c
  else
    let fits := fun (m : Monitor) => m.tile == t && m.target == tg && m.layer == layer
    let add := fun (m : Monitor) => { m with
      min := terms.foldl min m.min, max := terms.foldl max m.max, sum := terms.foldl (· + ·) m.sum
      count := m.count + terms.length, passes := if m.lastPass = p then m.passes else m.passes + 1, lastPass := p }
    let ms := if c.arr.monitors.any fits then c.arr.monitors.map fun m => if fits m then add m else m
      else c.arr.monitors ++ [add { tile := t, target := tg, layer, min := terms.headD 0, max := terms.headD 0, sum := 0
                                    count := 0, passes := 1, lastPass := p }]
    { c with arr := { c.arr with monitors := ms } }

/-- The icing votes' findings of a beat on a plane (R79): each minority is tallied and asks for an early scrub, each split
raises and queues the plane for refresh. -/
def Chip.noteVotes (c : Chip) (t : TileIx) (a : ArrRef) (plane : BitVec 2) (target : Target) (detail : BitVec 32)
    (p : Option Pass) (minority split : Nat) : Chip :=
  let c := (List.range minority).foldl (fun c _ => c.raiseTarget Src.icingMinority detail t target p) c
  let c := (List.range split).foldl (fun c _ => c.raiseTarget Src.icingSplit detail t target p) c
  match a with
  | .n i =>
    let c := if minority = 0 then c else c.modTileArr t fun x => { x with
      earlyScrub := if (i, plane) ∈ x.earlyScrub then x.earlyScrub else x.earlyScrub ++ [(i, plane)] }
    if split = 0 then c else c.queueRefresh t i plane
  | .s _ => c

/-- Minorities and splits of a beat's partials. -/
def votesOf (ps : List (Int × Nat × Nat)) : Nat × Nat := ps.foldl (fun n x => (n.1 + x.2.1, n.2 + x.2.2)) (0, 0)

/-- Cells of an S-array that an upset has flipped stay flipped until they are written (R94); an N-array's cells read wrong
only as they are sensed. `wrong` names the cells by row of the group and column. -/
def Chip.upsetGroup (c : Chip) (t : TileIx) (a : ArrRef) (g : Nat) (wrong : List (Nat × Nat)) : Chip :=
  match a with
  | .n _ => c
  | .s i => (wrong.filter fun w => decide (w.1 < 64) && decide (w.2 < 1024)).foldl (fun c w =>
      c.setSRow t i (64 * g + w.1) (c.sRow t i (64 * g + w.1) ^^^ (1#1024 <<< w.2))) c

/-- A sprinkle's beat is over (R364 to R366): its partials go into the digest, its votes act as a beat's on the plane of an
ARRAY entry; the next block's beat follows, or the entry's outcome. -/
def Chip.sprinkleBeat (c : Chip) (t : TileIx) (a : ArrRef) (b : Beat) (run : SprinkleRun) (ps : List (Int × Nat × Nat)) : Chip :=
  let v := votesOf ps
  let run := { run with
    words := run.words ++ ps.map fun (x : Int × Nat × Nat) => BitVec.ofInt 32 x.1, minority := run.minority + v.1, split := run.split + v.2 }
  match run.left with
  | block :: left => c.offerBeat t a { b with block, sprinkle := some { run with left } }
  | [] =>
    match c.packEntryOf t run.entry run.bound with
    | none => c
    | some e =>
      let c := if e.kind = 1 then
          c.noteVotes t a b.plane b.name (tileDetail t (targetCode b.name) 0) none run.minority run.split else c
      c.sprinkleOutcome t run.entry run.bound e (sprinkleDigest run.words == e.digest)

/-- A beat of a pass is over (R35, R51, R53, R73 to R75, R79, R363). -/
def Chip.passBeat (c : Chip) (t : TileIx) (a : ArrRef) (b : Beat) (ps : List (Int × Nat × Nat)) (scales : List Byte) : Chip :=
  let terms := (ps.zip scales).map fun x => beatTerm x.1.1 x.2 b.scale
  let c := terms.zipIdx.foldl (fun c x => c.addAcc t (b.acc.toNat + x.2) b.pass (accWord x.1) b.poison) c
  let c := if invalidScale b.scale || scales.any invalidScale then
      c.raise Src.invalidScale { detail := tileDetail t 0 b.layer.toNat, pass := some b.pass } else c
  let v := votesOf ps
  let c := c.noteVotes t a b.plane b.target (tileDetail t (targetCode b.name) b.layer.toNat) (some b.pass) v.1 v.2
  c.monitor t b.name b.layer b.pass terms

/-- A beat completes (R73): its array and firing place are free, and its result goes where it belongs. -/
def Chip.finishBeat (c : Chip) (t : TileIx) (a : ArrRef) (b : Beat) (wrong : List (Nat × Nat)) : Chip :=
  let g := b.group.toNat
  let u := c.upsetGroup t a g wrong
  let ps := beatPartials b.fmt (c.groupRows t a g wrong) (b.block.map i8)
  let scales := (List.range ps.length).map (u.weightScale t a g)
  let c := u.endBeat t a
  match b.sprinkle with
  | some run => c.sprinkleBeat t a b run ps
  | none => c.passBeat t a b ps scales

/-- A zero beat completes: every weight's partial and term is 0 (R55, R76, R363). -/
def Chip.finishZero (c : Chip) (t : TileIx) (a : ArrRef) (b : Beat) : Chip :=
  let c := c.endBeat t a
  match b.sprinkle with
  | some run => c.sprinkleBeat t a b run (List.replicate (WFmt.perRow b.fmt) (0, 0, 0))
  | none => c.monitor t b.name b.layer b.pass (List.replicate (WFmt.perRow b.fmt) 0)

end Sys2Proof.Machine
end

