-- ==== Sys2Proof/Machine/MirrorOps.lean ====
section
/-! DEFINITION. What a device sends into an outbound window (R172), and the mirror records of its KV (R338, R339, R353). -/

namespace Sys2Proof.Machine

/-- An outbound window descriptor of a tile (R172). -/
def Chip.outWin (c : Chip) (t : TileIx) (w : BitVec 2) : OutWin := sget (fun _ => {}) c.fab.outWin (4 * t.toNat + w.toNat)

/-- A window write (R172): target window and word offset in SLOT, epoch and outbound descriptor in POS. -/
def Chip.windowCrumb (c : Chip) (t : TileIx) (w : BitVec 2) (off : Nat) (pass : Option PassRec) (req : BitVec 12)
    (payload : List Byte) : Crumb :=
  let x := c.outWin t w
  { hdr := CrumbHeader.sealed {
      slot := BitVec.ofNat 14 (place 12 2 x.target.toNat + place 0 11 off), req, pass := (pass.map (·.pass)).getD 0
      wepoch := (pass.map (·.wepoch)).getD c.activeW, repoch := (c.rcp.active.map (·.repoch)).getD 0
      variant := (pass.map (·.variant)).getD 0, kind := 9, flags := 0
      pos := BitVec.ofNat 20 (place 12 8 x.epoch.toNat + place 10 2 w.toNat), crc := 0 }
    payload }

/-- Mirror records go out: under buddy protection, during a KV restore, and from R until BUDDY_OK sets (R338, R353). -/
def Chip.mirrors (c : Chip) : Bool := c.load.buddyOk || c.opt.restoring || c.opt.rejoin.isSome

/-- The words of a pass that await window acknowledges grow by `n` (R336, R339). -/
def addMirrored (p : Option Pass) (n : Nat) (ms : List (Option Pass × Nat)) : List (Option Pass × Nat) :=
  match ms.getLast? with
  | some x => if x.1 = p then ms.dropLast ++ [(p, x.2 + n)] else ms ++ [(p, n)]
  | none => [(p, n)]

/-- A record's words leave as window writes through the mirror window that the recipe names, at word offsets from 0 on (DESIGN CHOICE,
log entry 52). Their acknowledges are awaited, but not of what a KV restore forwards. -/
def Chip.sendMirror (c : Chip) (pass : Option PassRec) (req : BitVec 12) (words : List (List Byte)) : Chip :=
  match c.rcp.active.bind fun r => r.placement.mirror with
  | none => c
  | some (t, w) =>
    let c := c.emits (words.zipIdx.map fun x => .crumb (c.windowCrumb t w x.2 pass req x.1))
    if c.load.buddyOk || c.opt.rejoin.isSome then
      { c with opt := { c.opt with mirrored := addMirrored (pass.map (·.pass)) words.length c.opt.mirrored } }
    else c

/-- The header word of a mirror record (R338). -/
def mirrorHeader (req : BitVec 12) (d at' n : Nat) (scales : List Byte) (pass : Pass) (last descriptor : Bool) : List Byte :=
  leBytes 2 req.toNat ++ leBytes 4 d ++ leBytes 1 at' ++ leBytes 1 n ++ (scales ++ List.replicate 8 0).take 8 ++ leBytes 4 pass.toNat
    ++ leBytes 1 (bit last + 2 * bit descriptor) ++ List.replicate 43 0

/-- A page-table descriptor that the device allocates or frees goes to the buddy (R338). -/
def Chip.mirrorPage (c : Chip) (req : BitVec 12) (d : Nat) : Chip :=
  if c.mirrors then c.sendMirror none req [mirrorHeader req d 0 0 [] 0 false true] else c

/-- The rows of a pair that hold a position of its page, the V array's from 288 on (R39, R279, R280): rows of K with their
scale rows, two rows of V with theirs. -/
def kRows : List Nat := List.range 256 ++ [256, 264, 272, 280]
def vRows (at' : Nat) : List Nat := [288 + at', 416 + at', 545, 546]

/-- The positions of a pass within a page, by their place in it. -/
def pagePlaces (p : PassRec) (page : Nat) : List Nat :=
  ((List.range p.positions).map (p.pos.toNat + ·)).filterMap fun n => if n / 128 = page then some (n % 128) else none

/-- The mirror record of one position of a page in a pair of the pool (R338). -/
def Chip.mirrorRecord (c : Chip) (p : PassRec) (d : Nat) (pair : KvPair) (at' : Nat) (last : Bool) : List (List Byte) :=
  let k := fun i => c.sRow pair.kTile (c.kvPhys pair.kTile pair.kArr) i
  let v := fun i => c.sRow pair.vTile (c.kvPhys pair.vTile pair.vArr) i
  let byteOf := fun (x : BitVec 1024) (i : Nat) => x.extractLsb' (8 * i) 8
  let body := ((List.range 256).map fun i => byteOf (k i) at') ++ leBytes 128 (v at').toNat ++ leBytes 128 (v (128 + at')).toNat
  let scales := ((List.range 4).map fun g => byteOf (k (256 + 8 * g)) at') ++ ((List.range 2).map fun h => byteOf (v (257 + h)) at')
  mirrorHeader p.req d at' 8 scales p.pass last false :: (List.range 8).map fun i => bytesAt body (64 * i) 64

/-- Once a pass has written every row of its positions in a page, their mirror records go out, position by position; the pass's last
position ends it (R338). -/
def Chip.mirrorReady (c : Chip) (p : PassRec) (d page : Nat) (pair : KvPair) : Chip :=
  let rows := (c.opt.mirrorRows.filter fun x => x.1 == p.pass && x.2.1 == d).map (·.2.2)
  let at' := pagePlaces p page
  if at'.isEmpty || !(kRows ++ at'.flatMap vRows).all rows.contains then c
  else
    let c := { c with opt := { c.opt with mirrorRows := c.opt.mirrorRows.filter fun x => !(x.1 == p.pass && x.2.1 == d) } }
    at'.foldl (fun c i =>
      c.sendMirror (some p) p.req (c.mirrorRecord p d pair i (128 * page + i + 1 == p.pos.toNat + p.positions))) c

/-- The logical S-array whose content a physical one holds: the stand-in holds its target's (R97). -/
def Chip.heldS (c : Chip) (t : TileIx) (a : Fin 9) : Option (BitVec 3) :=
  if a.val < 8 then some (BitVec.ofNat 3 a.val)
  else match (c.tileArr t).standin.target with
    | some (.s l) => some l
    | _ => none

/-- A row of a KV pair is written in a pass (R338): with the last one of its page the records go out. -/
def Chip.mirrorRow (c : Chip) (t : TileIx) (a : Fin 9) (row : Nat) (pass : Option Pass) : Chip :=
  if !c.mirrors then c
  else match c.heldS t a, pass.bind fun p => c.rcp.passes.find? fun x => x.pass == p with
    | some l, some p =>
      match c.pairOf t l with
      | none => c
      | some d =>
        match c.servingRecipe.bind fun r => r.placement.pairs[d]?, c.serve.owned.find? fun o => o.1 == p.req && o.2.2 == d with
        | some pair, some o =>
          let i := (if pair.vTile = t ∧ c.kvArr t pair.vArr = l then 288 else 0) + row
          let x := (p.pass, d, i)
          let c := if c.opt.mirrorRows.contains x then c
            else { c with opt := { c.opt with mirrorRows := c.opt.mirrorRows ++ [x] } }
          c.mirrorReady p d o.2.1 pair
        | _, _ => c
    | _, _ => c

end Sys2Proof.Machine
end

