-- ==== Sys2Proof/Machine/WriteOps.lean ====
section
/-! DEFINITION. Plane writes (R81 to R88, R250, R368), S-array rows (R90), refresh (R99), and what their ends bring about. -/

namespace Sys2Proof.Machine

/-- The columns of the words of a mask (R84). -/
def maskCols (mask : BitVec 16) : BitVec 1024 := mergeRow mask 0 (BitVec.allOnes 1024)

/-- write_row() of R84 from a pulse on: `weak` lists what the reads at WRITE_MARGIN sense wrong, `stuck` the cells that no
pulse switches. The row it leaves, and whether the row verifies. -/
def writeLoop (cols data stuck : BitVec 1024) : Nat → List (BitVec 1024) → BitVec 1024 → BitVec 1024 × Bool
  | left, weak, row =>
    let bad := (row ^^^ weak.headD 0 ^^^ data) &&& cols
    if bad = 0 then (row, true)
    else match left with
      | 0 => (row, false)
      | n + 1 =>
        let pulsed := bad &&& ~~~stuck
        writeLoop cols data stuck n (weak.drop 1) ((row &&& ~~~pulsed) ||| (data &&& pulsed))

/-- The masked words of a row written by R84, at most eight pulses. -/
def writeRow (mask : BitVec 16) (data row : BitVec 1024) (x : RowTrouble) : BitVec 1024 × Bool :=
  writeLoop (maskCols mask) data x.stuck 8 x.weak row

/-- The words of a plane's row that a write pulses outside its record: row 319's record stands in its upper half (R66, R83). -/
def planeMask (row : Nat) : BitVec 16 := if row = 319 then 0x00FF else 0xFFFF

/-- Row `i` of the plane that a write leaves: its data rows, then the check rows of R67 (R83). -/
def Chip.planeData (c : Chip) (j : PlaneJob) (i : Nat) : BitVec 1024 :=
  let data := fun k => if k < j.done then c.cellRow j.tile j.phys j.plane k else j.rows.getD (k - j.done) 0
  if i < 288 then data i else checkRow (checkArea data) i

/-- How a row of a running write comes out under its troubles; a row without any takes its data. -/
def Chip.tryRow (c : Chip) (j : PlaneJob) (i : Nat) (trouble : List RowTrouble) : BitVec 1024 × Bool :=
  let data := c.planeData j i
  let old := c.cellRow j.tile j.phys j.plane i
  match trouble.find? fun x => x.row.toNat == i with
  | some x => writeRow (planeMask i) data old x
  | none => (mergeRow (planeMask i) old data, true)

/-- Program rows of a running write as their troubles let them. -/
def Chip.programRows (c : Chip) (j : PlaneJob) (rows : List Nat) (trouble : List RowTrouble) : Chip :=
  let new := rows.map fun i => (i, (c.tryRow j i trouble).1)
  new.foldl (fun c x => c.setCell j.tile j.phys j.plane x.1 x.2) c

/-- Every weight and scale row of a write has arrived: the check area may follow (R83). -/
def PlaneJob.whole (j : PlaneJob) : Bool := j.done + j.rows.length == 288

/-- Replace a queued or running write. -/
def Chip.setJob (c : Chip) (old new : PlaneJob) : Chip :=
  { c with arr := { c.arr with writes := c.arr.writes.map fun x => if x = old then new else x } }

/-- The load engine is asked for a row of a write (R249). -/
def Chip.askRow (c : Chip) (j : PlaneJob) (row : Nat) : Chip :=
  c.modLoad fun l => { l with requests := l.requests ++ [.plane j.tile j.logical j.rel j.wepoch row] }

/-- The row a running write has asked for arrives (R83, R249): with a second row held, the first is written; the next row is
asked for. -/
def Chip.rowArrives (c : Chip) (j : PlaneJob) (data : BitVec 1024) : Chip :=
  let n := j.done + j.rows.length
  let c := if n < 287 then c.askRow j (n + 1) else c
  if j.rows.isEmpty then c.setJob j { j with rows := [data] }
  else
    let c := c.programRows j ((List.range j.rows.length).map (j.done + ·)) []
    c.setJob j { j with rows := [data], done := j.done + j.rows.length }

/-- A plane write that a weight load needs counts on its chunk (R86, R88, R250): the chunk's attempt fails; within the limit
of R245 its segments are written again, else it fails. -/
def Chip.loadWriteFailed (c : Chip) (j : PlaneJob) (again : Bool) : Chip :=
  match j.chunk, c.epochPlan j.wepoch with
  | some i, some (e, p, _) =>
    match p.chunks[i]? with
    | none => c
    | some r =>
      if again && decide (r.tries < 3) then
        let c := c.modPlanOf j.wepoch fun p => p.modChunk i fun r => { r with tries := r.tries + 1 }
        (r.segs.filter (!·.isS)).foldl (fun c s => c.queueWrite (c.segJob e i r.role s)) c
      else
        (c.failChunk j.wepoch i 4).planProgress
  | _, _ => c

/-- An array moves while a load writes planes of it: its segments that the load has queued before, or is writing now, are
written to its new place (R250); after a rotation only those that the rotation has not taken along (R99). -/
def Chip.requeueArray (c : Chip) (t : TileIx) (l : BitVec 4) (all : Bool) : Chip :=
  match c.load.incoming with
  | some (e, p, _) =>
    p.chunks.zipIdx.foldl (fun c x =>
      if x.1.state = .authenticated && (x.1.role == 1 || p.initial) then
        (x.1.segs.filter fun s => !s.isS && s.tile == t && s.array == l).foldl (fun c s =>
          let j := c.segJob e x.2 x.1.role s
          let r := c.planeRec t j.phys j.plane
          let written := r.kind == j.kind && r.wepoch == j.wepoch
          let queued := c.arr.writes.any fun y => !y.running && y.why == .load && y.tile == t && y.logical == l && y.plane == j.plane
          if queued || written && !all then c else { c with arr := { c.arr with writes := c.arr.writes ++ [j] } }) c
      else c) c
  | none => c

/-- The tile's spare is free to take an array (R86, R88, R98, R99). -/
def Chip.spareUnused (c : Chip) (t : TileIx) : Bool := (c.tileMap t).spareIx.isSome && (c.tileArr t).move.isNone

/-- The tile's spare fails (R86): it is retired at once, and what was being programmed into it is dropped. A repair leaves the
stand-in serving permanently, or an array that failed without one retired in its place; a rotation leaves its plane queued. -/
def Chip.spareFailed (c : Chip) (t : TileIx) (sp : Fin 17) : Chip :=
  let a := c.tileArr t
  let c := c.modMap t fun m => { m with spare := 31, retired := m.retired ||| (1#17 <<< sp.val) }
  let c := c.retireRecs t sp
  let c : Chip := { c with arr := { c.arr with writes := c.arr.writes.filter fun j => j.running || !(j.tile == t && j.phys == sp) } }
  let c := c.modTileArr t fun a => { a with move := none, moveReady := false, spareState := 3, spareTest := false }
  match a.move with
  | some m =>
    if a.spareState != 1 then c
    else if a.standin.servesArray m.logical then c.servePermanently t
    else c.modMap t fun x => { x with retired := x.retired ||| (1#17 <<< (x.phys m.logical).val) }
  | none => c

/-- A write that a worn plane, or a retired array that stays mapped, would need (R86, R88): the array rotates onto the unused
spare, and the write waits for that; without one it is refused. A worn plane of the spare itself retires the spare
(DESIGN CHOICE, log entry 28: R88 names no write of the spare). -/
def Chip.refuseWrite (c : Chip) (j : PlaneJob) : Chip :=
  let drop := fun (c : Chip) => ({ c with arr := { c.arr with writes := c.arr.writes.filter (· != j) } } : Chip)
  let detail := physDetail j.tile j.phys j.plane 0
  if (c.tileMap j.tile).spareIx == some j.phys then ((drop c).spareFailed j.tile j.phys).tally Src.wearLimit detail
  else match c.spareUnused j.tile, (c.tileMap j.tile).logical j.phys with
    | true, some l =>
      let c := (c.startMove j.tile l false true none).requeueArray j.tile l false
      c.arrayBoundaryIdle j.tile
    | _, _ => ((drop c).tally Src.wearLimit detail).loadWriteFailed j false

/-- A plane that no write may start on (R86, R88). -/
def Chip.noWrite (c : Chip) (j : PlaneJob) : Bool :=
  (c.planeRec j.tile j.phys j.plane).writeCount.toNat == 10000 || (c.tileMap j.tile).isRetired j.phys

/-- The array a job writes now: a load's and a dormant plane's follow the tile's map (R98, R250). -/
def Chip.jobNow (c : Chip) (j : PlaneJob) : PlaneJob :=
  if j.why == .load || j.why == .dormant then { j with phys := (c.tileMap j.tile).phys j.logical } else j

/-- Whether a waiting write may take a slot now (R81, R82): none of its tile's places, its plane or its array's move is
taken; one that would need the spare waits until no move has it. -/
def Chip.mayWrite (c : Chip) (j : PlaneJob) : Bool :=
  let running := c.arr.writes.filter (·.running)
  let now := c.jobNow j
  let moving := match (c.tileArr j.tile).move with
    | some m => (j.why == .load || j.why == .dormant || j.why == .refreshInPlace) && (m.logical == j.logical || c.noWrite now)
    | none => false
  !j.running && decide (running.length < c.arr.slots.toNat) && decide ((running.filter (·.tile == j.tile)).length < 2)
    && !(running.any fun x => x.tile == j.tile && x.phys == now.phys && x.plane == j.plane) && !moving

/-- The waiting write that goes first (R82). -/
def Chip.firstWrite (c : Chip) : Option PlaneJob :=
  let ready := c.arr.writes.filter c.mayWrite
  ([1, 2, 3, 4] : List Nat).findSome? fun r => ready.find? fun j => j.why.rank == r

/-- A write takes a slot: step 1 of R83, the wear checks of R87 and R88, and the request for its first row (R249). -/
def Chip.grantWrite (c : Chip) (j : PlaneJob) : Chip :=
  let j' := c.jobNow j
  let c := c.setJob j j'
  if c.noWrite j' then c.refuseWrite j'
  else
    let c := c.modRec j'.tile j'.phys j'.plane fun r => { r with kind := 0xFE, writeCount := r.writeCount + 1 }
    let c := c.setJob j' { j' with running := true }
    let c := if j'.why == .testPlane then c else c.askRow j' 0
    if (c.planeRec j'.tile j'.phys j'.plane).writeCount.toNat = c.arr.wearWarn.toNat then
      c.tally Src.wearWarn (physDetail j'.tile j'.phys j'.plane 0) else c

/-- A plane that the scrub skipped while it was written is revisited (R91). -/
def Chip.revisit (c : Chip) (t : TileIx) (n : Fin 17) (p : BitVec 2) : Chip :=
  c.modTileArr t fun a =>
    if (n, p) ∈ a.skipped then { a with
      skipped := a.skipped.filter (· != (n, p))
      earlyScrub := if (n, p) ∈ a.earlyScrub then a.earlyScrub else a.earlyScrub ++ [(n, p)] }
    else a

/-- One plane of a tile's move is written; with the last one the map may change (R98, R99). -/
def Chip.movePlaneDone (c : Chip) (t : TileIx) (p : BitVec 2) : Chip :=
  (c.modTileArr t fun a =>
    let mv := a.move.map fun m => { m with left := m.left.filter (· != p) }
    { a with move := mv, moveReady := mv.any fun m => m.left.isEmpty }).arrayBoundaryIdle t

/-- A dormant plane's rewrite is complete: one that was queued for refresh is refreshed (R93, R99, R107). -/
def Chip.dormantDone (c : Chip) (t : TileIx) (n : Fin 17) (p : BitVec 2) : Chip :=
  let asked := (n, p) ∈ (c.tileArr t).refreshQ
  let c := c.modTileArr t fun a => { a with
    dormant := a.dormant.filter (· != (n, p)), refreshQ := a.refreshQ.filter (· != (n, p)) }
  (if asked then { c with arr := { c.arr with refreshes := satAdd c.arr.refreshes 1 } } else c).settleBuddy

/-- What a completed plane write brings about, by why it was queued (R86, R93, R98, R99, R249, R368). -/
def Chip.writeDone (c : Chip) (j : PlaneJob) : Chip :=
  let t := j.tile
  -- a spare that was retired while the write ran holds nothing (R98)
  let c := if ((c.tileMap t).logical j.phys).isNone && (c.tileMap t).isRetired j.phys then
      c.modRec t j.phys j.plane fun r => { r with kind := 0xFF } else c
  match j.why with
  | .repair | .rotation =>
    if (c.tileArr t).move.any fun m => m.toPhys == j.phys then c.movePlaneDone t j.plane else c
  | .refreshInPlace =>
    let c := c.modTileArr t fun a => { a with refreshDone := true, refreshQ := a.refreshQ.filter (· != (j.phys, j.plane)) }
    c.arrayBoundaryIdle t
  | .dormant => c.dormantDone t j.phys j.plane
  | .testPlane =>
    if (c.tileMap t).spareIx = some j.phys then c.modTileArr t fun a => { a with spareTest := (c.tileArr t).move.isNone } else c
  | .load => c.planProgress

/-- A plane write ends well (R83, R84): rows that met trouble all verify, the check area and the final record are written.
While a row does not verify, or one of those before has not been written, the write has not ended. -/
def Chip.completeWrite (c : Chip) (j : PlaneJob) (trouble : List RowTrouble) : Chip :=
  if !j.whole || trouble.any fun x => decide (x.row.toNat < j.done) || !(c.tryRow j x.row.toNat trouble).2 then c
  else
    let c := c.programRows j (((List.range 320).drop 288) ++ (List.range j.rows.length).map (j.done + ·)) trouble
    let c := c.modRec j.tile j.phys j.plane fun r =>
      { r with kind := j.kind, wepoch := j.wepoch, digest := j.digest, hours := c.evr.hours.setWidth 32 }
    ((c.dropWrite j.tile j.phys j.plane).revisit j.tile j.phys j.plane).writeDone j

/-- What a failed plane write leads to (R86, R250). A spare that another move has is not unused (DESIGN CHOICE, log
entry 29). -/
def Chip.writeFailed (c : Chip) (j : PlaneJob) : Chip :=
  let t := j.tile
  let retire := fun (c : Chip) => c.modMap t fun m => { m with retired := m.retired ||| (1#17 <<< j.phys.val) }
  if ((c.tileMap t).logical j.phys).isNone then (if (c.tileMap t).spareIx == some j.phys then c.spareFailed t j.phys else c)
  else match j.why with
    | .refreshInPlace =>
      let c := (retire c).modTileArr t fun a => { a with refreshQ := a.refreshQ.filter (· != (j.phys, j.plane)) }
      if (c.tileArr t).standin.state = .servingRefresh then
        (c.modTileArr t fun a => { a with standin := { a.standin with state := .serving, refresh := false } }).servePermanently t
      else c
    | _ =>
      let own := (c.tileArr t).move.any fun m => m.logical == j.logical
      if c.spareUnused t || own then
        let c := c.startMove t j.logical true true none
        ((c.loadWriteFailed j true).requeueArray t j.logical true).arrayBoundaryIdle t
      else (retire c).loadWriteFailed j false

/-- A row of a plane write fails its eight pulses (R84, R86): the rows before it are written, it is as the pulses left it, and
the write stops; the record stays at KIND 0xFE. A row that is not to be written yet, or that would verify, changes nothing. -/
def Chip.failWrite (c : Chip) (j : PlaneJob) (x : RowTrouble) : Chip :=
  let i := x.row.toNat
  let due := decide (j.done ≤ i) && decide (i < 320) && (decide (i < j.done + j.rows.length) || j.whole)
  let r := c.tryRow j i [x]
  if !due || r.2 then c
  else
    let before := (List.range 320).filter fun k => decide (k < i) && decide (j.done ≤ k)
    let c := (c.programRows j before []).setCell j.tile j.phys j.plane i r.1
    let c : Chip := { c with arr := { c.arr with writeFails := satAdd c.arr.writeFails 1 } }
    ((c.dropWrite j.tile j.phys j.plane).tally Src.nvWriteFail (physDetail j.tile j.phys j.plane 0)).writeFailed j

/-- The next row of an S-array's queue starts when its array is free (R90). -/
def Chip.startRow (c : Chip) (t : TileIx) (a : Fin 9) : Chip :=
  if c.arrFree t (.s a) then
    match c.arr.rowQ.find? fun x => x.1 == t && x.2.1 == a with
    | some x =>
      let c : Chip := { c with arr := { c.arr with rowQ := c.arr.rowQ.erase x } }
      c.setArrOp t (.s a) (some (.rowWrite (BitVec.ofNat 9 x.2.2.1) 0xFFFF x.2.2.2 none))
    | none => c
  else c

/-- A whole row for an S-array arrives (R90, R249). -/
def Chip.offerRow (c : Chip) (t : TileIx) (a : Fin 9) (row : Nat) (data : BitVec 1024) : Chip :=
  ({ c with arr := { c.arr with rowQ := c.arr.rowQ ++ [(t, a, row, data)] } } : Chip).startRow t a

/-- A row of a stream is in its array (R218): the guarding object is signalled by 1 for it (DESIGN CHOICE, log entry 30), and
with the last one the expert is resident. -/
def Chip.streamRow (c : Chip) (t : TileIx) (a : Fin 9) (row : Nat) : Chip :=
  let mine := c.rcp.streamLeft.filter fun x => x.2 == (t, BitVec.ofNat 4 a.val, row)
  let c : Chip := { c with rcp := { c.rcp with
    streamLeft := c.rcp.streamLeft.filter fun x => x.2 != (t, BitVec.ofNat 4 a.val, row) } }
  mine.foldl (fun c x => (match c.streamSec x.1 with
    | some s => c.soSignal s.guard 1
    | none => c).streamSettle x.1) c

/-- A row of the stand-in is written (R96, R103): with the last one of its content it serves. -/
def Chip.standinRow (c : Chip) (t : TileIx) : Chip :=
  if (c.tileArr t).standin.state = .loading then
    let c := c.modTileArr t fun x => { x with standin := { x.standin with rows := x.standin.rows + 1 } }
    let s := (c.tileArr t).standin
    if s.need ≤ s.rows then c.standinLoaded t else c
  else c

/-- An S-array row write completes (R90): masked words and their check bytes; then what waited for the row. -/
def Chip.finishRow (c : Chip) (t : TileIx) (a : Fin 9) (row : Nat) (mask : BitVec 16) (data : BitVec 1024)
    (pass : Option Pass) : Chip :=
  let c := (c.setArrOp t (.s a) none).writeSRow t a row mask data
  let c := (c.mirrorRow t a row pass).startRow t a
  if a = 8 then c.standinRow t
  else
    let left := c.load.sLeft
    let c := (c.modLoad fun l => { l with sLeft := l.sLeft.filter fun x => x.2 != (t, BitVec.ofNat 4 a.val, row) })
    let c := if c.load.sLeft.length < left.length then c.planProgress else c
    c.streamRow t a row

/-- A weight load writes planes of an array, or will write some under an armed weight epoch (R99): the role-2 segments of an
armed epoch, and those of an active one until its rebuild is done, are such writes. -/
def Chip.loadUses (c : Chip) (t : TileIx) (l : BitVec 4) : Bool :=
  let will := fun (p : Plan) => p.chunks.any fun r => r.role == 2 && r.segs.any fun s => !s.isS && s.tile == t && s.array == l
  (c.arr.writes.any fun j => j.chunk.isSome && j.tile == t && j.logical == l)
    || (match c.load.incoming with
      | some (_, p, .armed _) => will p
      | _ => false)
    || (c.load.rebuildPending && c.load.activePlan.any will)

/-- Start a queued refresh of a tile (R88, R99): a dormant plane in place, a live one by rotation, or behind the stand-in
when it is FREE. -/
def Chip.refresh (c : Chip) (t : TileIx) : Chip :=
  let may := fun (x : Fin 17 × BitVec 2) => match (c.tileMap t).logical x.1 with
    | some l => !c.loadUses t l
    | none => true
  match (c.tileArr t).refreshQ.find? may with
  | none => c
  | some (n, p) =>
    let drop := fun (c : Chip) => c.modTileArr t fun a => { a with refreshQ := a.refreshQ.filter (· != (n, p)) }
    match (c.tileMap t).logical n with
    | none => drop c
    | some l =>
      let rel := bankPlane c.bankBit p
      if (c.tileArr t).move.isSome then c
      else
        let spare := (c.tileMap t).spareIx.isSome
        if (c.planeRec t n p).writeCount.toNat = 10000 || (c.tileMap t).isRetired n then
          if spare then (c.startMove t l false true (some (n, p))).arrayBoundaryIdle t
          else (drop c).tally Src.wearLimit (physDetail t n p 0)
        else if !c.planeLive t n p then c.queueWrite (c.goldenJob t n l rel .dormant)
        else if spare then (c.startMove t l false false (some (n, p))).arrayBoundaryIdle t
        else if (c.tileArr t).standin.state = .free then
          (c.sendCtl 0 (.standin t (.n l rel))).orderStandin t (.n l rel) true
        else c

end Sys2Proof.Machine
end

