-- ==== Sys2Proof/Machine/ScrubOps.lean ====
section
/-! DEFINITION. The scrub of N-arrays and S-arrays (R78, R80, R91 to R94, R263) and the check of S-array words on row reads
(R71). -/

namespace Sys2Proof.Machine

/-- A walk's next plane (R91): planes 0 to 3 of each array, arrays 0 to 16. -/
def ScrubPos.step (x : ScrubPos) : ScrubPos :=
  if x.plane < 3 then { x with plane := x.plane + 1 }
  else { x with plane := 0, array := if x.array < 16 then x.array + 1 else 0 }

/-- The plane the N-array scrub reads now. -/
def ScrubPos.now (x : ScrubPos) : Fin 17 × BitVec 2 :=
  match x.early with
  | some e => e
  | none => (Fin.ofNat 17 x.array, BitVec.ofNat 2 x.plane)

/-- The walk leaves a plane: the next one is a plane queued for an early scrub, else the next in turn (R79, R91). -/
def Chip.scrubNext (c : Chip) (t : TileIx) : Chip :=
  c.modTileArr t fun a => { a with
    nv := { (if a.nv.early.isSome then a.nv else a.nv.step) with row := 0, weak := false, flips := [], early := a.earlyScrub.head? }
    earlyScrub := a.earlyScrub.drop 1 }

/-- The plane the walk stands at is passed over while its record reads KIND 0xFE (R86, R91): one being written is revisited
when its write completes. Fuel for every plane. -/
def Chip.scrubSkip (t : TileIx) : Nat → Chip → Chip
  | 0, c => c
  | f + 1, c =>
    let p := (c.tileArr t).nv.now
    if (c.planeRec t p.1 p.2).kind = 0xFE then
      let c := if (c.runningWrite t p.1 p.2).isSome then
          c.modTileArr t fun a => { a with skipped := if p ∈ a.skipped then a.skipped else a.skipped ++ [p] } else c
      Chip.scrubSkip t f (c.scrubNext t)
    else c

/-- MARGIN and REFRESH_T as they act (R105). -/
def Chip.marginSteps (c : Chip) : Nat := max 1 c.arr.margin.toNat
def Chip.refreshLimit (c : Chip) : Nat := max 1 (min 10 c.arr.refreshT.toNat)

/-- Columns as the bits of a row. -/
def colBits (cols : List Nat) : BitVec 1024 :=
  (cols.filter (· < 1024)).foldl (fun (x : BitVec 1024) k => x ^^^ (1#1024 <<< k)) 0

/-- The columns that a margin read marks as weak: those whose second read the shift of MARGIN steps turns (R78). -/
def Chip.weakCols (c : Chip) (weak : WeakCols) : List Nat :=
  (weak.filter fun w => decide (w.1 < 1024) && decide (w.2 ≤ c.marginSteps)).map (·.1)

/-- The copies of each iced slice, by offset in the weight (R38, R79). -/
def icedSlices : WFmt → List (Nat × Nat × Nat)
  | .w4 => [(2, 4, 5), (3, 6, 7)]
  | .w8 => [(6, 8, 9), (7, 10, 11)]
  | _ => []

/-- The columns of a weight row whose copy disagrees with the majority of its slice (R80). -/
def icingMinorities (f : WFmt) (bits : BitVec 1024) : List Nat :=
  (List.range (WFmt.perRow f)).flatMap fun j => (icedSlices f).flatMap fun s =>
    let at' := fun k => WFmt.cols f * j + k
    let m := maj3 (bits.getLsbD (at' s.1)) (bits.getLsbD (at' s.2.1)) (bits.getLsbD (at' s.2.2))
    ([s.1, s.2.1, s.2.2].map at').filter fun k => bits.getLsbD k != m

/-- The format in which the active recipe reads a row group of a plane, from any of its orders (R38, R80). -/
def Chip.groupFmt (c : Chip) (t : TileIx) (tg : Target) (g : Nat) : Option WFmt :=
  c.rcp.active.bind fun r =>
    let orders := (r.tiles ++ r.fallbacks.flatMap (·.tiles)).filter (·.tile == t)
    (orders.flatMap fun o => o.ops ++ o.subs.flatMap (·.2)).findSome? fun x => match x.op with
      | .beat b => if b.target = tg ∧ b.group.toNat = g then some b.fmt else none
      | _ => none

/-- The 112 flipped bits of a codeword's check field, from the flips of the check rows (R66, R67). -/
def checkFlips (flips : Nat → BitVec 1024) (i : Nat) : Nat :=
  natOfBits ((List.range 111).map fun k =>
    let b := 112 * i + k
    (flips (288 + b / 1024)).getLsbD (b % 1024))

/-- A codeword of a plane as sensed decodes (R67, R68): rows 0 to 287, and 288 for the record; the bits of it that the
decoder corrects in its data, and whether it is uncorrectable. -/
def decodeCodeword (free : Nat) (flips : Nat → BitVec 1024) (i : Nat) : Nat × Bool :=
  let x := if i < 288 then (flips i).toNat + 2 ^ 1024 * checkFlips flips i else ((flips 319).extractLsb' 512 511).toNat
  match bchDecode (Config.freeNat (free * 512 + i)) 0 x (if i < 288 then 1024 else 400) with
  | .corrected n => (n, false)
  | .uncorrectable => (0, true)

/-- What the scrub of a plane has found: the most corrected bits in a row, icing minorities included, and whether something is
uncorrectable (R80, R93). -/
def Chip.planeFindings (c : Chip) (t : TileIx) (n : Fin 17) (p : BitVec 2) (flips : List (Nat × BitVec 1024)) : Nat × Bool :=
  let at' := fun i => ((flips.find? (·.1 == i)).map (·.2)).getD 0
  let tg := c.targetOf t n p
  let row := fun i =>
    let d := if flips.isEmpty then (0, false) else decodeCodeword c.free at' i
    let iced := match (if i < 256 then tg else none).bind fun x => c.groupFmt t x (i / 64) with
      | some f => (icingMinorities f (c.cellRow t n p i ^^^ at' i)).filter fun k => !(at' i).getLsbD k
      | none => []
    (d.1 + iced.length, d.2)
  (List.range 289).foldl (fun r i => let d := row i; (max r.1 d.1, r.2 || d.2)) (0, false)

/-- Some codeword of a plane has more than 11 wrong bits: whether it is reported is free (R68). -/
def manyWrong (flips : List (Nat × BitVec 1024)) : Bool :=
  let at' := fun i => ((flips.find? (·.1 == i)).map (·.2)).getD 0
  (List.range 289).any fun i =>
    let x := if i < 288 then (at' i).toNat + 2 ^ 1024 * checkFlips at' i else ((at' 319).extractLsb' 512 511).toNat
    decide (11 < popCount 1136 x)

/-- A plane in the buddy bank whose scrub finds it uncorrectable is rewritten from the golden image, and buddy protection is
suspended until then (R93, R260). -/
def Chip.rewriteDormant (c : Chip) (t : TileIx) (n : Fin 17) (p : BitVec 2) : Chip :=
  match c.targetOf t n p with
  | some (.n l rel) =>
    let c := c.modTileArr t fun a => { a with dormant := if (n, p) ∈ a.dormant then a.dormant else a.dormant ++ [(n, p)] }
    (c.modLoad fun l => { l with buddyOk := false }).queueWrite (c.goldenJob t n l rel .dormant)
  | _ => c

/-- The plane holds content of an epoch that a load is writing: the load writes it again if it fails (R93, R250). -/
def Chip.incomingPlane (c : Chip) (t : TileIx) (n : Fin 17) (p : BitVec 2) : Option (Epoch × Nat × ChunkRec × Seg) :=
  match c.load.incoming, (c.tileMap t).logical n with
  | some (e, pl, _), some l =>
    if (c.planeRec t n p).wepoch = e.wepoch then
      (pl.find fun s => !s.isS && s.tile == t && s.array == l && s.plane == bankPlane e.bank p).map fun x => (e, x.1, x.2.1, x.2.2)
    else none
  | _, _ => none

/-- The outcome of a plane's scrub (R93). -/
def Chip.scrubOutcome (c : Chip) (t : TileIx) (n : Fin 17) (p : BitVec 2) (weak : Bool) (flips : List (Nat × BitVec 1024)) : Chip :=
  let d := c.planeFindings t n p flips
  let c := if manyWrong flips then c.tickFree else c
  let detail := physDetail t n p 0
  let mapped := ((c.tileMap t).logical n).isSome
  let queue := fun (c : Chip) => if mapped then c.queueRefresh t n p else c
  if d.2 then
    let tg := if c.planeLive t n p then c.targetOf t n p else none
    let c := c.raise Src.nvUncorr { detail, target := tg.map fun x => (t, x) }
    match tg with
    | some x => if c.isCovered t x then c else c.orderStandin t x false
    | none =>
      if !mapped then c
      else match c.incomingPlane t n p with
        | some (e, i, r, s) => c.queueWrite (c.segJob e i r.role s)
        | none => c.rewriteDormant t n p
  else
    let c := if weak then queue (c.tally Src.nvWeak detail) else c
    if 0 < d.1 then
      let c := c.tally Src.nvCorr detail
      if c.refreshLimit ≤ d.1 then queue c else c
    else c

/-- A row of the N-array scrub has been read, with margin read (R78, R91, R93). A plane whose write began meanwhile is passed
over. -/
def Chip.scrubN (c : Chip) (t : TileIx) (row : Nat) (wrong : List Nat) (weak : WeakCols) : Chip :=
  let x := (c.tileArr t).nv
  let p := x.now
  if (c.planeRec t p.1 p.2).kind = 0xFE then Chip.scrubSkip t 69 c
  else if x.row ≠ row then c
  else
    let f := colBits wrong
    let y : ScrubPos := { x with
      flips := if f = 0 then x.flips else x.flips ++ [(row, f)], weak := x.weak || !(c.weakCols weak).isEmpty }
    if row < 319 then c.modTileArr t fun a => { a with nv := { y with row := row + 1 } }
    else ((c.modTileArr t fun a => { a with nv := y }).scrubNext t).scrubOutcome t p.1 p.2 y.weak y.flips

/-- The words of an S-array row as they decode with their stored check bytes (R71). -/
def Chip.sWords (c : Chip) (t : TileIx) (a : Fin 9) (row : Nat) : List (BitVec 64 × SecdedResult) :=
  let d := c.sRow t a row
  let k := c.sChecks t a row
  (List.range 16).map fun w => secdedDecode (d.extractLsb' (64 * w) 64) (k.extractLsb' (8 * w) 8)

/-- The row that its words spell, word 0 lowest. -/
def rowOfWords (ws : List (BitVec 64)) : BitVec 1024 := BitVec.ofNat 1024 (ws.foldr (fun x acc => x.toNat + 2 ^ 64 * acc) 0)

/-- The mask of the words that satisfy a condition. -/
def maskOf (ws : List (BitVec 64 × SecdedResult)) (f : SecdedResult → Bool) : BitVec 16 :=
  BitVec.ofNat 16 (natOfBits (ws.map fun x => f x.2))

/-- Words of an S-array row with a single error are rewritten in place, each a tally of S_SBE (R94). -/
def Chip.fixSRow (c : Chip) (t : TileIx) (a : Fin 9) (row at' : Nat) (ws : List (BitVec 64 × SecdedResult)) : Chip :=
  let single := maskOf ws (· == .single)
  if single = 0 then c
  else
    let c := c.writeSRow t a row single (rowOfWords (ws.map (·.1)))
    (ws.filter (·.2 == .single)).foldl (fun c _ => c.tally Src.sSbe (tileDetail t (unitPhysS a.val) at')) c

/-- A double error of an S-array (R94, R95, R101): its content is restored by the stand-in; a stand-in that fails in service
leaves its target held again. -/
def Chip.sDouble (c : Chip) (t : TileIx) (a : Fin 9) (row : Nat) : Chip :=
  let detail := tileDetail t (unitPhysS a.val) row
  let c := c.modTileArr t fun z => { z with sFailed := z.sFailed ||| (1#9 <<< a.val) }
  if a = 8 then
    let s := (c.tileArr t).standin
    let c := (c.tally Src.sDed detail).modTileArr t fun z => { z with standin := { z.standin with state := .failed } }
    match s.state, s.target with
    | .serving, some tg | .servingRefresh, some tg | .loading, some tg =>
      (c.modTileArr t fun z => { z with held := if tg ∈ z.held then z.held else z.held ++ [tg] }).exhaust t tg
    | _, _ => c
  else
    let tg : Target := .s (BitVec.ofNat 3 a.val)
    let c := c.raise Src.sDed { detail, target := some (t, tg) }
    if c.isCovered t tg then c else c.orderStandin t tg false

/-- A row of an S-array is read and its words are checked (R71, R94): cells that an upset has flipped stay flipped until they
are written. In a check row, the check bytes of eight data rows are found and rewritten; double errors are found in the data
rows. -/
def Chip.readSRow (c : Chip) (t : TileIx) (a : Fin 9) (row : Nat) (wrong : List Nat) : Chip :=
  let f := colBits wrong
  let c := if f = 0 then c else c.setSRow t a row (c.sRow t a row ^^^ f)
  if row < 288 then
    let ws := c.sWords t a row
    let double := ws.any (·.2 == .double)
    let c := c.fixSRow t a row row ws
    if double then c.sDouble t a row else c
  else
    ((List.range 8).map fun k => 8 * (row - 288) + k).foldl (fun c i =>
      let d := c.sRow t a i
      let ws := (c.sWords t a i).zipIdx.map fun x =>
        if x.1.1 = d.extractLsb' (64 * x.2) 64 then x.1 else (x.1.1, SecdedResult.clean)
      c.fixSRow t a i row ws) c

/-- The S-array walk's next row (R91). -/
def ScrubPos.stepS (x : ScrubPos) : ScrubPos :=
  if x.row < 323 then { x with row := x.row + 1 } else { x with row := 0, array := if x.array < 8 then x.array + 1 else 0 }

/-- A row of the S-array scrub has been read (R91, R94). -/
def Chip.scrubS (c : Chip) (t : TileIx) (a : Fin 9) (row : Nat) (wrong : List Nat) : Chip :=
  (c.modTileArr t fun z => { z with sa := z.sa.stepS }).readSRow t a row wrong

/-- Start a scrub slot's row read (R72, R77, R91): the array, once free, selects the plane first. `none`: it waits. -/
def Chip.startScrub (c : Chip) (t : TileIx) (isS : Bool) : Option (Chip × Bool) :=
  if isS then
    if !c.arr.sEn then some (c, true)
    else
      let x := (c.tileArr t).sa
      let a : ArrRef := .s (Fin.ofNat 9 x.array)
      if c.arrFree t a then some (c.setArrOp t a (some (.scrub 0 (BitVec.ofNat 9 x.row))), true) else none
  else if !c.arr.nvEn then some (c, true)
  else
    let c := Chip.scrubSkip t 69 c
    let x := (c.tileArr t).nv
    let p := x.now
    if (c.planeRec t p.1 p.2).kind = 0xFE then some (c, true)
    else if !c.arrFree t (.n p.1) then none
    else if c.selectedPlane t p.1 = p.2 then some (c.setArrOp t (.n p.1) (some (.scrub p.2 (BitVec.ofNat 9 x.row))), true)
    else some (c.setArrOp t (.n p.1) (some (.select p.2 none)), false)

/-- The array of a tile that a scrub slot's row read occupies. -/
def Chip.scrubbing (c : Chip) (t : TileIx) (isS : Bool) : Option (ArrRef × BitVec 2 × BitVec 9) :=
  let arrs : List ArrRef := if isS then (List.range 9).map fun i => .s (Fin.ofNat 9 i) else (List.range 17).map fun i => .n (Fin.ofNat 17 i)
  arrs.findSome? fun a => match c.arrOp t a with
    | some (.scrub p row) => some (a, p, row)
    | _ => none

/-- A scrub slot's row read completes (R91 to R94): its array is free. -/
def Chip.scrubDone (c : Chip) (t : TileIx) (isS : Bool) (wrong : List Nat) (weak : WeakCols) : Chip :=
  match c.scrubbing t isS with
  | some (.s a, _, row) => (c.setArrOp t (.s a) none).scrubS t a row.toNat wrong
  | some (.n n, p, row) =>
    let c := c.setArrOp t (.n n) none
    if (c.tileArr t).nv.now = (n, p) then c.scrubN t row.toNat wrong weak else c
  | none => c

end Sys2Proof.Machine
end

