-- ==== Sys2Proof/Machine/FillOps.lean ====
section
/-! DEFINITION. Operands of compiled operations (R110, R114, R118, R133, R136), what a pass carries on a tile (R161, R171),
and fill and copy (R120 to R122). -/

namespace Sys2Proof.Machine

/-- FLAGS a tile has consumed with a pass (R161). -/
def Chip.marksOf (c : Chip) (t : TileIx) (p : Pass) : Byte :=
  (c.fab.marks.find? fun m => m.1 == t && m.2.1 == p).elim 0 (·.2.2)

/-- Flags go into what the tile emits for a pass (R161). -/
def Chip.markFlags (c : Chip) (t : TileIx) (p : Pass) (flags : Byte) : Chip :=
  if flags = 0 then c
  else { c with fab := { c.fab with
    marks := (t, p, c.marksOf t p ||| flags) :: c.fab.marks.filter fun m => !(m.1 == t && m.2.1 == p) } }

/-- The POISON flag's bit. -/
def poisonBit : Byte := 1 <<< flagPoison

/-- The pass has been halted, or the tile has met its CANCEL: its operations not yet issued are retired without effect
(R171, R307). -/
def Chip.runsDry (c : Chip) (t : TileIx) (p : Pass) : Bool :=
  c.fab.halted.contains p || (c.marksOf t p).getLsbD flagCancel

/-- How an operand that has waited on its slot was released. -/
def Chip.granted (c : Chip) (t : TileIx) (w : WordIx) : Option Bool :=
  (c.buf.grants.find? fun g => g.1 == t && g.2.1 == w).map (·.2.2)

/-- An operand word may be read: it lies in no slot, or it has passed its slot's guard. -/
def Chip.operandReady (c : Chip) (t : TileIx) (w : WordIx) : Bool := (c.slotOf t w).isNone || (c.granted t w).isSome

/-- An operand word inside a slot waits on the slot's fill object, once (R136). -/
def Chip.operandWait (c : Chip) (t : TileIx) (w : WordIx) : Chip :=
  match c.slotOf t w with
  | none => c
  | some d =>
    let i := soIx t d.fill
    if (c.granted t w).isSome || (c.soObj i).waiters.any fun x => x.access == some (.operand t w) then c
    else c.soWait i { guard := .slotRead, access := some (.operand t w) }

/-- The operands of an operation pass their guards; the flag says that all of them have. -/
def Chip.operandsReady (c : Chip) (t : TileIx) (ws : List WordIx) : Chip × Bool :=
  let c := ws.foldl (fun c w => c.operandWait t w) c
  (c, ws.all fun w => c.operandReady t w)

/-- Operands of an operation that is retired wait no longer. -/
def Chip.dropOperands (c : Chip) (t : TileIx) (ws : List WordIx) : Chip :=
  ws.foldl (fun c w =>
    let c : Chip := { c with buf := { c.buf with grants := c.buf.grants.filter fun g => !(g.1 == t && g.2.1 == w) } }
    match c.slotOf t w with
    | none => c
    | some d =>
      let i := soIx t d.fill
      let o := c.soObj i
      c.setSo i { o with waiters := o.waiters.filter fun x => x.access != some (.operand t w) }) c

/-- Read an operand word that has passed its guard, in an access slot of its bank (R114, R118, R133, R136): a timeout gives
POISON and takes no access; the consumer's last read of the round signals the drain object. -/
def Chip.operandRead (c : Chip) (t : TileIx) (w : WordIx) (slot : Nat) (last : Bool) (pass : Option Pass) :
    Chip × BitVec 512 × Bool :=
  match c.slotOf t w with
  | none => c.readWord t w slot 0 pass
  | some d =>
    let met := (c.granted t w).getD true
    let c : Chip := { c with buf := { c.buf with grants := c.buf.grants.filter fun g => !(g.1 == t && g.2.1 == w) } }
    if met then
      let r := c.readWord t w slot 0 pass
      (if last then r.1.soSignal (soIx t d.drain) 1 else r.1, r.2)
    else (c.underrun (soIx t d.fill) w, 0, true)

/-- Read consecutive operand words, a bank's access slot for each 16 (R112): their data, and POISON of any. -/
def Chip.operandWords (t : TileIx) (slot : Nat) (last : Bool) (pass : Option Pass) (first : WordIx) : Nat → Chip →
    Chip × List (BitVec 512) × Bool
  | 0, c => (c, [], false)
  | n + 1, c =>
    let r := Chip.operandWords t slot false pass first n c
    let x := r.1.operandRead t (first + BitVec.ofNat 11 n) (slot + n / 16) last pass
    (x.1, r.2.1 ++ [x.2.1], r.2.2 || x.2.2)

/-- A fill or copy is issued (R120, R122, R171): out of range it writes nothing and its object ends in ERROR with code 4. One
that meets another of its tile runs after it (DESIGN CHOICE, log entry 36: R120 does not say). -/
def Chip.offerFill (c : Chip) (t : TileIx) (f : FillCopy) : Chip :=
  let past := fun (w : WordIx) => decide (2048 < w.toNat + f.length.toNat)
  if f.pass.any fun p => c.fab.deviceHalt || c.runsDry t p then c
  else if f.length = 0 || past f.start || (f.copy.any past) then
    let c := match f.so with
      | some l => c.soSignalErr (soIx t l) 4
      | none => c
    c.tally Src.bufOpRange (wordDetail t f.start)
  else c.setEngine t (c.engineOf t ++ [f])

/-- A 64-bit constant repeated eight times (R120). -/
def fillWord (v : Word64) : BitVec 512 := join512 (List.replicate 8 v)

/-- Words of an engine operation in its order; a copy to a place above its source runs downward (R120). -/
def FillCopy.places (f : FillCopy) : List Nat :=
  let up := List.range f.length.toNat
  match f.copy with
  | some src => if f.start.toNat < src.toNat then up else up.reverse
  | none => up

/-- The source words of an operation. -/
def FillCopy.sources (f : FillCopy) : List WordIx :=
  match f.copy with
  | some src => f.places.map fun i => src + BitVec.ofNat 11 i
  | none => []

/-- The words an operation writes, in its order, its sources read from an access slot on (R120, R121). -/
def Chip.readSources (c : Chip) (t : TileIx) (f : FillCopy) (slot : Nat) : Chip × List (WordIx × BitVec 512 × Bool) :=
  match f.copy with
  | none => (c, f.places.map fun i => (f.start + BitVec.ofNat 11 i, fillWord f.value, false))
  | some src => f.places.zipIdx.foldl (fun r x =>
      let y := r.1.operandRead t (src + BitVec.ofNat 11 x.1) (slot + x.2 / 16) false f.pass
      (y.1, r.2 ++ [(f.start + BitVec.ofNat 11 x.1, y.2.1, y.2.2)])) (c, [])

/-- A word of the tile's fill or copy waits on a slot's drain object. -/
def Chip.engineWaits (c : Chip) (t : TileIx) : Bool :=
  ([0, 1, 2, 3, 4, 5, 6, 7] : List (BitVec 3)).any fun l => (c.soObj (soIx t l)).waiters.any fun w =>
    match w.access with
    | some (.write _ _ cls _ _ _) => cls == .fillCopy
    | _ => false

/-- Write the words that are left until one waits, the `k`-th of them in its access slot, with fuel for their number (R120,
R121, R136); at the end the completion object gets its signal, or ERROR when a word was discarded. -/
def Chip.engineRun (t : TileIx) (slot : Nat) : Nat → Nat → Chip → Chip
  | 0, _, c => c
  | n + 1, k, c =>
    if c.engineWaits t then c
    else match c.engineOf t with
      | [] => c
      | f :: fs => match f.left with
        | (w, d, p) :: left =>
          Chip.engineRun t slot n (k + 1) ((c.setEngine t ({ f with left } :: fs)).bufWrite t w .fillCopy d p (slot + k / 16))
        | [] =>
          let c := c.setEngine t fs
          match f.so with
          | some l => if f.lost then c.soSignalErr (soIx t l) 4 else c.soSignal (soIx t l) 1
          | none => c

/-- The tile's running fill or copy goes on as far as slot guards let it, from an access slot on (R120, R121); one of a pass that
has been halted before it began is retired without effect (R171). -/
def Chip.engineStep (c : Chip) (t : TileIx) (slot : Nat) : Chip :=
  match c.engineOf t with
  | [] => c
  | f :: fs =>
    if f.started then Chip.engineRun t slot (f.left.length + 1) 0 c
    else if f.pass.any fun p => c.fab.deviceHalt || c.runsDry t p then (c.setEngine t fs).dropOperands t f.sources
    else
      let g := c.operandsReady t f.sources
      if !g.2 then g.1
      else
        let r := g.1.readSources t f slot
        let c := r.1.setEngine t ({ f with started := true, left := r.2 } :: fs)
        Chip.engineRun t (slot + (f.sources.length + 15) / 16) (r.2.length + 1) 0 c

end Sys2Proof.Machine
end

