-- ==== Sys2Proof/Machine/VectorOps.lean ====
section
/-! DEFINITION. The vector unit's values and procedures (R52, R58, R138 to R146, R212 to R218, R362): registers and buffer
operands, fixed reductions, composites, ranking, numeric status. -/

namespace Sys2Proof.Machine

/-- Numeric events of an operation, by flag (R60): how many of each it raises. -/
structure NumEvents where
  nonfinite : Nat := 0
  inputSat : Nat := 0
  outSat : Nat := 0
  accRange : Nat := 0
  overflow : Nat := 0
  deriving DecidableEq, Repr

/-- The five flags of R60: bits 0 to 4 OUTLIER_OVF, NONFINITE, INPUT_SAT, OUT_SAT, ACC_RANGE. -/
def NumEvents.flags (e : NumEvents) : BitVec 5 :=
  BitVec.ofNat 5 (natOfBits ([e.overflow, e.nonfinite, e.inputSat, e.outSat, e.accRange].map fun n => decide (0 < n)))

/-- The events by source, ascending (R381). -/
def NumEvents.bySource (e : NumEvents) : List (Nat × BitVec 8) :=
  [(e.nonfinite, Src.nonfinite), (e.inputSat, Src.inputSat), (e.outSat, Src.outSat), (e.accRange, Src.accRange),
    (e.overflow, Src.outlierOvf)]

/-- The events that five flags stand for, one of each. -/
def eventsOf (flags : BitVec 5) : NumEvents :=
  let n := fun i => bit (flags.getLsbD i)
  { overflow := n 0, nonfinite := n 1, inputSat := n 2, outSat := n 3, accRange := n 4 }

/-- A layer slot's status word takes an operation's events (R48, R60): flags are set, chunks with excess qualifiers and
saturations are counted. -/
def NumStat.note (n : NumStat) (e : NumEvents) : NumStat :=
  { ovf := satAdd n.ovf e.overflow, sat := satAdd n.sat (e.inputSat + e.outSat), flags := n.flags ||| e.flags }

/-- Report an operation's events on a layer slot (R60, R61): each raises its source, in ascending order of source (R381). -/
def Chip.numericReport (c : Chip) (t : TileIx) (layer : BitVec 14) (e : NumEvents) (pass : Option Pass) : Chip :=
  if e = {} then c
  else
    let c := { c with arr := { c.arr with numeric := smod (fun _ => {}) c.arr.numeric layer.toNat (·.note e) } }
    let info : EventInfo := { detail := tileDetail t 0 layer.toNat, pass }
    e.bySource.foldl (fun c x => (List.range x.1).foldl (fun c _ => c.raise x.2 info) c) c

/-- The numeric status word (R60). -/
def NumStat.word (n : NumStat) : Word64 := regOf [fld 40 n.ovf, fld 16 n.sat, fld 0 n.flags]

/-- A vector register. Before its first write it holds 0 in every lane and no POISON (DESIGN CHOICE, log entry 2: the spec gives
no reset value). -/
def Chip.vreg (c : Chip) (t : TileIx) (r : BitVec 4) : VecVal := sget (fun _ => {}) c.vu.reg (16 * t.toNat + r.toNat)

/-- Write a vector register. -/
def Chip.setVreg (c : Chip) (t : TileIx) (r : BitVec 4) (v : VecVal) : Chip :=
  { c with vu := { c.vu with reg := sset (fun _ => {}) c.vu.reg (16 * t.toNat + r.toNat) v } }

/-- 64 lanes from a list; absent lanes are 0. -/
def lanesOf (xs : List (BitVec 32)) : Vector (BitVec 32) 64 := Vector.ofFn fun i => xs.getD i.val 0

/-- How an operation of the vector unit runs: its tile, the access slot that its operands' slots count from, the pass it works
for, and whether its results are POISON whatever its operands are (R133, R179). -/
structure VecCtx where
  t : TileIx
  base : Nat := 0
  pass : Option Pass := none
  poison : Bool := false
  deriving DecidableEq, Repr

/-- The buffer words of a vector operand. -/
def VecRef.words : VecRef → List WordIx
  | .reg _ => []
  | .buf w _ _ => (List.range 4).map fun i => w + BitVec.ofNat 11 i

/-- Read a vector operand that has passed its guard (R136, R146). -/
def Chip.readVec (c : Chip) (k : VecCtx) (x : VecRef) : Chip × VecVal :=
  match x with
  | .reg r => (c, c.vreg k.t r)
  | .buf w slot last =>
    let r := Chip.operandWords k.t (k.base + slot) last k.pass w 4 c
    (r.1, { lanes := lanesOf (r.2.1.flatMap wordLanes), poison := r.2.2 })

/-- Read several. -/
def Chip.readVecs (k : VecCtx) (xs : List VecRef) (c : Chip) : Chip × List VecVal :=
  xs.foldl (fun r x => let y := r.1.readVec k x; (y.1, r.2 ++ [y.2])) (c, [])

/-- Store words from a buffer word on, a bank's access slot for each 16 (R112, R119, R136). -/
def Chip.storeWords (c : Chip) (k : VecCtx) (w : WordIx) (slot : Nat) (ds : List (BitVec 512)) (poison : Bool) : Chip :=
  ds.zipIdx.foldl (fun c x =>
    c.bufWrite k.t (w + BitVec.ofNat 11 x.2) .vectorUnit x.1 (poison || k.poison) (k.base + slot + x.2 / 16)) c

/-- Write a vector operand. -/
def Chip.writeVec (c : Chip) (k : VecCtx) (x : VecRef) (v : VecVal) : Chip :=
  match x with
  | .reg r => c.setVreg k.t r { v with poison := v.poison || k.poison }
  | .buf w slot _ => c.storeWords k w slot ((chunksOf 16 4 v.lanes.toList).map lanesWord) v.poison

/-- Write several. -/
def Chip.writeVecs (c : Chip) (k : VecCtx) (xs : List VecRef) (vs : List VecVal) : Chip :=
  (xs.zip vs).foldl (fun c x => c.writeVec k x.1 x.2) c

/-- All elements of some vectors, in element order. -/
def elements (vs : List VecVal) : List (BitVec 32) := vs.flatMap fun v => v.lanes.toList

/-- One of them is POISON (R119). -/
def anyPoison (vs : List VecVal) : Bool := vs.any (·.poison)

/-- Elements as vectors of 64. -/
def vectorsOf (xs : List (BitVec 32)) (poison : Bool) : List VecVal :=
  (chunksOf 64 (xs.length / 64 + 1) xs).map fun l => { lanes := lanesOf l, poison }

/-- Lane by lane with one operand. -/
def VecVal.map (f : BitVec 32 → BitVec 32) (a : VecVal) : VecVal := { a with lanes := a.lanes.map f }

/-- Lane by lane with two operands. -/
def VecVal.map2 (f : BitVec 32 → BitVec 32 → BitVec 32) (a b : VecVal) : VecVal :=
  { lanes := a.lanes.zipWith f b.lanes, poison := a.poison || b.poison }

/-- Lane by lane with three operands. -/
def VecVal.map3 (f : BitVec 32 → BitVec 32 → BitVec 32 → BitVec 32) (a b d : VecVal) : VecVal :=
  { lanes := Vector.ofFn fun i => f a.lanes[i] b.lanes[i] d.lanes[i], poison := a.poison || b.poison || d.poison }

/-- A scalar occupies one vector (R146), in every lane (log entry 21). -/
def VecVal.splat (x : BitVec 32) (poison : Bool) : VecVal := { lanes := Vector.replicate 64 x, poison }

/-- One level of the pairwise tree across lanes. -/
def pairUp (op : BitVec 32 → BitVec 32 → BitVec 32) : List (BitVec 32) → List (BitVec 32)
  | a :: b :: xs => op a b :: pairUp op xs
  | xs => xs

/-- The fixed order of R140: lane-wise in ascending k, then the tree over 64 lanes. -/
def treeOf (op : BitVec 32 → BitVec 32 → BitVec 32) (xs : List (BitVec 32)) : BitVec 32 :=
  match chunksOf 64 (xs.length / 64 + 1) xs with
  | [] => 0
  | t :: rest => ((List.range 6).foldl (fun t _ => pairUp op t) (rest.foldl (List.zipWith op) t)).headD 0

/-- tree_sum and tree_max (R140). -/
def treeSum (xs : List (BitVec 32)) : BitVec 32 := treeOf addRne xs
def treeMax (xs : List (BitVec 32)) : BitVec 32 := treeOf max32 xs

/-- The terms of softmax against a maximum (R141): a maximum of −inf gives +0. -/
def softTerms (m k : BitVec 32) (s : List (BitVec 32)) : List (BitVec 32) :=
  if isNegInf32 m then s.map fun _ => 0 else s.map fun x => exp2Cr (mulRne (subRne x m) k)

/-- The division of the terms by their sum (R141). -/
def softNorm (m sum : BitVec 32) (p : List (BitVec 32)) : List (BitVec 32) :=
  if isNegInf32 m then p.map fun _ => 0 else p.map fun x => mulRne x (recipCr sum)

/-- Softmax (R141). -/
def softmaxOf (s : List (BitVec 32)) (k : BitVec 32) : List (BitVec 32) :=
  let m := treeMax s
  let p := softTerms m k s
  softNorm m (treeSum p) p

/-- A score that makes softmax raise NONFINITE (R141). -/
def badScore (x : BitVec 32) : Bool := isNan32 x || isPosInf32 x

/-- log₂ e rounded to FP32, and its negative (R144, R213). -/
def log2e : BitVec 32 := 0x3FB8_AA3B#32
def negLog2e : BitVec 32 := 0xBFB8_AA3B#32

/-- 1.0 in FP32. -/
def one32 : BitVec 32 := 0x3F80_0000#32

/-- The sum of squares of RMS normalisation (R142). -/
def squareSum (x : List (BitVec 32)) : BitVec 32 := treeSum (x.map fun v => mulRne v v)

/-- The scaling of RMS normalisation by a sum of squares (R142). -/
def rmsScale (sum : BitVec 32) (x g : List (BitVec 32)) (invN eps : BitVec 32) : List (BitVec 32) :=
  let r := rsqrtCr (addRne (mulRne sum invN) eps)
  List.zipWith (fun v w => mulRne (mulRne v r) w) x g

/-- RMS normalisation (R142). -/
def rmsnormOf (x g : List (BitVec 32)) (invN eps : BitVec 32) : List (BitVec 32) := rmsScale (squareSum x) x g invN eps

/-- One pair of the rotary arithmetic (R143). -/
def rotatePair (x y pos freq : BitVec 32) : BitVec 32 × BitVec 32 :=
  let a := BitVec.ofNat 32 (pos.toNat * freq.toNat)
  let k := cosCr a
  let s := sinCr a
  (fmaRne x k (neg32 (mulRne y s)), fmaRne x s (mulRne y k))

/-- SiLU and SwiGLU (R144). -/
def siluOf (x : BitVec 32) : BitVec 32 := mulRne x (recipCr (addRne one32 (exp2Cr (mulRne x negLog2e))))
def swigluOf (a b : BitVec 32) : BitVec 32 := mulRne (siluOf a) b

/-- `x` ranks above `y` whatever their indices (R145): NaN ranks below −inf. -/
def ranksAbove (x y : BitVec 32) : Bool := if isNan32 x then false else isNan32 y || lt32 y x

/-- Put a value in its place: below those it equals, which have lower indices. -/
def rankInsert32 {α : Type} (v : α → BitVec 32) (x : α) : List α → List α
  | [] => [x]
  | y :: ys => if ranksAbove (v x) (v y) then x :: y :: ys else y :: rankInsert32 v x ys

/-- The first `k` in rank order of items in ascending index (R145). -/
def rankTop {α : Type} (v : α → BitVec 32) (k : Nat) (xs : List α) : List α :=
  xs.foldl (fun acc x => (rankInsert32 v x acc).take k) []

/-- Values with their indices. -/
def indexed {α : Type} (xs : List α) : List (Nat × α) := (List.range xs.length).zip xs

/-- −inf, the padding of scores. -/
def padTo64 (xs : List (BitVec 32)) : List (BitVec 32) := xs ++ List.replicate ((64 - xs.length % 64) % 64) (inf32 true)

/-- Gate weights of the selected scores (R213). -/
def gatesOf (mode1 : Bool) (scores : List (BitVec 32)) (top : List (Nat × BitVec 32)) : List (BitVec 32) :=
  if mode1 then (softmaxOf (padTo64 (top.map (·.2))) log2e).take top.length
  else
    let w := softmaxOf (padTo64 scores) log2e
    top.map fun x => w.getD x.1 0

/-- The expert-slot table of a layer and variant (R214). -/
def Chip.expertTable (c : Chip) (layer : BitVec 14) (variant : BitVec 6) : Option ExpertTable :=
  c.rcp.active.bind fun r => r.experts.bind fun ts => ts.find? fun x => x.layer == layer && x.variant == variant

/-- The first and second expert stages of selected entries in rank order (R215): of a pair selected whole, the member
ranked lower runs in the second stage. -/
def splitStages (es : List ExpertEntry) : List Nat → List Nat → List Nat × List Nat
  | [], _ => ([], [])
  | n :: ns, before =>
    let r := splitStages es ns (n :: before)
    -- a pair: two entries that name each other (R214)
    let collides := match es[n]?.bind (·.partner) with
      | some p => before.contains p && (es[p]?.bind (·.partner)) == some n
      | none => false
    if collides then (r.1, n :: r.2) else (n :: r.1, r.2)

/-- Add to a list what it does not hold. -/
def unionList (a b : List Nat) : List Nat := a ++ b.filter fun x => !a.contains x

/-- Record a router's choice (R215, R227): positions of one pass add to one choice; a layer's first collision is counted. -/
def Chip.noteRoute (c : Chip) (p : Pass) (layer : BitVec 14) (variant : BitVec 6) (first second : List Nat) : Chip :=
  let fits := fun (r : RouteChoice) => r.pass == p && r.layer == layer && r.variant == variant
  let old := c.arr.routes.find? fits
  let had := (old.map fun r => !r.second.isEmpty).getD false
  let c := if !had && !second.isEmpty then { c with rcp := { c.rcp with collisions := satAdd c.rcp.collisions 1 } } else c
  let rs := match old with
    | some _ => c.arr.routes.map fun r =>
        if fits r then { r with selected := unionList r.selected first, second := unionList r.second second } else r
    | none => c.arr.routes ++ [({ pass := p, layer, variant, selected := first, second } : RouteChoice)]
  -- a choice of a pass no longer known on the device is not needed again
  { c with arr := { c.arr with routes := rs.filter fun r => r.pass == p || c.hasBegun r.pass } }

/-- The streaming sections of an expert-slot entry, with their numbers (R217). -/
def Chip.sectionsOf (c : Chip) (layer : BitVec 14) (variant : BitVec 6) (entry : Nat) : List (StreamSec × Nat) :=
  ((c.rcp.active.map (·.streams)).getD []).zipIdx.filter fun s =>
    s.1.layer == layer && s.1.variant == variant && s.1.expert == entry

/-- A streamed expert is resident (R218). -/
def Chip.isResident (c : Chip) (layer : BitVec 14) (variant : BitVec 6) (entry : Nat) : Bool :=
  (c.sectionsOf layer variant entry).any fun s => c.rcp.resident.contains s.2

/-- Two streams take a common S-array. -/
def Chip.sharesTarget (c : Chip) (s : StreamSec) (n : Nat) : Bool :=
  (c.streamSec n).any fun x => x.targets.any fun t => s.targets.contains t

/-- How recently the residents that a section's stream would evict were used: 0 when it evicts none (R218). -/
def Chip.victimRank (c : Chip) (s : StreamSec) : Nat :=
  c.rcp.resident.zipIdx.foldl (fun r x => if c.sharesTarget s x.1 then max r (x.2 + 1) else r) 0

/-- Of an expert's sections the one whose stream evicts the expert longest without use (R218). -/
def Chip.pickSection (c : Chip) (ss : List (StreamSec × Nat)) : Option (StreamSec × Nat) :=
  match ss with
  | [] => none
  | s :: rest => some (rest.foldl (fun b x => if c.victimRank x.1 < c.victimRank b.1 then x else b) s)

/-- The guarding object of a stream takes its activation values when the stream starts (DESIGN CHOICE, log entry 30). -/
def Chip.rearmGuard (c : Chip) (i : SoIx) : Chip :=
  match c.rcp.active.bind fun r => r.desc.objects.find? fun o => o.index == i with
  | some o => Chip.afterSo (c.soLoad i o.count o.limit o.tclass o.auto) i
  | none => c

/-- Start a stream (R217, R218, R227): what lives in its S-arrays is evicted; its guard is at its first values. -/
def Chip.startStream (c : Chip) (s : StreamSec) (n : Nat) (w : Byte) : Chip :=
  let c : Chip := { c with rcp := { c.rcp with
    resident := c.rcp.resident.filter fun k => !c.sharesTarget s k
    streaming := (c.rcp.streaming.filter fun k => !c.sharesTarget s k) ++ [n], streams := c.rcp.streams + 1 } }
  (c.rearmGuard s.guard).modLoad fun l => { l with requests := l.requests ++ [.stream n w] }

/-- Start the streams of wanted experts whose ISSUE is the stage of this router result (R217, R218). -/
def Chip.startWanted (c : Chip) (stage : BitVec 14) : Chip :=
  let ws := c.rcp.wanted
  let c : Chip := { c with rcp := { c.rcp with wanted := [] } }
  ws.foldl (fun c k => match c.pickSection ((c.sectionsOf k.1 k.2.1 k.2.2.1).filter fun s => s.1.issue == stage) with
    | some s => c.startStream s.1 s.2 k.2.2.2
    | none => { c with rcp := { c.rcp with wanted := c.rcp.wanted ++ [k] } }) c

/-- The router selects a cold expert (R218): a resident one becomes the most recently used; another is wanted. -/
def Chip.useStreamed (c : Chip) (layer : BitVec 14) (variant : BitVec 6) (w : Byte) (entry : Nat) : Chip :=
  let mine := (c.sectionsOf layer variant entry).map (·.2)
  let used := c.rcp.resident.filter fun n => mine.contains n
  let key := (layer, variant, entry, w)
  if !used.isEmpty then { c with rcp := { c.rcp with resident := (c.rcp.resident.filter fun n => !mine.contains n) ++ used } }
  else if (c.rcp.streaming.any fun n => mine.contains n) || c.rcp.wanted.contains key then c
  else { c with rcp := { c.rcp with wanted := c.rcp.wanted ++ [key] } }

/-- The term of one lane entry on each weight of a row (R52), and how many used an invalid scale (R35). -/
def laneTerms (f : WFmt) (bits : BitVec 1024) (scale : Nat → Byte) (x : BitVec 16) : List Int × Nat :=
  match dyOfBf16 x with
  | none => ([], 0)
  | some d =>
    let js := List.range (WFmt.perRow f)
    (js.map fun j => laneTerm d (weightValue f fun k => bits.getLsbD (WFmt.cols f * j + k)) (scale j),
     (js.filter fun j => invalidScale (scale j)).length)

/-- The held value of an accumulator for a pass (R53): a pass that has added nothing finds 0. -/
def Chip.accHeld (c : Chip) (t : TileIx) (i : Nat) (p : Pass) : Acc :=
  let x := c.accOf t i
  if x.pass = p then x else { value := 0, pass := p, poison := false }

/-- A tensor of the active recipe (R36, R49). -/
def Chip.tensor (c : Chip) (n : Nat) : Option Tensor := c.rcp.active.bind fun r => r.quant.tensors[n]?

/-- The range bound of a tensor in a layer slot, in units of 2⁻²⁴; 0: none is checked (R209, R222, R362). -/
def Chip.rangeBound (c : Chip) (layer : BitVec 14) (tensor : Nat) : Nat :=
  ((c.rcp.active.bind fun r => r.integrity.bounds.find? fun b => b.1 == layer && b.2.1 == tensor).map (·.2.2)).getD 0

/-- The checks at output conversion (R54, R362): each accumulator above the tensor's bound raises RANGE_CHECK; with how many
reached 2⁵⁴. -/
def Chip.checkOutputs (c : Chip) (t : TileIx) (xs : List Acc) (bound : Nat) (layer : BitVec 14) (p : Pass) : Chip × Nat :=
  let above := xs.filter fun x => bound ≠ 0 && decide (bound < x.value.toInt.natAbs)
  let info : EventInfo := { detail := tileDetail t 0 layer.toNat, pass := some p }
  (above.foldl (fun c _ => c.raise Src.rangeCheck info) c, (xs.filter fun x => accRange x.value).length)

/-- The pass a tile works on in a lane. -/
def Chip.passOn (c : Chip) (t : TileIx) (chunk : Bool) : Option Pass := (c.tileRun t chunk).pass

end Sys2Proof.Machine
end

