-- ==== Sys2Proof/Machine/SampleOps.lean ====
section
/-! DEFINITION. The sampling unit (R296 to R299): parameter sets, biases, the merge of candidates and the draw. -/

namespace Sys2Proof.Machine

/-- Fields of a parameter set (R296). -/
def setTemp (s : List Byte) : BitVec 32 := BitVec.ofNat 32 (leAt s 0 4)
def setTopP (s : List Byte) : BitVec 32 := BitVec.ofNat 32 (leAt s 4 4)
def setMinP (s : List Byte) : BitVec 32 := BitVec.ofNat 32 (leAt s 8 4)
def setTopK (s : List Byte) : Nat := leAt s 12 1
def setBiases (s : List Byte) : List (BitVec 32 × BitVec 32) :=
  (List.range (leAt s 13 1)).map fun i => (BitVec.ofNat 32 (leAt s (16 + 8 * i) 4), BitVec.ofNat 32 (leAt s (20 + 8 * i) 4))
def setStops (s : List Byte) : List (BitVec 32) := (List.range (leAt s 14 1)).map fun i => BitVec.ofNat 32 (leAt s (272 + 4 * i) 4)

/-- +0 or −0. -/
def isZero32 (x : BitVec 32) : Bool := x.extractLsb' 0 31 == 0

/-- `x >= y` of the pseudocode: false for a NaN. -/
def ge32 (x y : BitVec 32) : Bool := !isNan32 x && !isNan32 y && !lt32 x y

/-- A set obeys the rules of R296. -/
def setOk (s : List Byte) : Bool :=
  let t := setTemp s
  let p := setTopP s
  let m := setMinP s
  s.length == 336 && (isZero32 t || (!nonfinite32 t && lt32 0 t)) && lt32 0 p && ge32 one32 p
    && (isZero32 m || lt32 0 m) && lt32 m one32 && inRange 1 64 (setTopK s) && decide (leAt s 13 1 ≤ 32)
    && decide (leAt s 14 1 ≤ 16) && leAt s 15 1 == 0
    && (setBiases s).all fun b => !nonfinite32 b.2 || isNegInf32 b.2

/-- The biases of a set added to a token's logit (R297). -/
def biasOf (s : List Byte) (token x : BitVec 32) : BitVec 32 :=
  (setBiases s).foldl (fun x b => if b.1 = token then addRne x b.2 else x) x

/-- kmix() of R299. -/
def kmix (x : BitVec 64) : BitVec 64 :=
  let x := x ^^^ (x >>> 29)
  let x := x * 0xC2B7_3A4D_95E1_6F2B
  let x := x ^^^ (x >>> 31)
  let x := x * 0x8F3D_17A9_E64B_5C27
  x ^^^ (x >>> 28)

/-- draw24() of R299. -/
def draw24 (seed : BitVec 64) (pos : BitVec 32) (use : Byte) : BitVec 32 :=
  let x := kmix (seed ^^^ kmix ((pos.setWidth 64 <<< 8) ||| use.setWidth 64))
  let x := kmix (x + 0x5F3A_C921_7E4D_B86D)
  (x >>> 40).setWidth 32

/-- Insert a candidate in ascending token order. -/
def tokenInsert (x : BitVec 32 × BitVec 32) : List (BitVec 32 × BitVec 32) → List (BitVec 32 × BitVec 32)
  | [] => [x]
  | y :: ys => if x.1.toNat < y.1.toNat then x :: y :: ys else y :: tokenInsert x ys

/-- The merge of R297: the first `k` in rank order, equal values by token, without −inf and NaN. -/
def mergeCands (k : Nat) (xs : List (BitVec 32 × BitVec 32)) : List (BitVec 32 × BitVec 32) :=
  let sorted := (xs.filter fun x => x.1 != 0xFFFF_FFFF).foldl (fun acc x => tokenInsert x acc) []
  (rankTop (·.2) k sorted).filter fun x => !isNan32 x.2 && !isNegInf32 x.2

/-- The loop of R298 over the candidates: the running sums until a weight falls below MIN_P. -/
def runningSums (k top minP : BitVec 32) : BitVec 32 → List (BitVec 32 × BitVec 32) → List (BitVec 32)
  | _, [] => []
  | s, x :: xs =>
    let e := exp2Cr (mulRne (subRne x.2 top) k)
    if lt32 e minP then []
    else
      let s := addRne s e
      s :: runningSums k top minP s xs

/-- sample() of R298, over n ≥ 1 candidates in rank order; none without candidates. -/
def sampleToken (cs : List (BitVec 32 × BitVec 32)) (set : List Byte) (seed : BitVec 64) (pos : BitVec 32) : Option (BitVec 32) :=
  match cs with
  | [] => none
  | c0 :: _ =>
    if isZero32 (setTemp set) || isPosInf32 c0.2 then some c0.1
    else
      let k := mulRne log2e (recipCr (setTemp set))
      let cum := runningSums k c0.2 (setMinP set) 0 cs
      let m := cum.length
      let lim := mulRne (setTopP set) (cum.getD (m - 1) 0)
      let keep := (cum.findIdx? fun x => ge32 x lim).elim m (· + 1)
      let t := mulRne (round32 false (draw24 seed pos 0).toNat (-24)) (cum.getD (keep - 1) 0)
      let i := (((cum.take keep).findIdx? fun x => lt32 t x)).getD (keep - 1)
      (cs[i]?).map (·.1)

end Sys2Proof.Machine
end

