-- ==== Sys2Proof/Machine/VecRun.lean ====
section
/-! DEFINITION. The operations of the vector unit (R138 to R146, R212 to R218, R42 to R59): what each does once its operands
have passed their slots' guards, and how an operation waits for them (R110, R136). Each emits its cost in u (R146). -/

namespace Sys2Proof.Machine

/-- The cost of an operation (R146). -/
def Chip.cost (c : Chip) (u : Nat) : Chip := c.emit (.duration u)

/-- A buffer word in parts of `n` bits, the lowest first. -/
def partsOf (n : Nat) (d : BitVec 512) : List (BitVec n) := (List.range (512 / n)).map fun i => d.extractLsb' (n * i) n

/-- Accumulator `i` of an accumulators payload (R59). -/
def payloadAcc (d : BitVec 512) (i : Nat) : BitVec 80 := d.extractLsb' (80 * i) 80

/-- The accumulators payload of six accumulators: bytes 60 to 63 are zero (R59). -/
def accPayload (xs : List Acc) : BitVec 512 := wordOfBytes (xs.flatMap fun x => leBytes 10 x.value.toNat)

/-- The held value of an accumulator for a pass (R53): a pass that has added nothing finds 0. -/
def Chip.heldAccs (c : Chip) (t : TileIx) (first n : Nat) (p : Pass) : List Acc :=
  (List.range n).map fun i => c.accHeld t (first + i) p

/-- Add an accumulators payload (R53, R59, R111). -/
def Chip.addPayload (c : Chip) (t : TileIx) (first : Nat) (p : Pass) (d : BitVec 512) (poison : Bool) : Chip :=
  (List.range 6).foldl (fun c i => c.addAcc t (first + i) p (payloadAcc d i) poison) c

/-- Buffer words of a load in each form (R59, R146). -/
def VForm.words : VForm → Nat
  | .fp32 => 4
  | .bf16 => 2
  | .a8 _ | .accs _ _ => 1

/-- VU_LOAD (R35, R58, R59, R111, R146). -/
def Chip.doVuLoad (c : Chip) (k : VecCtx) (form : VForm) (dst : BitVec 4) (word : WordIx) (slot : Nat) (last : Bool) : Chip :=
  let r := Chip.operandWords k.t (k.base + slot) last k.pass word (VForm.words form) c
  let c := r.1
  let put := fun (xs : List (BitVec 32)) => c.setVreg k.t dst { lanes := lanesOf xs, poison := r.2.2 || k.poison }
  match form with
  | .fp32 => (put (r.2.1.flatMap wordLanes)).cost 12
  | .bf16 => (put (r.2.1.flatMap fun d => (partsOf 16 d).map bf16To32)).cost 8
  | .a8 scale =>
    let u := scaleUnits scale
    (put (r.2.1.flatMap fun d => (partsOf 8 d).map fun b => round32 (decide (b.toInt < 0)) (b.toInt.natAbs * u) (-9))).cost 6
  | .accs first pass => (c.addPayload k.t first.toNat pass (r.2.1.headD 0) (r.2.2 || k.poison)).cost 2

/-- VU_STORE (R44, R58, R59, R146): BF16 by R58, A8 by R44 under the scale given. In A8 form a NaN or an infinity is stored as 0
and raises NONFINITE, as A8 preparation has it (DESIGN CHOICE, log entry 37: R58 names preparation, softmax and ranking). -/
def Chip.doVuStore (c : Chip) (k : VecCtx) (form : VForm) (src : BitVec 4) (word : WordIx) (slot : Nat) (layer : BitVec 14) : Chip :=
  let v := c.vreg k.t src
  let xs := v.lanes.toList
  match form with
  | .fp32 => (c.writeVec k (.buf word slot) v).cost 10
  | .bf16 =>
    let ys := xs.map f32ToBf16
    let ds := (chunksOf 32 2 ys).map fun l => wordOfBytes (l.flatMap fun y => leBytes 2 y.1.toNat)
    let c := c.numericReport k.t layer { outSat := (ys.filter (·.2)).length } k.pass
    (c.storeWords k word slot ds v.poison).cost 6
  | .a8 scale =>
    let qs := xs.map fun x => quantise ((dyOf32 x).getD ⟨0, 0⟩) scale
    let c := c.numericReport k.t layer { nonfinite := bit (xs.any nonfinite32) } k.pass
    (c.storeWords k word slot [wordOfBytes (qs.map fun q => BitVec.ofInt 8 q)] v.poison).cost 4
  | .accs first pass =>
    let as := c.heldAccs k.t first.toNat 6 pass
    c.storeWords k word slot [accPayload as] (as.any (·.poison))

/-- The elementary operation of a code (R138). -/
def arithOf : VArith → BitVec 32 → BitVec 32 → BitVec 32
  | .add => addRne
  | .sub => subRne
  | .mul => mulRne
  | .max => max32
  | .min => min32

/-- One operand into one result, lane by lane. -/
def Chip.vecOp1 (c : Chip) (k : VecCtx) (f : BitVec 32 → BitVec 32) (dst a : VecRef) (u : Nat) : Chip :=
  let x := c.readVec k a
  (x.1.writeVec k dst (x.2.map f)).cost u

/-- Two operands into one result, lane by lane. -/
def Chip.vecOp2 (c : Chip) (k : VecCtx) (f : BitVec 32 → BitVec 32 → BitVec 32) (dst a b : VecRef) (u : Nat) : Chip :=
  let x := c.readVec k a
  let y := x.1.readVec k b
  (y.1.writeVec k dst (x.2.map2 f y.2)).cost u

/-- VU_CONVERT (R58): a BF16 value stands in a lane as the FP32 value it equals. -/
def Chip.doVuConvert (c : Chip) (k : VecCtx) (toBf16 : Bool) (dst a : VecRef) (layer : BitVec 14) : Chip :=
  if toBf16 then
    let x := c.readVec k a
    let ys := x.2.lanes.toList.map f32ToBf16
    let c := x.1.numericReport k.t layer { outSat := (ys.filter (·.2)).length } k.pass
    (c.writeVec k dst { lanes := lanesOf (ys.map fun y => bf16To32 y.1), poison := x.2.poison }).cost 1
  else c.vecOp1 k (fun v => if isNan32 v then nan32 else v) dst a 1

/-- VU_FMA (R138): one rounding of a × b + d. -/
def Chip.doVuFma (c : Chip) (k : VecCtx) (dst a b d : VecRef) : Chip :=
  let x := c.readVec k a
  let y := x.1.readVec k b
  let z := y.1.readVec k d
  (z.1.writeVec k dst (x.2.map3 fmaRne y.2 z.2)).cost 3

/-- A reduction over v vectors, v at least 1 (R140). -/
def Chip.reduce (c : Chip) (k : VecCtx) (f : List (BitVec 32) → BitVec 32) (dst : VecRef) (src : List VecRef) (u : Nat) : Chip :=
  if src.isEmpty then c
  else
    let r := Chip.readVecs k src c
    (r.1.writeVec k dst (VecVal.splat (f (elements r.2)) (anyPoison r.2))).cost u

/-- The scalar that a vector carries in every lane (R146, log entry 21). -/
def VecVal.scalar (v : VecVal) : BitVec 32 := v.lanes.toList.headD 0

/-- VU_SOFTMAX (R141, R213): `gate` is gate_softmax, whose constant is log₂ e. A part of a split softmax applies its own steps;
scores enter, and may raise NONFINITE, where the maximum is taken. The cost of a part is the cost of the whole over it. -/
def Chip.doVuSoftmax (c : Chip) (k : VecCtx) (part : SoftPart) (dst src : List VecRef) (scale : BitVec 32) (gate : Bool)
    (layer : BitVec 14) : Chip :=
  if src.isEmpty then c
  else
    let r := Chip.readVecs k src c
    let xs := elements r.2
    let pz := anyPoison r.2
    let s := if gate then log2e else scale
    let u := 12 * src.length + 15
    let report := fun (c : Chip) => c.numericReport k.t layer { nonfinite := bit (xs.any badScore) } k.pass
    match part with
    | .whole => ((report r.1).writeVecs k dst (vectorsOf (softmaxOf xs s) pz)).cost u
    | .max => ((report r.1).writeVecs k dst [VecVal.splat (treeMax xs) pz]).cost u
    | .terms m sum =>
      let x := r.1.readVec k m
      let p := softTerms x.2.scalar s xs
      let pz := pz || x.2.poison
      ((x.1.writeVecs k dst (vectorsOf p pz)).writeVec k sum (VecVal.splat (treeSum p) pz)).cost u
    | .norm m sum =>
      let x := r.1.readVec k m
      let y := x.1.readVec k sum
      (y.1.writeVecs k dst (vectorsOf (softNorm x.2.scalar y.2.scalar xs) (pz || x.2.poison || y.2.poison))).cost u

/-- VU_RMSNORM (R142, R146): whole, or a part of a split normalisation. -/
def Chip.doVuRmsnorm (c : Chip) (k : VecCtx) (part : RmsPart) (dst src g : List VecRef) (invN eps : BitVec 32) : Chip :=
  if src.isEmpty then c
  else
    let r := Chip.readVecs k src c
    let xs := elements r.2
    let pz := anyPoison r.2
    let u := 6 * src.length + 16
    match part with
    | .squares => (r.1.writeVecs k dst [VecVal.splat (squareSum xs) pz]).cost u
    | .whole =>
      let y := Chip.readVecs k g r.1
      (y.1.writeVecs k dst (vectorsOf (rmsnormOf xs (elements y.2) invN eps) (pz || anyPoison y.2))).cost u
    | .scale sum =>
      let z := r.1.readVec k sum
      let y := Chip.readVecs k g z.1
      (y.1.writeVecs k dst (vectorsOf (rmsScale z.2.scalar xs (elements y.2) invN eps)
        (pz || z.2.poison || anyPoison y.2))).cost u

/-- VU_ROTARY (R143): 64 pairs, in place. -/
def Chip.doVuRotary (c : Chip) (k : VecCtx) (x y : VecRef) (pos : BitVec 32) (freq : List (BitVec 32)) : Chip :=
  let a := c.readVec k x
  let b := a.1.readVec k y
  let r := (List.range 64).map fun i => rotatePair (a.2.lanes.toList.getD i 0) (b.2.lanes.toList.getD i 0) pos (freq.getD i 0)
  let pz := a.2.poison || b.2.poison
  let c := b.1.writeVec k x { lanes := lanesOf (r.map (·.1)), poison := pz }
  (c.writeVec k y { lanes := lanesOf (r.map (·.2)), poison := pz }).cost 18

/-- The scores that gate_softmax takes (R213). -/
def gateInputs (mode1 : Bool) (scores : List (BitVec 32)) (top : List (Nat × BitVec 32)) : List (BitVec 32) :=
  if mode1 then top.map (·.2) else scores

/-- WEPOCH of a pass on this device. -/
def Chip.passEpoch (c : Chip) (p : Option Pass) : Byte :=
  ((p.bind fun n => c.rcp.passes.find? fun x => x.pass == n).map (·.wepoch)).getD c.activeW

/-- VU_ROUTER_TOPK (R145, R212 to R218): ranks the E scores of the layer's table, selects k, forms the gate weights and the two
expert stages, and starts the streams of cold experts that are not resident, experts in ascending index. A layer and variant
without a table has no router. -/
def Chip.doVuRouterTopk (c : Chip) (k : VecCtx) (scores : List VecRef) (layer : BitVec 14) (variant : BitVec 6) : Chip :=
  match c.expertTable layer variant with
  | none => c
  | some table =>
    let r := Chip.readVecs k scores c
    let xs := (elements r.2).take table.e
    let top := rankTop (·.2) table.k (indexed xs)
    let bad := xs.any isNan32 || (gateInputs table.gateMode xs top).any badScore
    let c := r.1.numericReport k.t layer { nonfinite := bit bad } k.pass
    let chosen := top.filterMap fun y => table.entries.findIdx? fun z => z.expert == y.1 && z.cls != 3
    let st := splitStages table.entries chosen []
    let c := match k.pass with
      | some p => c.noteRoute p layer variant st.1 st.2
      | none => c
    let cold := (List.range table.entries.length).filter fun n =>
      chosen.contains n && (table.entries[n]?.map fun z => z.cls == 2).getD false
    let c := (cold.foldl (fun c n => c.useStreamed layer variant (c.passEpoch k.pass) n) c).startWanted layer
    (c.emit (.routed layer st.1 st.2 (gatesOf table.gateMode xs top))).cost (2 * ((table.e + 63) / 64) + 3 * table.k)

/-- A logit with the biases of the parameter set of the request whose pass the tile works on (R297). -/
def Chip.biased (c : Chip) (pass : Option Pass) (token x : BitVec 32) : BitVec 32 :=
  let req := pass.bind fun p => (c.rcp.passes.find? fun y => y.pass == p).map (·.req)
  let set := (req.bind c.hotEntry).bind fun e => sget (fun _ => none) c.serve.sparams e.spidx.toNat
  match set with
  | some bs => biasOf bs token x
  | none => x

/-- VU_CANDIDATE_SELECT (R145, R297): up to 64 of m logits in rank order, with their token indices. -/
def Chip.doVuCandidateSelect (c : Chip) (k : VecCtx) (logits : List VecRef) (m n : Nat) (firstToken : BitVec 32)
    (layer : BitVec 14) : Chip :=
  let r := Chip.readVecs k logits c
  let xs := (elements r.2).take m
  let c := r.1.numericReport k.t layer { nonfinite := bit (xs.any isNan32) } k.pass
  let biased := (indexed xs).map fun y => (y.1, c.biased k.pass (firstToken + BitVec.ofNat 32 y.1) y.2)
  let top := (rankTop (·.2) (min 64 n) biased).map fun y => (firstToken + BitVec.ofNat 32 y.1, y.2)
  (c.emit (.candidates top)).cost (2 * ((m + 63) / 64) + n)

/-- The lane's payload words (R59): 16 entries of 4 bytes each. -/
def laneWords (lane : List (Nat × BitVec 16)) (capacity : Nat) : List (BitVec 512) :=
  let bytes := lane.flatMap fun x => leBytes 2 x.1 ++ leBytes 2 x.2.toNat
  (List.range ((capacity + 15) / 16)).map fun i => wordOfBytes (bytesAt bytes (64 * i) 64)

/-- The exact values A8 preparation reads and POISON, after the checks at output, with how many accumulators reached 2⁵⁴ (R42,
R54, R57, R362). -/
def Chip.a8Values (c : Chip) (k : VecCtx) (src : A8Source) (layer : BitVec 14) : Chip × List (Option Dy) × Bool × Nat :=
  match src with
  | .vecs xs =>
    let r := Chip.readVecs k xs c
    (r.1, (elements r.2).map dyOf32, anyPoison r.2, 0)
  | .accs first blocks tensor p =>
    let xs := c.heldAccs k.t first.toNat (64 * blocks) p
    let r := c.checkOutputs k.t xs (c.rangeBound layer tensor) layer p
    let scale := ((c.tensor tensor).map (·.scale)).getD 0
    (r.1, xs.map fun a => accTimes a.value scale, xs.any (·.poison), r.2)

/-- The pass an A8 preparation works for. -/
def A8Source.pass (src : A8Source) (p : Option Pass) : Option Pass :=
  match src with
  | .accs _ _ _ q => some q
  | .vecs _ => p

/-- Where the scales of chunk `n` of a tensor begin in their payload (R59). -/
def Tensor.scaleOffset (x : Tensor) (n : Nat) : Nat := n * (x.chunk / 64) % 64

/-- VU_A8_PREPARE (R42 to R49, R57, R59): chunk `n` of a vector under the tensor's outlier-lane parameters, into its A8 blocks,
its block scales and its outlier lane. Its scales stand in the payload of their group of 64 blocks: the scales before them stay,
bytes above them are 0 (DESIGN CHOICE, log entry 35). -/
def Chip.doVuA8Prepare (c : Chip) (k : VecCtx) (src : A8Source) (tensor n : Nat) (layer : BitVec 14)
    (dst scaleDst laneDst : WordIx) (slot : Nat) : Chip :=
  match c.tensor tensor with
  | none => c
  | some x =>
    let v := c.a8Values k src layer
    let r := prepareA8 (v.2.1.take x.chunk) x.th.toNat x.lane
    let e : NumEvents := { nonfinite := bit r.nonfinite, inputSat := r.inputSat, accRange := v.2.2.2, overflow := bit r.overflow }
    let c := v.1.numericReport k.t layer e (A8Source.pass src k.pass)
    let poison := v.2.2.1
    let blocks := (chunksOf 64 r.scales.length r.elems).map fun b => wordOfBytes (b.map fun q => BitVec.ofInt 8 q)
    let c := c.storeWords k dst slot blocks poison
    let off := x.scaleOffset n
    let old := if off = 0 then (c, (0 : BitVec 512), false) else c.readWord k.t scaleDst (k.base + slot) 0 k.pass
    let scales := (leBytes 64 old.2.1.toNat).take off ++ r.scales
    let c := old.1.storeWords k scaleDst slot [wordOfBytes scales] (poison || old.2.2)
    (c.storeWords k laneDst slot (laneWords r.lane x.lane) poison).cost (4 * r.scales.length + 10)

/-- The row's bits an outlier-lane entry uses: those of the last row read of the array, when it is that row (R78, R80). -/
def Chip.laneRow (c : Chip) (t : TileIx) (a : ArrRef) (row : Nat) : BitVec 1024 :=
  match (c.tileArr t).rowRead with
  | some (b, r, x, _) => if b = a ∧ r = row then x else c.arrRow t a row
  | none => c.arrRow t a row

/-- VU_OUTLIER_LANE_ENTRY (R35, R52, R55, R80): the row read and its multiply-accumulate. -/
def Chip.doVuOutlierLaneEntry (c : Chip) (k : VecCtx) (a : ArrRef) (fmt : WFmt) (row : BitVec 8) (value : BitVec 16)
    (acc : BitVec 11) (pass : Pass) (layer : BitVec 14) : Chip :=
  let u := 6 + 2 * ((WFmt.perRow fmt + 63) / 64)
  -- an entry with value 0x0000 is empty (R59)
  if value = 0 then c.cost u
  else
    let r := laneTerms fmt (c.laneRow k.t a row.toNat) (c.weightScale k.t a (row.toNat / 64)) value
    let c := (indexed r.1).foldl (fun c x => c.addAcc k.t (acc.toNat + x.1) pass (accWord x.2) k.poison) c
    let info : EventInfo := { detail := tileDetail k.t 0 layer.toNat, pass := some pass }
    ((List.range r.2).foldl (fun (c : Chip) _ => c.raise Src.invalidScale info) c).cost u

/-- VU_OUTPUT_CONVERT (R54, R56, R362): 64 accumulators times the tensor's scale, to BF16. -/
def Chip.doVuOutputConvert (c : Chip) (k : VecCtx) (acc : BitVec 11) (tensor : Nat) (layer : BitVec 14) (pass : Pass)
    (dst : VecRef) : Chip :=
  match c.tensor tensor with
  | none => c
  | some x =>
    let xs := c.heldAccs k.t acc.toNat 64 pass
    let r := c.checkOutputs k.t xs (c.rangeBound layer tensor) layer pass
    let ys := xs.map fun a => outBf16 ((accTimes a.value x.scale).getD ⟨0, 0⟩)
    let c := r.1.numericReport k.t layer { outSat := (ys.filter (·.2)).length, accRange := r.2 } (some pass)
    (c.writeVec k dst { lanes := lanesOf (ys.map fun y => bf16To32 y.1), poison := xs.any (·.poison) }).cost 2

/-- The buffer words that an operation of the vector unit reads. -/
def vecWords : Instr → List WordIx
  | .vuLoad _ form _ word _ _ => (List.range (VForm.words form)).map fun i => word + BitVec.ofNat 11 i
  | .vuArith _ _ _ a b => [a, b].flatMap VecRef.words
  | .vuConvert _ _ _ a _ => VecRef.words a
  | .vuFma _ _ a b d => [a, b, d].flatMap VecRef.words
  | .vuExp2 _ _ a | .vuReciprocal _ _ a | .vuRsqrt _ _ a | .vuSilu _ _ a => VecRef.words a
  | .vuTreeSum _ _ src | .vuTreeMax _ _ src => src.flatMap VecRef.words
  | .vuSoftmax _ part _ src _ _ _ => src.flatMap VecRef.words ++ (match part with
    | .terms m _ => VecRef.words m
    | .norm m sum => VecRef.words m ++ VecRef.words sum
    | .whole | .max => [])
  | .vuRmsnorm _ part _ src g _ _ => src.flatMap VecRef.words ++ (match part with
    | .squares => []
    | .whole => g.flatMap VecRef.words
    | .scale sum => VecRef.words sum ++ g.flatMap VecRef.words)
  | .vuRotary _ x y _ _ => VecRef.words x ++ VecRef.words y
  | .vuSwiglu _ _ a b => VecRef.words a ++ VecRef.words b
  | .vuRouterTopk _ scores _ _ _ => scores.flatMap VecRef.words
  | .vuCandidateSelect _ logits _ _ _ _ => logits.flatMap VecRef.words
  | .vuA8Prepare _ src _ _ _ _ _ _ _ => (match src with
    | .vecs xs => xs.flatMap VecRef.words
    | .accs _ _ _ _ => [])
  | _ => []

/-- Carry out an operation of the vector unit, its operands past their guards; other commands are none of it. -/
def Chip.runVec (c : Chip) (k : VecCtx) : Instr → Chip
  | .vuLoad _ form dst word slot last => c.doVuLoad k form dst word slot last
  | .vuStore _ form src word slot layer => c.doVuStore k form src word slot layer
  | .vuArith _ op dst a b => c.vecOp2 k (arithOf op) dst a b 2
  | .vuConvert _ toBf16 dst a layer => c.doVuConvert k toBf16 dst a layer
  | .vuFma _ dst a b d => c.doVuFma k dst a b d
  | .vuExp2 _ dst a => c.vecOp1 k exp2Cr dst a 6
  | .vuReciprocal _ dst a => c.vecOp1 k recipCr dst a 5
  | .vuRsqrt _ dst a => c.vecOp1 k rsqrtCr dst a 6
  | .vuTreeSum _ dst src => c.reduce k treeSum dst src (2 * src.length + 10)
  | .vuTreeMax _ dst src => c.reduce k treeMax dst src (2 * src.length + 4)
  | .vuSoftmax _ part dst src s gate layer => c.doVuSoftmax k part dst src s gate layer
  | .vuRmsnorm _ part dst src g invN eps => c.doVuRmsnorm k part dst src g invN eps
  | .vuRotary _ x y pos freq => c.doVuRotary k x y pos freq
  | .vuSilu _ dst a => c.vecOp1 k siluOf dst a 17
  | .vuSwiglu _ dst a b => c.vecOp2 k swigluOf dst a b 19
  | .vuRouterTopk _ scores layer variant _ => c.doVuRouterTopk k scores layer variant
  | .vuCandidateSelect _ logits m n first layer => c.doVuCandidateSelect k logits m n first layer
  | .vuA8Prepare _ src tensor n layer dst scaleDst laneDst slot =>
    c.doVuA8Prepare k src tensor n layer dst scaleDst laneDst slot
  | .vuOutlierLaneEntry _ a fmt row value acc pass layer => c.doVuOutlierLaneEntry k a fmt row value acc pass layer
  | .vuOutputConvert _ acc tensor layer pass dst => c.doVuOutputConvert k acc tensor layer pass dst
  | _ => c

/-- The lane of a tile's passes that an operation given by itself belongs to: a router's names its pass kind (R206). -/
def chunkLane : Instr → Bool
  | .vuRouterTopk _ _ _ _ kind => kind == 2
  | _ => false

/-- How an operation given by itself runs. -/
def Chip.vecCtx (c : Chip) (t : TileIx) (base : Nat) (i : Instr) : VecCtx :=
  let run := c.tileRun t (chunkLane i)
  { t, base, pass := run.pass, poison := run.spoiled }

/-- The vector unit issues nothing for the pass (R171). -/
def Chip.vecHalted (c : Chip) (t : TileIx) (p : Option Pass) : Bool := c.fab.deviceHalt || p.any (c.runsDry t)

/-- Operations of a tile's vector unit that wait go on in their order (R110, R146), with fuel for their number: the first waits
while an operand does; one of a halted pass is retired without effect (R171). -/
def Chip.vecStep (t : TileIx) (base : Nat) : Nat → Chip → Chip
  | 0, c => c
  | n + 1, c =>
    match c.arr.vecQ.find? (·.1 == t) with
    | none => c
    | some x =>
      let k := c.vecCtx t base x.2
      let drop := fun (c : Chip) => ({ c with arr := { c.arr with vecQ := c.arr.vecQ.erase x } } : Chip)
      if c.vecHalted t k.pass then Chip.vecStep t base n ((drop c).dropOperands t (vecWords x.2))
      else
        let g := c.operandsReady t (vecWords x.2)
        if g.2 then Chip.vecStep t base n ((drop g.1).runVec k x.2) else g.1

/-- An operation of the vector unit is issued (R110, R146, R171): it runs when nothing of its tile waits before it and its
operands have passed their guards, else it waits. Its operands' access slots count from `base`. -/
def Chip.offerVec (c : Chip) (t : TileIx) (base : Nat) (i : Instr) : Chip :=
  let wait := fun (c : Chip) => ({ c with arr := { c.arr with vecQ := c.arr.vecQ ++ [(t, i)] } } : Chip)
  let k := c.vecCtx t base i
  if c.vecHalted t k.pass then c
  else if c.arr.vecQ.any (·.1 == t) then wait c
  else
    let g := c.operandsReady t (vecWords i)
    if g.2 then g.1.runVec k i else wait g.1

end Sys2Proof.Machine
end

