-- ==== Sys2Proof/Machine/IssueOps.lean ====
section
/-! DEFINITION. A tile's working through its part of the compiled order (R72, R77, R95 to R97, R110, R133, R208, R214 to R218,
R293, R364). -/

namespace Sys2Proof.Machine

/-- What an operation uses: arrays, buffer words, accumulators (first and number), sync objects, and the vector unit (R110). -/
structure Uses where
  arrays : List Target := []
  words : List WordIx := []
  accs : List (Nat × Nat) := []
  objects : List SoIx := []
  vector : Bool := false
  deriving DecidableEq, Repr

/-- Two operations use nothing in common. -/
def Uses.apart (a b : Uses) : Bool :=
  (a.arrays.all fun x => !b.arrays.contains x) && (a.words.all fun x => !b.words.contains x)
    && (a.accs.all fun x => b.accs.all fun y => decide (x.1 + x.2 ≤ y.1) || decide (y.1 + y.2 ≤ x.1))
    && (a.objects.all fun x => !b.objects.contains x) && !(a.vector && b.vector)

/-- Consecutive buffer words. -/
def wordRange (w : WordIx) (n : Nat) : List WordIx := (List.range n).map fun i => w + BitVec.ofNat 11 i

/-- The buffer words that an operation of the vector unit writes. -/
def vecStores : Instr → List WordIx
  | .vuStore _ form _ word _ _ => wordRange word (VForm.words form)
  | .vuArith _ _ dst _ _ | .vuConvert _ _ dst _ _ | .vuFma _ dst _ _ _ | .vuExp2 _ dst _ | .vuReciprocal _ dst _
  | .vuRsqrt _ dst _ | .vuTreeSum _ dst _ | .vuTreeMax _ dst _ | .vuSilu _ dst _ | .vuSwiglu _ dst _ _
  | .vuOutputConvert _ _ _ _ _ dst => VecRef.words dst
  | .vuSoftmax _ part dst _ _ _ _ => dst.flatMap VecRef.words ++ (match part with
    | .terms _ sum => VecRef.words sum
    | .whole | .max | .norm _ _ => [])
  | .vuRmsnorm _ _ dst _ _ _ _ => dst.flatMap VecRef.words
  | .vuRotary _ x y _ _ => VecRef.words x ++ VecRef.words y
  | .vuA8Prepare _ _ _ _ _ dst scaleDst laneDst _ => wordRange dst 16 ++ [scaleDst] ++ wordRange laneDst 4
  | _ => []

/-- The accumulators that an operation of the vector unit uses. -/
def vecAccs : Instr → List (Nat × Nat)
  | .vuLoad _ (.accs first _) _ _ _ _ | .vuStore _ (.accs first _) _ _ _ _ => [(first.toNat, 6)]
  | .vuA8Prepare _ (.accs first blocks _ _) _ _ _ _ _ _ _ => [(first.toNat, 64 * blocks)]
  | .vuOutlierLaneEntry _ _ fmt _ _ acc _ _ => [(acc.toNat, WFmt.perRow fmt)]
  | .vuOutputConvert _ acc _ _ _ _ => [(acc.toNat, 64)]
  | _ => []

/-- What an operation of a unit beside the arrays uses. -/
def unitUses (t : TileIx) (i : Instr) : Uses :=
  match i with
  | .fill _ start length _ so _ => { words := wordRange start length.toNat, objects := so.toList.map (soIx t) }
  | .copy _ src dst length so _ =>
    { words := wordRange src length.toNat ++ wordRange dst length.toNat, objects := so.toList.map (soIx t) }
  | .soSet o _ _ _ _ _ | .soSignal o _ _ | .soSignalErr o _ _ | .soWait o _ => { objects := [o] }
  | _ => { words := vecWords i ++ vecStores i, accs := vecAccs i, vector := true }

/-- What an operation of the order uses. -/
def OrderOp.uses (t : TileIx) : OrderOp → Uses
  | .beat b => { arrays := [b.target], words := [b.block, b.scaleWord], accs := [(b.acc.toNat, WFmt.perRow b.fmt)] }
  | .rowRead tg _ => { arrays := [tg] }
  | .rowWrite a _ _ src _ _ => { arrays := [.s a], words := [src, src + 1] }
  | .unit i => unitUses t i
  | .guard o _ => { objects := [o] }
  | .scrub _ | .sprinkle _ _ | .attention => {}

/-- The buffer words that an operation of the order reads. -/
def OrderOp.reads : OrderOp → List WordIx
  | .beat b => [b.block, b.scaleWord]
  | .rowWrite _ _ _ src _ _ => [src, src + 1]
  | .unit i => vecWords i
  | .rowRead _ _ | .guard _ _ | .scrub _ | .sprinkle _ _ | .attention => []

/-- What becomes of an expert's operation in a layer of a pass (R214 to R216). -/
inductive ExpertTurn where
  /-- the router has not chosen yet -/
  | open'
  | runs
  /-- its slot runs the entry's sprinkle assignment -/
  | sprinkles
  /-- a second stage without a collision -/
  | retires
  deriving DecidableEq, Repr

/-- An expert-slot table entry of a pass. -/
def Chip.expertEntry (c : Chip) (p : PassRec) (layer : BitVec 14) (entry : Nat) : Option ExpertEntry :=
  (c.expertTable layer p.variant).bind fun x => x.entries[entry]?

/-- How an expert's operation stands (R215, R216). -/
def Chip.expertTurn (c : Chip) (p : PassRec) (layer : BitVec 14) (entry : Nat) (second : Bool) : ExpertTurn :=
  let route := c.arr.routes.find? fun r => r.pass == p.pass && r.layer == layer && r.variant == p.variant
  match c.expertEntry p layer entry, route with
  | none, _ => .retires
  | some e, none => if e.cls = 3 && !second then .runs else .open'
  | some e, some r =>
    if second then (if r.second.isEmpty then .retires else if r.second.contains entry then .runs else .sprinkles)
    else if e.cls = 3 || r.selected.contains entry then .runs else .sprinkles

/-- Take the operation at place `j` off the lane; with the last one the pass's work on the tile is issued. -/
def Chip.popOp (c : Chip) (t : TileIx) (p : PassRec) (j : Nat) : Chip :=
  c.modRun t p.isChunk fun r =>
    let ops := r.ops.eraseIdx j
    { r with
      ops, last := if ops.isEmpty then some p.pass else r.last
      passed := if j = 0 then none else r.passed, late := if j = 0 then false else r.late }

/-- The operation's target is touched by the pass (R95, R97). -/
def Chip.touch (c : Chip) (t : TileIx) (p : PassRec) (tg : Target) (standin : Bool) : Chip :=
  c.modRun t p.isChunk fun r => { r with
    touched := if tg ∈ r.touched then r.touched else r.touched ++ [tg]
    onStandin := if standin && !r.onStandin.contains tg then r.onStandin ++ [tg] else r.onStandin }

/-- Start a lane's next pass (R208): at the tile's boundary what waits for it takes effect first. -/
def Chip.takePass (c : Chip) (t : TileIx) (p : PassRec) : Chip :=
  let c := if c.tileAtBoundary t then c.tileBoundary t else c
  let ops := c.passOps t p
  c.modRun t p.isChunk fun r => { r with
    pass := some p.pass, ops, touched := [], onStandin := [], passed := none, late := false, spoiled := false
    last := if ops.isEmpty then some p.pass else r.last }

/-- The results of the operation at the head of the lane are POISON: a guard it waited on timed out (R133, R179). -/
def Chip.runPoison (c : Chip) (t : TileIx) (chunk : Bool) (j : Nat) : Bool :=
  let r := c.tileRun t chunk
  r.spoiled || (j = 0 && (r.late || r.passed == some false))

/-- The head of a lane waits on an object, once (R133); the flag says that the wait is over. -/
def Chip.orderWait (c : Chip) (t : TileIx) (chunk : Bool) (o : SoIx) (g : Guard) : Chip × Bool :=
  if (c.tileRun t chunk).passed.isSome then (c, true)
  else
    let mine : Waiter := { guard := g, access := some (.order t chunk) }
    let c := if (c.soObj o).waiters.contains mine then c else c.soWait o mine
    (c, (c.tileRun t chunk).passed.isSome)

/-- The WAIT_FREE bit of a streaming section for a pass (R206, R217). -/
def StreamSec.isFree (s : StreamSec) (p : PassRec) : Bool := s.waitFree.getLsbD p.kind.toNat

/-- A first-stage wait on a streamed expert is counted, and tallied in a pass kind marked WAIT_FREE (R218, R227). -/
def Chip.noteStreamWait (c : Chip) (i : SoIx) (g : Guard) : Chip :=
  match g with
  | .stream waitFree =>
    if (c.soObj i).state = .wait then
      let c := { c with rcp := { c.rcp with streamWaits := satAdd c.rcp.streamWaits 1 } }
      if waitFree then c.tally Src.streamLate 0 else c
    else c
  | _ => c

/-- An operation of a streamed expert that is not resident waits on the guarding slot's object of its stream (R136, R218); the
flag says that it may go on. -/
def Chip.streamReady (c : Chip) (t : TileIx) (p : PassRec) (layer : BitVec 14) (entry : Nat) (second : Bool) (j : Nat) :
    Chip × Bool :=
  if (c.expertEntry p layer entry).any fun e => e.cls != 2 then (c, true)
  else if c.isResident layer p.variant entry then (c, true)
  else if j ≠ 0 then (c, false)
  else match (c.sectionsOf layer p.variant entry).find? fun s => c.rcp.streaming.contains s.2 with
    | none => (c, (c.tileRun t p.isChunk).passed.isSome)
    | some s =>
      let g : Guard := .stream (s.1.isFree p)
      let waits := (c.soObj s.1.guard).waiters.contains { guard := g, access := some (.order t p.isChunk) }
      let c := if second || waits || (c.tileRun t p.isChunk).passed.isSome then c else c.noteStreamWait s.1.guard g
      c.orderWait t p.isChunk s.1.guard g

/-- What an operation on an array needs first (R72, R77, R83, R95, R97): its target not held, its plane readable and selected,
its array free. The flag says that something was started; the array is given when the operation may start. -/
def Chip.takeArray (c : Chip) (t : TileIx) (p : PassRec) (tg : Target) : Chip × Bool × Option (ArrRef × Bool) :=
  match c.runsOn t (c.tileRun t p.isChunk) tg with
  | none => (c, false, none)
  | some (a, st) =>
    if c.unreadable t tg st then (c, false, none)
    else match (if st then none else c.selectFirst t tg) with
      | some (i, pl) =>
        if c.arrFree t (.n i) then (c.setArrOp t (.n i) (some (.select pl none)), true, none) else (c, false, none)
      | none => if c.arrFree t a then (c, true, some (a, st)) else (c, false, none)

/-- Issue a beat (R73, R97, R110, R136). -/
def Chip.issueBeat (c : Chip) (t : TileIx) (p : PassRec) (b : BeatOp) (j slot : Nat) : Chip × Bool :=
  let tg := c.orderName p.wepoch t b.target
  match c.takeArray t p tg with
  | (c, acted, none) => (c, acted)
  | (c, _, some (a, st)) =>
    let g := c.operandsReady t [b.block, b.scaleWord]
    if !g.2 then (g.1, false)
    else
      let pz := g.1.runPoison t p.isChunk j
      let x := g.1.operandRead t b.block (slot + b.slot) b.last (some p.pass)
      let y := x.1.operandRead t b.scaleWord (slot + b.slot) b.last (some p.pass)
      let beat : Beat := {
        name := b.target, target := tg, fmt := b.fmt, group := b.group, plane := (y.1.physOf t tg).2
        block := leBytes 64 x.2.1.toNat, scale := y.2.1.extractLsb' (8 * b.scaleByte.toNat) 8
        poison := x.2.2 || y.2.2 || pz, acc := b.acc, pass := p.pass, layer := b.layer }
      (((y.1.popOp t p j).touch t p tg st).offerBeat t a beat, true)

/-- Issue a row read (R78, R110). -/
def Chip.issueRowRead (c : Chip) (t : TileIx) (p : PassRec) (name : Target) (row : BitVec 9) (j : Nat) : Chip × Bool :=
  let tg := c.orderName p.wepoch t name
  match c.takeArray t p tg with
  | (c, acted, none) => (c, acted)
  | (c, _, some (a, st)) => (((c.popOp t p j).touch t p tg st).setArrOp t a (some (.rowRead row false)), true)

/-- Issue an S-array row write (R90, R110, R136). An S-array holds no POISON: a source word's goes into what the tile emits for
the pass (DESIGN CHOICE, log entry 38). -/
def Chip.issueRowWrite (c : Chip) (t : TileIx) (p : PassRec) (arr : BitVec 3) (row : BitVec 9) (mask : BitVec 16) (src : WordIx)
    (at' : Nat) (last : Bool) (j slot : Nat) : Chip × Bool :=
  let tg := c.orderName p.wepoch t (.s arr)
  match c.takeArray t p tg with
  | (c, acted, none) => (c, acted)
  | (c, _, some (a, st)) =>
    let g := c.operandsReady t [src, src + 1]
    if !g.2 then (g.1, false)
    else
      let pz := g.1.runPoison t p.isChunk j
      let x := g.1.operandRead t src (slot + at') false (some p.pass)
      let y := x.1.operandRead t (src + 1) (slot + at') last (some p.pass)
      let c := if x.2.2 || y.2.2 || pz then y.1.markFlags t p.pass poisonBit else y.1
      let data := BitVec.ofNat 1024 (x.2.1.toNat + 2 ^ 512 * y.2.1.toNat)
      (((c.popOp t p j).touch t p tg st).setArrOp t a (some (.rowWrite row mask data (some p.pass))), true)

/-- An operation on a sync object: on the tile's own it is done, another tile's gets a message of the control mesh (R125, R167);
POISON goes with a signal (R179). -/
def Chip.orderSo (c : Chip) (t : TileIx) (o : SoIx) (op : SoOp) (poison : Bool) : Chip :=
  if (o.extractLsb' 3 10 : TileIx) = t then
    match op with
    | .signal n => c.soHandshake o (if poison then [.signal n, .err 3] else [.signal n])
    | op => c.soHandshake o [op]
  else match op with
    | .set count limit tclass auto => c.sendCtl t (.set o count limit tclass auto)
    | .signal n => c.sendCtl t (.signal o n poison)
    | .err code => c.sendCtl t (.signalErr o code)
    | .expire => c

/-- Issue an operation of a unit beside the arrays (R110, R120, R125, R146). -/
def Chip.issueUnit (c : Chip) (t : TileIx) (p : PassRec) (i : Instr) (j slot : Nat) : Chip × Bool :=
  let pz := c.runPoison t p.isChunk j
  match i with
  | .fill _ start length value so _ =>
    ((c.popOp t p j).offerFill t { copy := none, start, length, value, so, pass := some p.pass }, true)
  | .copy _ src dst length so _ =>
    ((c.popOp t p j).offerFill t { copy := some src, start := dst, length, value := 0, so, pass := some p.pass }, true)
  | .soSet o count limit tclass auto _ => ((c.popOp t p j).orderSo t o (.set count limit tclass auto) pz, true)
  | .soSignal o n _ => ((c.popOp t p j).orderSo t o (.signal n) pz, true)
  | .soSignalErr o code _ => ((c.popOp t p j).orderSo t o (.err code) pz, true)
  | .soWait o g =>
    if j ≠ 0 then (c, false)
    else
      let w := c.orderWait t p.isChunk o g
      if w.2 then (w.1.popOp t p j, true) else w
  | _ =>
    if c.arr.vecQ.any (·.1 == t) then (c, false)
    else
      let g := c.operandsReady t (vecWords i)
      if g.2 then ((g.1.popOp t p j).runVec { t, base := slot, pass := some p.pass, poison := pz } i, true) else (g.1, false)

/-- The sprinkle assignment of an expert-slot entry runs in its slot (R216, R364). -/
def Chip.runAssigned (c : Chip) (t : TileIx) (x : Option (Nat × Bool)) : Chip :=
  match x.bind fun y => (c.packEntryOf t y.1 y.2).map fun e => (y, e) with
  | some (y, e) => c.startSprinkle t y.1 y.2 e
  | none => c

/-- Try to issue an operation of the order that stands at place `j` of its lane; the flag says that something was done. -/
def Chip.issueOp (c : Chip) (t : TileIx) (p : PassRec) (op : OrderOp) (j slot : Nat) : Chip × Bool :=
  match op with
  | .attention => (c.popOp t p j, true)
  | .scrub isS => match c.startScrub t isS with
    | none => (c, false)
    | some (c, done) => (if done then c.popOp t p j else c, true)
  | .sprinkle entry bound => ((c.popOp t p j).runAssigned t (some (entry, bound)), true)
  | .guard o g =>
    if j ≠ 0 then (c, false)
    else
      let w := c.orderWait t p.isChunk o g
      if !w.2 then w
      else
        let late := w.1.runPoison t p.isChunk 0
        ((w.1.popOp t p j).modRun t p.isChunk fun r => { r with late }, true)
  | .rowRead tg row => c.issueRowRead t p tg row j
  | .rowWrite arr row mask src at' last => c.issueRowWrite t p arr row mask src at' last j slot
  | .unit i => c.issueUnit t p i j slot
  | .beat b => c.issueBeat t p b j slot

/-- Try to issue an entry of the order: an expert's slot does as the router has chosen (R214 to R218). -/
def Chip.issueItem (c : Chip) (t : TileIx) (p : PassRec) (x : OrderItem) (j slot : Nat) : Chip × Bool :=
  match x.expert with
  | none => c.issueOp t p x.op j slot
  | some (layer, entry, second) =>
    match c.expertTurn p layer entry second with
    | .open' => (c, false)
    | .retires => (c.popOp t p j, true)
    | .sprinkles => ((c.popOp t p j).runAssigned t ((c.expertEntry p layer entry).bind (·.sprinkle)), true)
    | .runs =>
      let r := c.streamReady t p layer entry second j
      if r.2 then r.1.issueOp t p x.op j slot else r

/-- Go through a lane's entries until one is issued (R110): one that the order marks as independent may go before those that
wait, when it uses nothing that they use. -/
def Chip.issueFrom (t : TileIx) (p : PassRec) (slot : Nat) : List OrderItem → Nat → List Uses → Chip → Chip × Bool
  | [], _, _, c => (c, false)
  | x :: xs, j, before, c =>
    let u := x.op.uses t
    if j = 0 || (x.independent && before.all fun b => Uses.apart u b) then
      let r := c.issueItem t p x j slot
      if r.2 then r else Chip.issueFrom t p slot xs (j + 1) (before ++ [u]) r.1
    else Chip.issueFrom t p slot xs (j + 1) (before ++ [u]) c

/-- The rest of a pass's operations is retired without effect (R171, R307). -/
def Chip.dropLane (c : Chip) (t : TileIx) (chunk : Bool) : Chip :=
  let run := c.tileRun t chunk
  (c.dropOperands t (run.ops.flatMap fun x => x.op.reads)).modRun t chunk fun r => { r with ops := [], last := r.pass }

/-- Issue the next operation of one lane, when one can be. -/
def Chip.issueLane (c : Chip) (t : TileIx) (chunk : Bool) (slot : Nat) : Chip × Bool :=
  let run := c.tileRun t chunk
  let go := fun (c : Chip) (p : PassRec) =>
    if c.runsDry t p.pass then (c.dropLane t chunk, true)
    else Chip.issueFrom t p slot (c.tileRun t chunk).ops 0 [] c
  if run.ops.isEmpty then
    match c.nextPass t chunk with
    | none => (c, false)
    | some p =>
      if (c.tileRun t (!chunk)).ops.isEmpty && !c.tileIdle t then (c, false)
      else ((go (c.takePass t p) p).1, true)
  else match c.rcp.passes.find? fun p => some p.pass == run.pass with
    | some p => go c p
    | none => (c.dropLane t chunk, true)

/-- A tile's next operation (R110): generation, verify and draft passes go first, a prompt chunk takes what they leave
idle (R293). -/
def Chip.issue (c : Chip) (t : TileIx) (slot : Nat) : Chip :=
  let c := if c.tileIdle t then c.signalDrain t else c
  let r := c.issueLane t false slot
  if r.2 then r.1 else (r.1.issueLane t true slot).1

/-- The tile controller and the vector unit go on (R110, R146). -/
def Chip.tileIssue (c : Chip) (t : TileIx) (slot : Nat) : Chip :=
  (Chip.vecStep t slot (c.arr.vecQ.filter (·.1 == t)).length c).issue t slot

end Sys2Proof.Machine
end

