-- ==== Sys2Proof/Machine/PortOps.lean ====
section
/-! DEFINITION. The optical ports (R315 to R354): sending and custody, going down, loss of a device, detour, lanes. -/

namespace Sys2Proof.Machine

/-- Crumbs of passes, which a ring region keeps in custody (R335): the data kinds that carry a pass. -/
def custodyKind (k : BitVec 4) : Bool := k == 0 || k == 1 || k == 2 || k == 8 || k == 9

/-- The acknowledges a pass awaits on a port (R335): on an exit port the downstream device's and its buddy's, on a Z port
the peer's; those of a lost device are waived. The pair says which are not awaited. -/
def Chip.custodyStart (c : Chip) (p : PortIx) : Bool × Bool :=
  let peer := stepPos c.sys.position p
  (c.opt.lost.contains peer, isZ p || c.opt.lost.contains (buddyPos peer))

/-- Passes whose acknowledges are all in are released; a crumb that waits for custody may go on: the region signals its
custody object (R335, R337). -/
def Chip.settleCustody (c : Chip) (p : PortIx) : Chip :=
  let x := c.port p
  let done := x.custody.filter fun k => k.2.1 && k.2.2
  if done.isEmpty then c
  else
    let c := c.modPort p fun x => { x with
      custody := x.custody.filter fun k => !(k.2.1 && k.2.2), kept := x.kept.filter fun k => !done.any fun d => d.1 == k.1
      holding := none }
    match x.holding, c.rcp.active.bind fun r => r.desc.custody.find? fun y => y.1 == p with
    | some _, some (_, so) => c.soSignal so 1
    | _, _ => c

/-- A region holds its handshake for want of custody (R337): once for each pass it tallies CUSTODY_HOLD and waits on its
custody object. -/
def Chip.holdCustody (c : Chip) (p : PortIx) (pass : Pass) : Chip :=
  if (c.port p).holding.isSome then c
  else
    let c := (c.modPort p fun x => { x with holding := some pass }).tally Src.custodyHold (c.portDetail p 0)
    match c.rcp.active.bind fun r => r.desc.custody.find? fun y => y.1 == p with
    | some (_, so) => c.soWait so { guard := .custody }
    | none => c

/-- The edge nodes of a port's ring region, and the input by which it joins them (R18, R153). -/
def regionTiles (p : PortIx) : List TileIx :=
  (List.range 8).map fun i =>
    if p.toNat < 4 then BitVec.ofNat 10 (32 * (8 * p.toNat + i) + 31) else BitVec.ofNat 10 (32 * 31 + 8 * (p.toNat - 4) + i)
def regionInput (p : PortIx) : NodePort := if p.toNat < 4 then .east else .north

/-- Entries of a list that hold crumbs of a chunk, or of another pass. -/
def slotEntries (es : List NodeEntry) (prompt : Bool) (input : Option NodePort) : Nat :=
  (es.filter fun e => match e with
    | .slot i _ _ => !prompt && (input.isNone || input == some i)
    | .prompt i _ => prompt && (input.isNone || input == some i)
    | _ => false).length

/-- ORDER_REF of a pass begun on the device. -/
def Chip.refOf (c : Chip) (q : Pass) : Nat := ((c.rcp.passes.find? fun x => x.pass == q).map c.passRef).getD 0

/-- Data crumbs a pass sends out by a port, by the order lists that feed its region (R155, R210, R293). -/
def Chip.exitCrumbs (c : Chip) (p : PortIx) (q : Pass) (prompt : Bool) : Nat :=
  (c.orders.2.filter fun l => (regionTiles p).contains l.tile && l.out == regionInput p).foldl (fun n l =>
    n + slotEntries (l.expand (c.refOf q)) prompt none) 0

/-- Data crumbs of a pass handed to the exit port so far. -/
def Chip.exitedOf (c : Chip) (q : Pass) : Nat := (c.fab.exited.find? fun x => x.1 == q).elim 0 (·.2)

/-- A crumb of a pass is handed to the exit port: with a generation pass's last one the device's part of it is measured, from the
first crumb that came in on the entry port (R187). -/
def Chip.noteExit (c : Chip) (p : PortIx) (k : Crumb) : Chip :=
  if some p != c.exitPort || !custodyKind k.hdr.kind then c
  else
    let q := k.hdr.pass
    let n := c.exitedOf q + 1
    let c : Chip := { c with fab := { c.fab with exited := (c.fab.exited.filter fun x => x.1 != q) ++ [(q, n)] } }
    match c.fab.latStart.find? fun x => x.1 == q, c.rcp.passes.find? fun x => x.pass == q with
    | some (_, t0), some r =>
      if r.kind = 0 ∧ n = c.exitCrumbs p q false then
        let ns := BitVec.ofNat 32 (min (2 ^ 32 - 1) (c.tick.count - t0).toNat)
        { c with tick := { c.tick with groupLast := ns, groupMax := if c.tick.groupMax.toNat < ns.toNat then ns else c.tick.groupMax } }
      else c
    | _, _ => c

/-- The pass's last exit crumb waits for the acknowledges of the pass's mirror records (R339). -/
def Chip.awaitsMirror (c : Chip) (p : PortIx) (k : Crumb) : Bool :=
  some p == c.exitPort && c.awaitsRecords k.hdr.pass
    && decide (c.exitCrumbs p k.hdr.pass (hasFlag k flagPrompt) ≤ c.exitedOf k.hdr.pass + 1)

/-- A region takes a crumb from its edge node (R335, R337, R341, R344); `none`: it holds its handshake. -/
def Chip.regionSend (c : Chip) (p : PortIx) (route : Byte) (k : Crumb) : Chip × Bool :=
  let x := c.port p
  let custody := custodyKind k.hdr.kind
  if custody && !(x.custody.any fun y => y.1 == k.hdr.pass) && decide (2 ≤ x.custody.length) then
    (c.holdCustody p k.hdr.pass, false)
  else if custody && c.awaitsMirror p k then (c, false)
  else if !x.isUp && some p == c.exitPort then
    ((c.modPort p fun x => { x with discarded := x.discarded + 1 }).noteExit p k, true)
  else
    let bytes := crumbBytes k
    let c := c.noteExit p k
    let c := if custody then
        c.modPort p fun x => { x with
          custody := if x.custody.any fun y => y.1 == k.hdr.pass then x.custody else x.custody ++ [(k.hdr.pass, c.custodyStart p)]
          kept := x.kept ++ [(k.hdr.pass, route :: bytes)] }
      else c
    (if isZ p then c.transmitZ p route bytes else if x.isUp then c.transmit p route bytes else c, true)

/-- The Z regions' detour (R341): while a Z port is down. -/
def Chip.setDetour (c : Chip) (on : Bool) : Chip :=
  ([4, 5] : List PortIx).foldl (fun c p => c.modPort p fun x => { x with detour := on }) c

/-- The crumbs in custody of a down Z port go along the detour (R341). -/
def Chip.replayDetour (c : Chip) (p : PortIx) : Chip :=
  (c.port p).kept.foldl (fun c k =>
    let crumb := setFlag (crumbOf (k.2.drop 1)) flagReplay
    if (c.port (otherZ p)).isUp then c.transmit (otherZ p) (k.2.headD 0 ||| 0x40) (crumbBytes crumb) else c) c

/-- The active recipe carries a buddy section (R220). -/
def Chip.hasBuddySection (c : Chip) : Bool :=
  (c.rcp.active.bind fun r => r.fallbackOf 1).isSome

/-- The group cannot be carried (R221, R351): every device of it raises GROUP_UNCOVERED, which names the generation pass in
progress; an entry-group device starts no pass. -/
def Chip.uncovered (c : Chip) : Chip :=
  let pass := (c.rcp.passes.reverse.find? fun p => !p.isChunk && !c.passDone p).map (·.pass)
  let c := c.raise Src.groupUncovered { detail := 0, pass }
  if c.isEntry then c.modServe fun s => { s with stopped := true } else c

/-- The routes of R341 to R343 round a lost device on the Z ring are open to this device: its other Z link is up and not of version 1
(R328, R351). -/
def Chip.zRouted (c : Chip) (p : PortIx) : Bool := (c.port (otherZ p)).carries

/-- The buddy takes over a lost device (R347, R350): a staged recipe is discarded and the buddy section's images load. -/
def Chip.startTakeover (c : Chip) (pos : Pos) : Chip :=
  let c := if c.rcp.staged.isSome then
      ({ c with rcp := { c.rcp with staged := none } } : Chip).tally Src.takeoverStaged 0 else c
  { c with opt := { c.opt with tkState := 1, tkLost := pos, tkAt := c.tick.count, tkLoaded := false } }

/-- A neighbour is declared lost (R345, R347, R351). -/
def Chip.declareLost (c : Chip) (pos : Pos) : Chip :=
  match ([0, 1, 2, 3, 4, 5] : List PortIx).find? fun p => stepPos c.sys.position p == pos with
  | none => c
  | some p =>
    if c.opt.lost.contains pos then c
    else
      let sameGroup := groupOf pos == groupOf c.sys.position && isZ p
      let others := c.opt.lost.any fun q => groupOf q == groupOf pos
      let c := { c with opt := { c.opt with lost := c.opt.lost ++ [pos], tkLost := pos } }
      let c := c.tally Src.deviceLost (BitVec.ofNat 32 (place 8 9 pos.toNat))
      -- acknowledges of a lost device are waived (R335)
      let c := ([0, 1, 2, 3, 4, 5] : List PortIx).foldl (fun c q =>
        let w := c.custodyStart q
        (c.modPort q fun x => { x with custody := x.custody.map fun k => (k.1, k.2.1 || w.1, k.2.2 || w.2) }).settleCustody q) c
      if !sameGroup then c
      else if pos = buddyPos c.sys.position then
        if c.load.buddyOk && c.hasBuddySection && !others && c.zRouted p then c.startTakeover pos else c.uncovered
      else if others || !c.hasBuddySection || !c.zRouted p then c.uncovered
      else c

/-- A report that a position's device is down (R345): two within 5 µs, from different devices, declare it lost. -/
def Chip.report (c : Chip) (pos reporter : Pos) : Chip :=
  let near := fun (r : Pos × BitVec 64 × Pos) => decide ((c.tick.count - r.2.1).toNat ≤ 5000)
  let known := c.opt.reports.any fun r => r.1 == pos && r.2.2 == reporter && near r
  let second := c.opt.reports.any fun r => r.1 == pos && r.2.2 != reporter && near r
  let c := if known then c
    else { c with opt := { c.opt with reports := c.opt.reports ++ [(pos, c.tick.count, reporter)] } }
  if second then c.declareLost pos else c

/-- Crumbs a pass brings in on a port, by the order lists of its edge nodes (R155, R210). -/
def Chip.entryCrumbs (c : Chip) (p : PortIx) (q : Pass) : Nat :=
  (c.orders.2.filter fun l => (regionTiles p).contains l.tile).foldl (fun n l =>
    n + slotEntries (l.expand (c.refOf q)) false (some (regionInput p))) 0

/-- Data crumbs of a pass that have come in on the entry port. -/
def Chip.entered (c : Chip) (p : Pass) : Nat := (c.fab.entered.find? fun x => x.1 == p).elim 0 (·.2)

/-- The entry port of a device goes down: it asks its buddy for a mirror (R343), naming the oldest pass whose entry it has
not fully received, and how many of that pass's crumbs it holds. -/
def Chip.askMirror (c : Chip) (p : PortIx) : Chip :=
  let part := c.rcp.passes.find? fun x => !x.isChunk && decide (c.entered x.pass < c.entryCrumbs p x.pass)
  let oldest := part.elim (if c.rcp.begun then c.rcp.lastPass + 1 else c.rcp.lastPass) (·.pass)
  let count := c.entered oldest
  let c := (c.modPort p fun x => { x with splice := true }).tell [c.buddyPort] (.mirrorRequest oldest count)
  { c with opt := { c.opt with skip := some (oldest, count) } }

/-- The link to the tick parent goes down (R186): holdover, and TICK_ALIGN. -/
def Chip.tickHoldover (c : Chip) (p : PortIx) : Chip :=
  if c.sys.posValid && parentPort c.sys.position == some p && !c.tick.actingRoot then
    ({ c with tick := { c.tick with holdover := true, offs := [] } } : Chip).tally Src.tickAlign 0
  else c

/-- The ports over which a PORT_DOWN notice goes (R345): both Z ports, exit and entry. -/
def Chip.noticePorts (c : Chip) : List PortIx := [4, 5] ++ c.exitPort.toList ++ c.entryPort.toList

/-- A port that carries crumbs goes DOWN (R333, R334, R341 to R346): the event, the notice to the rack, its own report of
the peer, and what covers the link. -/
def Chip.linkDown (c : Chip) (p : PortIx) : Chip :=
  let x := c.port p
  if !x.isUp then c
  else
    let detail := c.portDetail p 0
    let entry := some p == c.entryPort && c.hasBuddySection
    let c := c.modPort p fun x => { x with
      state := .down, laneMap := 0, version := 0, phase := 0, laneTo := none, laneAsk := false, retrying := 0
      lastRetry := none, downs := satAdd x.downs 1, synth := if entry then [] else c.rcp.passes.map (·.pass) }
    let c := ((c.tally Src.portDown detail).sendTrain p 0).tickHoldover p
    if !isAxis p then c
    else
      let c := (c.tell c.noticePorts (.portDown x.peer c.sys.position)).report x.peer c.sys.position
      let c := if isZ p then (c.setDetour true).replayDetour p else c
      if entry then c.askMirror p else c

/-- A port goes DOWN, and with a spine port the virtual links that it carries (R333, R352). -/
def Chip.portDown (c : Chip) (p : PortIx) : Chip :=
  let d := c.linkDown p
  if isAxis p || !(c.port p).isUp then d
  else allPorts.foldl (fun d q => if (d.port q).vlink.any fun v => v.1 == p then
    (d.linkDown q).modPort q fun x => { x with light := false } else d) d

/-- A failed attempt ends (R326): DOWN, LINK_TRAIN, and the next one at least 100 ms later. -/
def Chip.endTraining (c : Chip) (p : PortIx) : Chip :=
  if (c.port p).state = .training then
    (c.modPort p fun x => { x with state := .down, phase := 0, version := 0, retryWait := true, wiring := false }).tally Src.linkTrain
      (c.portDetail p 0)
  else c

/-- The transmitters are lit and send TRAIN (R324). -/
def Chip.relight (c : Chip) (p : PortIx) : Chip := (c.emit (.link p .light)).sendTrain p 0

/-- Ports train from boot step 6 on, outside the fault state (R387, R499). -/
def Chip.mayTrain (c : Chip) : Bool := c.on && decide (5 ≤ c.sys.bootStep.toNat) && !c.flt.faultState

/-- TRAINING starts (R324, R326). -/
def Chip.startTraining (c : Chip) (p : PortIx) : Chip :=
  let x := c.port p
  if c.mayTrain && x.state == .down && x.enable && x.light && !x.retryWait then
    (c.modPort p fun x => { x with state := .training, phase := 0, wiring := false, dark := false }).sendTrain p 0
  else c

/-- Enabled ports send TRAIN at boot step 6 (R324, R499). -/
def Chip.lightPorts (c : Chip) : Chip :=
  allPorts.foldl (fun c p =>
    if (c.port p).enable && (c.port p).dark then
      (c.modPort p fun x => { x with dark := false }).relight p
    else c) c

/-- A write of OPT_PORTn_CTL.ENABLE (R324, R357). -/
def Chip.portEnable (c : Chip) (p : PortIx) (en : Bool) : Chip :=
  if en then
    let c := c.modPort p fun x => { x with enable := true, state := if x.state = .disabled then .down else x.state }
    if c.mayTrain then (c.modPort p fun x => { x with dark := false }).relight p else c
  else
    let lit := !(c.port p).dark
    let c := if (c.port p).isUp then c.tickHoldover p else c
    let c := c.modPort p fun x => { x with
      enable := false, state := .disabled, laneMap := 0, version := 0, phase := 0, dark := true, light := false
      laneTo := none, laneAsk := false, retrying := 0, lastRetry := none, retryWait := false }
    if lit then c.emit (.link p .dark) else c

/-- A write of 1 to OPT_PORTn_CTL.RETRAIN (R333, R357): ignored while the port is DISABLED. -/
def Chip.portRetrain (c : Chip) (p : PortIx) : Chip :=
  match (c.port p).state with
  | .disabled => c
  | .training => (c.modPort p fun x => { x with state := .down, phase := 0, version := 0, wiring := false }).startTraining p
  | _ => ((c.portDown p).modPort p fun x => { x with retryWait := false }).startTraining p

/-- The weight plan in progress is COPYING (R472). -/
def Chip.loadCopying (c : Chip) : Bool :=
  match c.load.incoming with
  | some (_, p, .loading) => p.chunks.any fun r => !(r.state == .authenticated || r.state.isFailed)
  | _ => false

/-- A DEGRADED port asks for its port section (R331): one section runs at a time. -/
def Chip.askPortSection (c : Chip) (p : PortIx) : Chip :=
  let code : BitVec 4 := BitVec.ofNat 4 (8 + p.toNat)
  if 8 ≤ c.rcp.fallback.toNat ∨ 8 ≤ c.rcp.fallbackNext.toNat then
    c.tally Src.portMultiDegrade (c.portDetail p 0)
  else if c.rcp.fallbackNext = 0 && (c.rcp.active.bind fun r => r.fallbackOf code).isSome then
    { c with rcp := { c.rcp with fallbackNext := code } }
  else c

/-- Both ends switch to the agreed lane map (R330, R332): 8 lanes make the port UP, 7 make it DEGRADED. -/
def Chip.switchLanes (c : Chip) (p : PortIx) (map : BitVec 8) : Chip :=
  let lane := ((List.range 8).find? fun i => !map.getLsbD i).getD 0
  let c := c.modPort p fun x => { x with laneMap := map, laneTo := none, laneAsk := false }
  if map = 0xFF then
    let c := c.modPort p fun x => { x with state := .up }
    let code : BitVec 4 := BitVec.ofNat 4 (8 + p.toNat)
    if c.rcp.fallbackNext = code then { c with rcp := { c.rcp with fallbackNext := 0 } } else c
  else
    let c := c.modPort p fun x => { x with state := .degraded, laneLosses := satAdd x.laneLosses 1 }
    (c.tally Src.laneLoss (c.portDetail p lane)).askPortSection p

end Sys2Proof.Machine
end

