-- ==== Sys2Proof/Machine/MeshOps.lean ====
section
/-! DEFINITION. The data mesh (R20, R153 to R165, R170, R171, R204, R205, R248, R256, R277, R293, R307): checks at a node, order
lists, reserved positions, ring regions, and what a tile marks in the crumbs it emits (R161). -/

namespace Sys2Proof.Machine

/-- The ring region an output joins off the grid (R18, R153), coded as in R165. -/
def regionAt (t : TileIx) (out : NodePort) : Option Nat :=
  match out with
  | .north => if tileY t = 31 then some (4 + tileX t / 8) else none
  | .east => if tileX t = 31 then some (tileY t / 8) else none
  | .south => if tileY t = 0 then some (8 + tileX t / 8) else none
  | .west => if tileX t = 0 then some (if tileY t < 16 then 13 else 12) else none
  | .local' => none

/-- The output a crumb routed X first, then Y, takes at a node (R165): to its tile, or to the nearest edge node of its ring
region and off the grid there. -/
def routeOut (t : TileIx) (slot : BitVec 14) : NodePort :=
  let go := fun (x0 x1 y0 y1 : Nat) (off : NodePort) =>
    ((toward (tileX t) x0 x1 .west .east).orElse fun _ => toward (tileY t) y0 y1 .south .north).getD off
  if slot.getLsbD 13 then
    let r := slot.toNat % 16
    if r < 4 then go 31 31 (8 * r) (8 * r + 7) .east
    else if r < 8 then go (8 * (r - 4)) (8 * (r - 4) + 7) 31 31 .north
    else if r < 12 then go (8 * (r - 8)) (8 * (r - 8) + 7) 0 0 .south
    else if r = 12 then go 0 0 16 31 .west
    else go 0 0 0 15 .west
  else
    let d : TileIx := slot.setWidth 10
    go (tileX d) (tileX d) (tileY d) (tileY d) .local'

/-- An input register, oldest crumb first. -/
def Chip.inputReg (c : Chip) (t : TileIx) (p : NodePort) : List (BitVec 64 × Crumb) := sget (fun _ => []) c.fab.inputs (portKey t p)

/-- Rewrite it. -/
def Chip.setInput (c : Chip) (t : TileIx) (p : NodePort) (xs : List (BitVec 64 × Crumb)) : Chip :=
  { c with fab := { c.fab with inputs := sset (fun _ => []) c.fab.inputs (portKey t p) xs } }

/-- Where an output's list stands: 0 between passes, n + 1 at position n. -/
def Chip.listAt (c : Chip) (t : TileIx) (out : NodePort) : Nat := sget (fun _ => 0) c.fab.listPos (portKey t out)

/-- The pass an output's list is at, or went through last. -/
def Chip.listPass (c : Chip) (t : TileIx) (out : NodePort) : Option Pass := sget (fun _ => none) c.fab.listPass (portKey t out)

/-- Store where a list stands. -/
def Chip.setList (c : Chip) (t : TileIx) (out : NodePort) (n : Nat) (q : Option Pass) : Chip :=
  { c with fab := { c.fab with
    listPos := sset (fun _ => 0) c.fab.listPos (portKey t out) n
    listPass := sset (fun _ => none) c.fab.listPass (portKey t out) q } }

/-- The entries of an output's list for a pass (R155, R210). -/
def Chip.entriesFor (c : Chip) (t : TileIx) (out : NodePort) (q : Pass) : List NodeEntry :=
  ((c.orders.2.find? fun l => l.tile == t && l.out == out).map fun l => l.expand (c.refOf q)).getD []

/-- The entries of the list as it stands. -/
def Chip.listNow (c : Chip) (t : TileIx) (out : NodePort) : List NodeEntry := c.entriesFor t out ((c.listPass t out).getD 0)

/-- RES_INT in force (R164). -/
def Chip.resInt (c : Chip) : Nat := c.rcp.active.elim 16 Recipe.resInterval

/-- What stands at position `n` of a list (R164): every RES_INT-th position is reserved (`some none`), the others hold the entries
in order; none past the last entry. -/
def positionAt (res : Nat) (es : List NodeEntry) (n : Nat) : Option (Option NodeEntry) :=
  if es.length ≤ n - n / res then none
  else if (n + 1) % res = 0 then some none
  else (es[n - n / res]?).map some

/-- What is due at an output: none between passes. -/
def Chip.dueAt (c : Chip) (t : TileIx) (out : NodePort) : Option (Option NodeEntry) :=
  match c.listAt t out with
  | 0 => none
  | n + 1 => positionAt c.resInt (c.listNow t out) n

/-- A list moves on by one position; with its last entry passed it restarts (R155: DEDUCED, log entry 39). -/
def Chip.nextEntry (c : Chip) (t : TileIx) (out : NodePort) : Chip :=
  let n := c.listAt t out
  c.setList t out (if (positionAt c.resInt (c.listNow t out) n).isNone then 0 else n + 1) (c.listPass t out)

/-- A list begins for a pass. -/
def Chip.beginList (c : Chip) (t : TileIx) (out : NodePort) (q : Pass) : Chip := c.setList t out 1 (some q)

/-- KINDs that take positions of their own and route by SLOT (R164, R248, R364). -/
def routedKind (k : BitVec 4) : Bool := controlKind k || k == 7 || k == 4

/-- The first crumb of an input that goes by slot entries, and the first that goes by prompt positions (R155, R293). -/
def firstPlain (xs : List (BitVec 64 × Crumb)) : Option (BitVec 64 × Crumb) :=
  xs.find? fun x => !routedKind x.2.hdr.kind && !hasFlag x.2 flagPrompt
def firstPrompt (xs : List (BitVec 64 × Crumb)) : Option (BitVec 64 × Crumb) :=
  xs.find? fun x => !routedKind x.2.hdr.kind && hasFlag x.2 flagPrompt

/-- The oldest waiting crumb of some kinds that routes to an output, with its input (R165). -/
def Chip.waitingFor (c : Chip) (t : TileIx) (out : NodePort) (f : BitVec 4 → Bool) : Option (NodePort × BitVec 64 × Crumb) :=
  let cand := nodePorts.filterMap fun p =>
    ((c.inputReg t p).find? fun x => f x.2.hdr.kind && routeOut t x.2.hdr.slot == out).map fun x => (p, x.1, x.2)
  cand.foldl (fun (best : Option (NodePort × BitVec 64 × Crumb)) x => match best with
    | some b => if x.2.1.toNat < b.2.1.toNat then some x else some b
    | none => some x) none

/-- ROUTE of a crumb that has no route tag: on a Z port, the peer's slice and region (R321). -/
def Chip.plainRoute (c : Chip) (p : PortIx) : Byte :=
  if isZ p then zRoute (field (stepPos c.sys.position p).toNat 0 2) (otherZ p).toNat false false else 0

/-- Crumbs between a node and a ring region, on their way out (R20). -/
def Chip.fifoOut (c : Chip) (key : Nat) : List (Byte × Crumb) := sget (fun _ => []) c.fab.fifoOut key

/-- Store them. -/
def Chip.setFifoOut (c : Chip) (key : Nat) (xs : List (Byte × Crumb)) : Chip :=
  { c with fab := { c.fab with fifoOut := sset (fun _ => []) c.fab.fifoOut key xs } }

/-- The port of the ring region that a node's output joins. -/
def regionPort (key : Nat) : Option PortIx :=
  match regionAt (BitVec.ofNat 10 (key / 5)) (nodePorts.getD (key % 5) .local') with
  | some r => if r < 8 then some (BitVec.ofNat 3 r) else none
  | none => none

/-- A ring region takes crumbs from the FIFO in the order in which they entered, until it holds its handshake (R20, R337, R339). -/
def Chip.drainFifo (key : Nat) : Nat → Chip → Chip
  | 0, c => c
  | n + 1, c =>
    match c.fifoOut key, regionPort key with
    | (route, k) :: rest, some p =>
      let r := c.regionSend p route k
      if r.2 then Chip.drainFifo key n (r.1.setFifoOut key rest) else r.1
    | _, _ => c

/-- Hand a crumb to an output (R153): the next node, the tile, or the FIFO of a ring region, which holds the handshake when its
8 entries are full (R20). -/
def Chip.handOut (c : Chip) (t : TileIx) (out : NodePort) (route : Option Byte) (k : Crumb) : Chip × Bool :=
  let key := portKey t out
  match regionPort key with
  | some p =>
    let q := c.fifoOut key
    if 8 ≤ q.length then (c, false)
    else (((c.emit (.mesh t out k)).setFifoOut key (q ++ [(route.getD (c.plainRoute p), k)])).drainFifo key 9, true)
  | none => (c.emit (.mesh t out k), true)

/-- Pass a crumb from an input to an output; `none` when it is held. -/
def Chip.passCrumb (c : Chip) (t : TileIx) (inp out : NodePort) (route : Option Byte) (old : BitVec 64 × Crumb) (k : Crumb) :
    Option Chip :=
  let r := c.handOut t out route k
  if r.2 then some (r.1.setInput t inp ((r.1.inputReg t inp).erase old)) else none

/-- Pass on, with POISON, a crumb whose SLOT is not the due one (R156). -/
def Chip.passWrong (c : Chip) (t : TileIx) (inp out : NodePort) (route : Option Byte) (x : BitVec 64 × Crumb) : Option Chip :=
  (c.passCrumb t inp out route x (poisonCrumb x.2)).map fun c =>
    c.raise Src.meshOrder { detail := tileDetail t (NodePort.index out) 0, pass := some x.2.hdr.pass }

/-- The tile holds a cancel that names the crumb's pass (R170). -/
def Chip.cancelHeld (c : Chip) (k : Crumb) : Bool := c.fab.cancels.any fun x => x.1 == k.hdr.req && !passBefore k.hdr.pass x.2

/-- A tile's sector inserts proofs (R26, R161, R403). -/
def Chip.throttles (c : Chip) (t : TileIx) : Bool := (c.proofOf (sectorOf t)).isSome

/-- The crumbs of a fallback section or of a detour carry FALLBACK (R161, R221, R341). -/
def Chip.onFallback (c : Chip) : Bool := c.rcp.fallback != 0 || (c.port 4).detour || (c.port 5).detour

/-- What a tile sets in a crumb of a pass it emits (R161, R170, R171, R179, R206, R307). -/
def Chip.stamped (c : Chip) (t : TileIx) (k : Crumb) : Crumb :=
  if !custodyKind k.hdr.kind then k
  else
    let p := k.hdr.pass
    let kind := (c.rcp.passes.find? fun x => x.pass == p).map (·.kind)
    let marks := c.marksOf t p
    let halted := c.fab.halted.contains p
    let run := c.tileRun t (kind == some 2)
    let spoiled := run.spoiled && run.pass == some p
    let spec := (kind == some 1 && c.isEntry) || (kind == some 3 && (c.isEntry || c.isOutput))
    let own := natOfBits [c.cancelHeld k, false, halted || spoiled, c.throttles t, false, spec, kind == some 2, c.onFallback]
    { hdr := CrumbHeader.sealed { k.hdr with flags := k.hdr.flags ||| (marks &&& 0xAD) ||| BitVec.ofNat 8 own }
      payload := if halted || marks.getLsbD flagCancel then List.replicate 64 0 else k.payload }

/-- The REPOCH expected of a pass (R205). -/
def Chip.repochOf (c : Chip) (p : Pass) : Option Byte :=
  match c.rcp.active with
  | none => none
  | some r => match c.rcp.activeFrom with
    | some a => some (if passBefore p a then c.rcp.formerRepoch else r.repoch)
    | none => some r.repoch

/-- The WEPOCH a pass implies (R256). -/
def Chip.wepochOf (c : Chip) (p : Pass) : Option Byte :=
  match c.load.old with
  | some (e, _, _) => if passBefore p c.load.switchPass then some e.wepoch else c.load.active.map (·.wepoch)
  | none => c.load.active.map (·.wepoch)

/-- A crumb with a zero payload for a slot of a pass begun on the device: what no operation produces (R171, R307, R346). Its KIND
is 0 (DESIGN CHOICE, log entry 44). -/
def Chip.zeroCrumb (c : Chip) (r : PassRec) (slot : BitVec 14) (flags : Byte) : Crumb :=
  { hdr := CrumbHeader.sealed { slot, req := r.req, pass := r.pass, wepoch := r.wepoch, repoch := (c.repochOf r.pass).getD 0
                                variant := r.variant, kind := 0, flags, pos := r.pos, crc := 0 }
    payload := List.replicate 64 0 }

/-- The tile has retired a pass that runs dry: its crumbs are due without an operation behind them (R171, R307). -/
def Chip.dryDone (c : Chip) (t : TileIx) (r : PassRec) : Bool :=
  let run := c.tileRun t r.isChunk
  c.runsDry t r.pass && run.ops.isEmpty && run.last.any fun l => !passAfter r.pass l

/-- The crumb that comes for a slot of a pass although nothing produces it: from the tile, where the pass runs dry (R171, R307);
from a ring region whose port is down (R346). -/
def Chip.dueWithout (c : Chip) (t : TileIx) (inp : NodePort) (slot : BitVec 14) (r : PassRec) : Option Crumb :=
  if inp = .local' then
    if c.dryDone t r then some (c.stamped t (c.zeroCrumb r slot 0)) else none
  else match regionAt t inp with
    | some g =>
      let x := c.port (BitVec.ofNat 3 g)
      if g < 8 ∧ !x.isUp ∧ x.synth.contains r.pass then some (c.zeroCrumb r slot 0x84) else none
    | none => none

/-- Entries of an output still to come for a pass: all of them before its list has begun it, the rest of them while it is at it. -/
def Chip.stillDue (c : Chip) (t : TileIx) (out : NodePort) (q : Pass) : List NodeEntry :=
  let es := c.entriesFor t out q
  match c.listPass t out with
  | some p =>
    if p = q then (match c.listAt t out with
      | 0 => []
      | n + 1 => es.drop (n - n / c.resInt))
    else if passBefore q p then [] else es
  | none => es

/-- A list names a slot from an input. -/
def namesSlot (es : List NodeEntry) (inp : NodePort) (slot : BitVec 14) : Bool := es.any fun e => match e with
  | .slot i s _ => i == inp && s == slot
  | _ => false

/-- Another output's list still names a waiting crumb: its entry is not yet due there (R155). -/
def Chip.expectedElsewhere (c : Chip) (t : TileIx) (out inp : NodePort) (k : Crumb) : Bool :=
  nodePorts.any fun o => o != out && namesSlot (c.stillDue t o k.hdr.pass) inp k.hdr.slot

/-- A prompt position is granted (R293): the device holds no other chunk, where the crumb enters it from a region. -/
def Chip.grantsPrompt (c : Chip) (t : TileIx) (inp : NodePort) (p : Pass) : Bool :=
  (regionAt t inp).isNone || !(c.rcp.passes.any fun x => x.isChunk && x.pass != p && !c.passDone x)

/-- Some prompt position of the node names a slot from an input. -/
def Chip.promptNamed (c : Chip) (t : TileIx) (inp : NodePort) (k : Crumb) : Bool :=
  nodePorts.any fun o => (c.entriesFor t o k.hdr.pass).any fun e => match e with
    | .prompt i s => i == inp && s == k.hdr.slot
    | _ => false

/-- The chunk on the device. -/
def Chip.chunkNow (c : Chip) : Option PassRec := c.rcp.passes.reverse.find? fun x => x.isChunk

/-- A prompt position takes the chunk's crumb, if it may (R156, R293): a crumb whose slot no prompt position names goes with
POISON; where the chunk runs dry the crumb is made, once for each slot. -/
def Chip.takePrompt (c : Chip) (t : TileIx) (out inp : NodePort) (slot : BitVec 14) : Option Chip :=
  match firstPrompt (c.inputReg t inp) with
  | some x =>
    if !c.grantsPrompt t inp x.2.hdr.pass then none
    else if x.2.hdr.slot = slot then c.passCrumb t inp out none x x.2
    else if c.promptNamed t inp x.2 then none
    else c.passWrong t inp out none x
  | none =>
    match c.chunkNow with
    | some r =>
      let key := (t, out, r.pass, slot)
      match (if key ∈ c.fab.promptOut then none else c.dueWithout t inp slot r) with
      | some k =>
        let h := c.handOut t out none k
        if h.2 then some { h.1 with fab := { h.1.fab with promptOut := h.1.fab.promptOut ++ [key] } } else none
      | none => none
    | none => none

/-- The input and slot of a list's first slot entry. -/
def firstSlot (es : List NodeEntry) : Option (NodePort × BitVec 14) :=
  es.findSome? fun e => match e with
    | .slot i s _ => some (i, s)
    | _ => none

/-- An output's list begins with a pass whose first crumb comes without an operation behind it. -/
def Chip.beginsDry (c : Chip) (t : TileIx) (out : NodePort) (r : PassRec) : Bool :=
  let fresh := match c.listPass t out with
    | some p => passAfter r.pass p
    | none => true
  !r.isChunk && fresh && (firstSlot (c.entriesFor t out r.pass)).any fun x => (c.dueWithout t x.1 x.2 r).isSome

/-- The pass that an output's list begins with next (R155): of a waiting crumb that it names, or that no output names and that
waits where it looks first; else one whose first crumb nothing produces. -/
def Chip.nextOfList (c : Chip) (t : TileIx) (out : NodePort) : Option Pass :=
  let byCrumb := nodePorts.findSome? fun inp => match firstPlain (c.inputReg t inp) with
    | some x =>
      let es := c.entriesFor t out x.2.hdr.pass
      if namesSlot es inp x.2.hdr.slot || ((firstSlot es).any (·.1 == inp) && !c.expectedElsewhere t out inp x.2) then
        some x.2.hdr.pass
      else none
    | none => none
  byCrumb.orElse fun _ => (c.rcp.passes.find? (c.beginsDry t out)).map (·.pass)

/-- Between passes an output passes the crumbs that take reserved, load, sprinkle and prompt positions, where its list has such
(DEDUCED, log entry 39); a device with no active recipe passes control-class and KIND 7 crumbs at once (R248). -/
def Chip.betweenPasses (c : Chip) (t : TileIx) (out : NodePort) : Option Chip :=
  let es := c.listNow t out
  let may := fun (k : BitVec 4) => controlKind k || (k == 7 && (c.rcp.active.isNone || es.contains .load))
    || (k == 4 && es.contains .sprinkle)
  match c.waitingFor t out may with
  | some (inp, x) => c.passCrumb t inp out none x x.2
  | none =>
    match es.findSome? fun e => match e with
      | .prompt inp slot => c.takePrompt t out inp slot
      | _ => none with
    | some c => some c
    | none => (c.nextOfList t out).map fun q => c.beginList t out q

/-- A slot entry is due (R155, R156): its crumb passes; one that waits for its own entry at another output is left; any other is
passed with POISON; a crumb that nothing produces is made. -/
def Chip.takeSlot (c : Chip) (t : TileIx) (out inp : NodePort) (slot : BitVec 14) (route : Byte) : Option Chip :=
  match firstPlain (c.inputReg t inp) with
  | some x =>
    if x.2.hdr.slot = slot then c.passCrumb t inp out (some route) x x.2
    else if c.expectedElsewhere t out inp x.2 then none
    else c.passWrong t inp out (some route) x
  | none =>
    match ((c.listPass t out).bind fun q => c.rcp.passes.find? fun r => r.pass == q).bind (c.dueWithout t inp slot) with
    | some k => let r := c.handOut t out (some route) k; if r.2 then some r.1 else none
    | none => none

/-- An output does what is due there, if it can (R155, R156, R164, R248, R293, R364). -/
def Chip.stepOutput (c : Chip) (t : TileIx) (out : NodePort) : Option Chip :=
  let special := fun (f : BitVec 4 → Bool) => match c.waitingFor t out f with
    | some (inp, x) => (c.passCrumb t inp out none x x.2).map fun c => c.nextEntry t out
    | none => some (c.nextEntry t out)
  match c.dueAt t out with
  | none => c.betweenPasses t out
  | some none => special controlKind
  | some (some .load) => special (· == 7)
  | some (some .sprinkle) => special (· == 4)
  | some (some .attention) => some (c.nextEntry t out)
  | some (some (.prompt inp slot)) => some (((c.takePrompt t out inp slot).getD c).nextEntry t out)
  | some (some (.slot inp slot route)) => (c.takeSlot t out inp slot route).map fun c => c.nextEntry t out

/-- The check wires of a link (R157): `wrong` flips 512 payload wires, 128 header wires and 64 check wires. The crumb as
taken, corrected words and words with a double error. -/
def wireCheck (k : Crumb) (wrong : BitVec 704) : Crumb × Nat × Nat :=
  let d := wordOfBytes ((k.payload ++ List.replicate 64 0).take 64)
  let chk := check512 d ^^^ wrong.extractLsb' 640 64
  let ws := ((parts512 (d ^^^ wrong.extractLsb' 0 512)).zip (List.range 8)).map fun x =>
    secdedDecode x.1 (chk.extractLsb' (8 * x.2) 8)
  let h := headerOf (leBytes 16 ((leNat (headerBytes k.hdr)) ^^^ (wrong.extractLsb' 512 128).toNat))
  ({ hdr := h, payload := leBytes 64 (join512 (ws.map (·.1))).toNat }, (ws.filter (·.2 == .single)).length,
    (ws.filter (·.2 == .double)).length)

/-- The checks of a node on a crumb (R157, R163): the crumb to pass on, with whether its header may be trusted, or none when it
is discarded. -/
def Chip.nodeChecks (c : Chip) (t : TileIx) (inp : NodePort) (k : Crumb) (wrong : BitVec 704) : Chip × Option (Crumb × Bool) :=
  let r := wireCheck k wrong
  let detail := tileDetail t (NodePort.index inp) 0
  let k := r.1
  let info : EventInfo := { detail, pass := if custodyKind k.hdr.kind then some k.hdr.pass else none }
  let c := (List.range r.2.1).foldl (fun (c : Chip) _ => c.tally Src.meshSbe detail) c
  let badHdr := k.hdr.crc != CrumbHeader.crcOf k.hdr || reservedKind k.hdr.kind
  let c := if badHdr then c.raise Src.meshHdr info else c
  if badHdr && controlKind k.hdr.kind then (c, none)
  else
    let c := if 0 < r.2.2 then c.raise Src.meshDed info else c
    (c, some (if badHdr || decide (0 < r.2.2) then poisonCrumb k else k, !badHdr))

/-- A check of a data crumb: where it fails the crumb receives POISON and, unless it was reported before, the source raises (R205,
R211, R256, R277). -/
def Chip.checkCrumb (c : Chip) (t : TileIx) (k : Crumb) (ok reported : Bool) (src : BitVec 8) : Chip × Crumb :=
  if ok then (c, k)
  else
    (if reported then c else c.raise src { detail := tileDetail t 0 k.hdr.slot.toNat, pass := some k.hdr.pass }, poisonCrumb k)

/-- The checks on a crumb of a pass at an edge node and at the tile that takes it (R205, R256, R277, R291). A crumb that comes to the tile
with POISON has been reported (DEDUCED, log entry 41). -/
def Chip.passChecks (c : Chip) (t : TileIx) (k : Crumb) (reported : Bool) : Chip × Crumb :=
  if !custodyKind k.hdr.kind then (c, k)
  else
    let (c, k) := c.checkCrumb t k (c.repochOf k.hdr.pass == some k.hdr.repoch) reported Src.recipeMismatch
    let (c, k) := c.checkCrumb t k (c.wepochOf k.hdr.pass == some k.hdr.wepoch) reported Src.wepochMismatch
    let served := (c.hotEntry k.hdr.req).isSome && c.rcp.active.any fun r => r.hasVariant k.hdr.variant.toNat
    c.checkCrumb t k served reported Src.reqState

/-- The pass kind a crumb's marks give (R206). -/
def kindOf (k : Crumb) (positions : Nat) : BitVec 2 :=
  if hasFlag k flagPrompt then 2 else if hasFlag k flagSpec then (if 1 < positions then 1 else 3) else 0

/-- The device accepts a crumb of a pass: the first one takes it across its boundary into the pass (R204). -/
def Chip.meetPass (c : Chip) (k : Crumb) (positions : Nat) : Chip :=
  if c.hasBegun k.hdr.pass then c
  else c.deviceBoundary { pass := k.hdr.pass, req := k.hdr.req, variant := k.hdr.variant, wepoch := k.hdr.wepoch, pos := k.hdr.pos
                          positions, kind := kindOf k positions, began := c.tick.count }

/-- KINDs whose first crumb shows that a pass has come to the device. -/
def startsPass (k : BitVec 4) : Bool := k == 0 || k == 2 || k == 8

/-- A crumb enters an input register: the checks of the node, and at an edge those on crumbs of passes (R155 to R157, R163, R204,
R205). -/
def Chip.enterNode (c : Chip) (t : TileIx) (inp : NodePort) (k : Crumb) (positions : Nat) (wrong : BitVec 704) : Chip :=
  match c.nodeChecks t inp k wrong with
  | (c, none) => c
  | (c, some (k, sound)) =>
    let c := if sound && startsPass k.hdr.kind then c.meetPass k positions else c
    let (c, k) := if sound && (regionAt t inp).isSome then c.passChecks t k false else (c, k)
    c.setInput t inp (c.inputReg t inp ++ [(c.tick.count, k)])

/-- Crumbs between a ring region and a node (R20). -/
def Chip.fifoIn (c : Chip) (key : Nat) : List (Crumb × Nat × BitVec 704) := sget (fun _ => []) c.fab.fifoIn key

/-- Store them. -/
def Chip.setFifoIn (c : Chip) (key : Nat) (xs : List (Crumb × Nat × BitVec 704)) : Chip :=
  { c with fab := { c.fab with fifoIn := sset (fun _ => []) c.fab.fifoIn key xs } }

/-- The next crumb of a region's FIFO enters when the input register has a place (R20, R155). -/
def Chip.refill (c : Chip) (t : TileIx) (inp : NodePort) : Option Chip :=
  match c.fifoIn (portKey t inp) with
  | (k, n, w) :: rest =>
    if (c.inputReg t inp).length < 2 then some ((c.setFifoIn (portKey t inp) rest).enterNode t inp k n w) else none
  | [] => none

/-- The first output that can do something does it, else an input register is refilled. -/
def Chip.stepNode (c : Chip) (t : TileIx) : Option Chip :=
  (nodePorts.findSome? (c.stepOutput t)).orElse fun _ => nodePorts.findSome? (c.refill t)

/-- A node goes on while it can, with fuel. -/
def Chip.runNode (t : TileIx) : Nat → Chip → Chip
  | 0, c => c
  | n + 1, c => match c.stepNode t with
    | some c => Chip.runNode t n c
    | none => c

/-- Fuel for a node: its lists, once over for every crumb that waits and every pass. -/
def Chip.nodeFuel (c : Chip) (t : TileIx) : Nat :=
  let lists := (c.orders.2.filter fun l => l.tile == t).foldl (fun n l =>
    n + 2 * l.entries.length + 2 * (l.subs.foldl (fun n x => n + x.2.length) 0) + 2) 1
  let crumbs := nodePorts.foldl (fun n p => n + (c.inputReg t p).length + (c.fifoIn (portKey t p)).length) 0
  lists * (1 + crumbs + c.rcp.passes.length)

/-- A node goes on. -/
def Chip.advanceNode (c : Chip) (t : TileIx) : Chip := Chip.runNode t (c.nodeFuel t) c

/-- Every ring region and every node that has something to do goes on. -/
def Chip.advanceMesh (c : Chip) : Chip :=
  let c := (c.fab.fifoOut.map (·.1)).foldl (fun c key => c.drainFifo key 9) c
  let tiles := (c.fab.inputs.map fun p => p.1 / 5) ++ (c.orders.2.map fun l => l.tile.toNat)
  tiles.eraseDups.foldl (fun c t => c.advanceNode (BitVec.ofNat 10 t)) c

/-- A node takes a crumb into an input register of two places (R155); one past them waits in the FIFO of a ring region, of 8
entries (R20), and cannot enter elsewhere. Under a device HALT a node takes none from its local port (R171). -/
def Chip.meshAccept (c : Chip) (t : TileIx) (inp : NodePort) (k : Crumb) (positions : Nat) (wrong : BitVec 704) : Chip :=
  if inp == .local' && c.fab.deviceHalt then c
  else
    let key := portKey t inp
    if (c.inputReg t inp).length < 2 ∧ (c.fifoIn key).isEmpty then
      (c.enterNode t inp (if inp = .local' then c.stamped t k else k) positions wrong).advanceNode t
    else if (regionAt t inp).isSome ∧ (c.fifoIn key).length < 8 then c.setFifoIn key (c.fifoIn key ++ [(k, positions, wrong)])
    else c

end Sys2Proof.Machine
end

