-- ==== Sys2Proof/Machine/ArrayCmds.lean ====
section
/-! DEFINITION. The rows of the tile arrays (chapter 03; R22 to R27, R110, R403): meanings. A row whose event is not due
changes nothing. -/

namespace Sys2Proof.Machine

/-- ARRAY_OP_ISSUE (R72, R77, R110, R146, R171): no tile issues under a device HALT. Access slots of the operations' operands
count from `slot`. A pass that runs dry leaves its crumbs due at the tile's node (R171, R307). -/
def execArrayOpIssue (t : TileIx) (slot : Nat) (s : State) : Result :=
  s.onDeviceBoth fun x => if x.1.fab.deviceHalt then x else settleRequests ((x.1.tileIssue t slot).advanceNode t, x.2)

/-- BEAT_ADMIT (R24, R403): waiting beats of a sector that have a place and no proof before them. -/
def execBeatAdmit (sector : BitVec 4) (s : State) : Result := s.onDevice fun c => c.runGovernor sector.toNat

/-- A proof starts (R27, R403): once PROOF_K beats have been admitted, none is for PROOF_LEN × 8u. -/
def Chip.startProof (c : Chip) (sector : Nat) : Chip :=
  match c.proofOf sector with
  | some (k, len) =>
    if !(c.sector sector).proof && decide (k ≤ (c.sector sector).counted.toNat) then
      (c.modSector sector fun x => { x with proof := true }).emit (.duration (8 * len))
    else c
  | none => c

/-- PROOF_START (R27, R403). -/
def execProofStart (sector : BitVec 4) (s : State) : Result := s.onDevice fun c => c.startProof sector.toNat

/-- A proof ends (R403): the count restarts and waiting beats are admitted. -/
def Chip.endProof (c : Chip) (sector : Nat) : Chip :=
  if (c.sector sector).proof then (c.modSector sector fun x => { x with proof := false, counted := 0 }).runGovernor sector else c

/-- PROOF_END (R403). -/
def execProofEnd (sector : BitVec 4) (s : State) : Result := s.onDevice fun c => c.endProof sector.toNat

/-- A block whose 64 elements are all 0 (R76). -/
def Beat.isZero (b : Beat) : Bool := b.block.all (· == 0)

/-- BEAT_COMPLETE (R73 to R79): `wrong` lists cells, by row of the group and column, that read wrong in this beat. -/
def execBeatComplete (t : TileIx) (a : ArrRef) (wrong : List (Nat × Nat)) (s : State) : Result :=
  s.onDevice fun c =>
    match c.arrOp t a with
    | some (.beat b) => if b.isZero then c else c.finishBeat t a b wrong
    | _ => c

/-- ZERO_BEAT_COMPLETE (R55, R76). -/
def execZeroBeatComplete (t : TileIx) (a : ArrRef) (s : State) : Result :=
  s.onDevice fun c =>
    match c.arrOp t a with
    | some (.beat b) => if b.isZero then c.finishZero t a b else c
    | _ => c

/-- A plane is selected (R77, R364): a sprinkle's beat that waited for it goes to the governor. -/
def Chip.selectDone (c : Chip) (t : TileIx) (n : Fin 17) : Chip :=
  match c.arrOp t (.n n) with
  | some (.select p next) =>
    let c := (c.setArrOp t (.n n) none).setSelected t n p
    match next with
    | some b => c.offerBeat t (.n n) b
    | none => c
  | _ => c

/-- PLANE_SELECT_COMPLETE (R77). -/
def execPlaneSelectComplete (t : TileIx) (n : Fin 17) (s : State) : Result := s.onDevice fun c => c.selectDone t n

/-- The bits a row read delivers (R71, R78): an N-array's as sensed, an S-array's as its words decode. Of a row of an S-array
the words are checked, and single errors rewritten (DEDUCED, log entry 31). -/
def Chip.rowReadDone (c : Chip) (t : TileIx) (a : ArrRef) (row : Nat) (margin : Bool) (wrong : List Nat) (weak : WeakCols) : Chip :=
  let c := c.setArrOp t a none
  let r : Chip × BitVec 1024 := match a with
    | .n _ => (c, c.arrRow t a row ^^^ colBits wrong)
    | .s i =>
      let c := c.readSRow t i row wrong
      (c, if row < 288 then rowOfWords ((c.sWords t i row).map (·.1)) else c.arrRow t a row)
  r.1.modTileArr t fun x => { x with rowRead := some (a, row, r.2, if margin then c.weakCols weak else []) }

/-- ROW_READ_COMPLETE (R78): the columns that read wrong, and the weak ones. -/
def execRowReadComplete (t : TileIx) (a : ArrRef) (wrong : List Nat) (weak : WeakCols) (s : State) : Result :=
  s.onDeviceBoth fun x =>
    match x.1.arrOp t a with
    | some (.rowRead row margin) => settleRequests (x.1.rowReadDone t a row.toNat margin wrong weak, x.2)
    | _ => x

/-- S_ROW_WRITE_COMPLETE (R90, R96, R98, R249). -/
def execSRowWriteComplete (t : TileIx) (a : Fin 9) (s : State) : Result :=
  s.onDeviceBoth fun x =>
    match x.1.arrOp t (.s a) with
    | some (.rowWrite row mask data pass) => settleRequests (x.1.finishRow t a row.toNat mask data pass, x.2)
    | _ => x

/-- PLANE_WRITE_SLOT_GRANT (R81 to R83, R87, R88, R490): no write starts while PWRFAIL_N is low. -/
def execPlaneWriteSlotGrant (s : State) : Result :=
  s.onDeviceBoth fun x =>
    if !x.1.pins.pwrfailN then x
    else match x.1.firstWrite with
      | some j => settleRequests (x.1.grantWrite j, x.2)
      | none => x

/-- PLANE_WRITE_COMPLETE (R83, R84, R490): due once the write holds all its rows; `trouble` names rows that needed pulses again.
While PWRFAIL_N is low no further pulse starts, so the write goes no further. -/
def execPlaneWriteComplete (t : TileIx) (n : Fin 17) (plane : BitVec 2) (trouble : List RowTrouble) (s : State) : Result :=
  s.onDeviceBoth fun x =>
    if !x.1.pins.pwrfailN then x
    else match x.1.runningWrite t n plane with
      | some j => settleRequests (x.1.completeWrite j trouble, x.2)
      | none => x

/-- PLANE_WRITE_FAIL (R84, R86, R250, R490). -/
def execPlaneWriteFail (t : TileIx) (n : Fin 17) (plane : BitVec 2) (trouble : RowTrouble) (s : State) : Result :=
  s.onDeviceBoth fun x =>
    if !x.1.pins.pwrfailN then x
    else match x.1.runningWrite t n plane with
      | some j => settleRequests (x.1.failWrite j trouble, x.2)
      | none => x

/-- A scrub slot is used (R72, R77, R91): the read that runs completes; else the walk's next read is started, which may need a
plane select first, and completes. -/
def Chip.scrubSlot (c : Chip) (t : TileIx) (isS : Bool) (wrong : List Nat) (weak : WeakCols) : Chip :=
  if (c.scrubbing t isS).isSome then c.scrubDone t isS wrong weak
  else match c.startScrub t isS with
    | some (c, true) => c.scrubDone t isS wrong weak
    | some (c, false) => c
    | none => c

/-- SCRUB_SLOT_READ (R91 to R94): `wrong` and `weak` are columns of the row that the walk reads. -/
def execScrubSlotRead (t : TileIx) (isS : Bool) (wrong : List Nat) (weak : WeakCols) (s : State) : Result :=
  s.onDeviceBoth fun x => settleRequests (x.1.scrubSlot t isS wrong weak, x.2)

/-- SCRUB_LATE (R91). -/
def execScrubLate (t : TileIx) (isS : Bool) (s : State) : Result :=
  s.onDevice fun c => if (if isS then c.arr.sEn else c.arr.nvEn) then c.tally Src.scrubLate (tileDetail t 0 0) else c

/-- REFRESH_START (R88, R99). -/
def execRefreshStart (t : TileIx) (s : State) : Result :=
  s.onDeviceBoth fun x => settleRequests (x.1.refresh t, x.2)

/-- STANDIN (R95, R96, R101): an order for a target that is already held or served changes nothing. -/
def execStandin (t : TileIx) (target : Target) (s : State) : Result :=
  s.onDeviceBoth fun x =>
    if x.1.isCovered t target then x else settleRequests (x.1.orderStandin t target false, x.2)

end Sys2Proof.Machine
end

