-- ==== Sys2Proof/Machine/Completion.lean ====
section
/-! DEFINITION. Completion entries, notices and the end of a reaction (R379, R380, R460 to R466): written into the mailbox
words by the management complex. -/

namespace Sys2Proof.Machine

/-- Free completion entries of a queue, beyond the one promised to a command in progress (R464, R466). -/
def MbxQueue.free (q : MbxQueue) : Nat := 256 - q.used.toNat - bit q.cmd.isSome

/-- The word of the completion ring that the next entry stands in, with its three neighbours, as the management complex has
it (R460). -/
def MbxQueue.cqBytes (q : MbxQueue) : List Byte := leBytes 64 (sget (fun _ => 0) q.ring (q.cqTail.toNat / 4)).toNat

/-- The buffer word a queue's next completion entry stands in (R458). -/
def MbxQueue.cqWord (q : MbxQueue) : WordIx := BitVec.ofNat 11 (1984 + q.cqTail.toNat / 4)

/-- The queue's record after an entry is written at its tail. -/
def MbxQueue.pushed (q : MbxQueue) (word : BitVec 512) : MbxQueue :=
  { q with
    ring := sset (fun _ => 0) q.ring (q.cqTail.toNat / 4) word
    cqTail := q.cqTail + 1, used := q.used + 1, phase := if q.cqTail = 255 then !q.phase else q.phase
    completed := q.completed + 1 }

/-- Write a completion entry at the queue's tail (R460, R461): the phase stands in the same word access, a write of the whole
word from the management complex's copy of its ring, in the bank's next free slot (log entry 25). -/
def Chip.writeCompletion (c : Chip) (q : QueueIx) (cid status sqHead reason : Nat) (committed notice : Bool)
    (result : Nat) : Chip :=
  let m := c.mq q
  let entry := leBytes 2 cid ++ leBytes 2 status ++ leBytes 1 sqHead ++ leBytes 1 reason
    ++ leBytes 1 (bit m.phase + 2 * bit committed + 4 * bit notice) ++ [0#8] ++ leBytes 8 result
  let word := wordOfBytes (setBytes m.cqBytes (16 * (m.cqTail.toNat % 4)) entry)
  let t : TileIx := q.setWidth 10
  (c.writeWord t m.cqWord word false (c.bank t m.cqWord).next).modMq q fun m => m.pushed word

/-- Post a reaction's notice (R466). -/
def Chip.postNotice (c : Chip) (r : Reaction) (seq : BitVec 32) : Chip :=
  let q := c.mbx.noticeQ
  if !c.qEnabled q then { c with mbx := { c.mbx with noticeDrops := satAdd c.mbx.noticeDrops 1 } }
  else if (c.mq q).free = 0 then
    ({ c with mbx := { c.mbx with noticeDrops := satAdd c.mbx.noticeDrops 1 } } : Chip).tally Src.mbxCqFull 0
  else
    let result := r.first.toNat + place 8 32 seq.toNat + place 40 8 (min 255 r.merged.length)
    let c := c.writeCompletion q 0xFFFF 0 (c.mq q).sqHead.toNat r.level.toNat false true result
    c.emits (c.upModules.map fun m => .sideband m .notice)

/-- A running reaction has done what it must: its stand-in targets are served (R379). A target whose hold does not end
ends in the fault state by R382. -/
def Chip.reactionDone (c : Chip) (r : Reaction) : Bool :=
  r.level != 4 && r.targets.all fun (t, _) =>
    let s := (c.tileArr t).standin
    s.state != .loading

/-- The end of the running reaction (R379, R380, R436): its record and its notice. -/
def Chip.endReaction (c : Chip) : Chip :=
  match c.flt.reaction with
  | none => c
  | some r =>
    if c.reactionDone r then
      let rec0 := { c.newRec r.level.toNat r.first.toNat with
        detail := r.detail, mergedCount := r.merged.length, merged := r.merged }
      let seq := if c.evr.ready then c.evr.lastSeq + 1 else 0
      -- PWRFAIL_RELEASE is counted but not recorded (R495)
      let (c, full, slot) := if r.first = Src.pwrfailRelease then (c, 0, []) else c.createRec rec0 false
      let c := if c.flt.faultState then c else c.modFlt fun f => { f with reaction := none }
      (c.raiseDrops (full + slot.length)).postNotice r seq
    else c

end Sys2Proof.Machine
end

