-- ==== Sys2Proof/Machine/Operands.lean ====
section
/-! DEFINITION. How a host write reaches a register: halves merged, fields touched, ranges, locks and access codes
(R4 to R7), for every register of the map; and the address map (R8). -/

namespace Sys2Proof.Machine

/-- A register write as it reaches the block: which bits the access drives, and the data (R4). -/
structure RegData where
  mask : Word64
  data : Word64
  deriving DecidableEq, Repr

/-- The bits a write drives. -/
def RegData.of (w : RegWidth) (data : Word64) : RegData :=
  match w with
  | .full => ⟨BitVec.allOnes 64, data⟩
  | .low => ⟨0x0000_0000_FFFF_FFFF, data⟩
  | .high => ⟨0xFFFF_FFFF_0000_0000, data <<< 32⟩

/-- The access drives a bit. -/
def RegData.touches (d : RegData) (lo : Nat) : Bool := d.mask.getLsbD lo

/-- The written value of a field. -/
def RegData.val (d : RegData) (lo w : Nat) : Nat := field d.data.toNat lo w

/-- A written bit that is driven and 1. -/
def RegData.one (d : RegData) (lo : Nat) : Bool := d.touches lo && d.data.getLsbD lo

/-- A field's bits after the access: the written ones where it drives them, else the old ones (R4). -/
def RegData.merged {w : Nat} (d : RegData) (lo : Nat) (old : BitVec w) : BitVec w :=
  let m := d.mask.extractLsb' lo w
  (d.data.extractLsb' lo w &&& m) ||| (old &&& ~~~m)

/-- A field's new value: the merged one when the access drives a bit of it and it is accepted, else the old one. -/
def RegData.upd {w : Nat} (d : RegData) (lo : Nat) (ok : Nat → Bool) (old : BitVec w) : BitVec w :=
  if d.mask.extractLsb' lo w ≠ 0 && ok (d.merged lo old).toNat then d.merged lo old else old

/-- A one-bit field's new value. -/
def RegData.updBit (d : RegData) (lo : Nat) (old : Bool) : Bool := if d.touches lo then d.data.getLsbD lo else old

/-- The tally of a write to a locked RWL register (R5, R521). -/
def Chip.lockedWrite (c : Chip) (block off : Nat) : Chip :=
  c.tally Src.lockedRegWrite (BitVec.ofNat 32 (block <<< 16 + off))

/-- Start the fetch of the firmware image (R500): only from boot step 2 on, while a boot may go on. -/
def Chip.startFirmwareFetch (c : Chip) : Chip :=
  if c.boot.dead || c.boot.locked then c
  else if c.sys.bootStep.toNat < 2 then c
  else ({ c with boot := { c.boot with fetching := true, attempts := satAdd c.boot.attempts 1 }
                 sys := { c.sys with bootStep := 2 } } : Chip).emit (.hostFetch c.boot.src c.boot.len.toNat)

/-- A write to SYS_BOOT_LEN (R500, R516). -/
def Chip.writeBootLen (c : Chip) (d : RegData) : Chip :=
  if !d.touches 0 then c
  else if c.boot.locked then c.lockedWrite 0 0x0708
  else if inRange 64 4194304 (d.val 0 23) then
    ({ c with boot := { c.boot with len := BitVec.ofNat 23 (d.val 0 23) } } : Chip).startFirmwareFetch
  else c

/-- A write to a SYS register other than those of sync objects, recipes, loading and serving. -/
def Chip.writeSys (c : Chip) (off : Nat) (d : RegData) : Chip :=
  if off = 0x0100 then
    if !d.touches 0 then c
    else if c.sys.armLocked then c.lockedWrite 0 off
    else { c with sys := { c.sys with dieBudget := d.upd 0 (inRange 1024 8192) c.sys.dieBudget } }
  else if off = 0x0110 then
    { c with sys := { c.sys with
        pwrProofK := d.upd 32 anyVal c.sys.pwrProofK, pwrProofLen := d.upd 24 anyVal c.sys.pwrProofLen
        limitW := d.upd 0 (inRange 600 1050) c.sys.limitW } }
  else if off = 0x0200 then
    { c with arr := { c.arr with
        wearWarn := d.upd 16 (inRange 1 10000) c.arr.wearWarn, slots := d.upd 0 (inRange 1 2048) c.arr.slots } }
  else if off = 0x0208 then
    { c with arr := { c.arr with
        nvHours := d.upd 40 (inRange 1 168) c.arr.nvHours, sMs := d.upd 30 (inRange 1 1000) c.arr.sMs
        refreshT := d.upd 24 anyVal c.arr.refreshT, margin := d.upd 20 anyVal c.arr.margin
        sEn := d.updBit 1 c.arr.sEn, nvEn := d.updBit 0 c.arr.nvEn } }
  else if off = 0x0418 then
    { c with rcp := { c.rcp with drainMs := d.upd 0 (inRange 1 10000) c.rcp.drainMs } }
  else if off = 0x0700 then
    if c.boot.locked then c.lockedWrite 0 off
    else { c with boot := { c.boot with src := (c.boot.src &&& ~~~d.mask) ||| (d.data &&& d.mask) } }
  else if off = 0x0708 then c.writeBootLen d
  else c

/-- Restart a queue that is being enabled (R461): heads, tails and phase. -/
def MbxQueue.restart (q : MbxQueue) : MbxQueue :=
  { q with sqTail := 0, sqHead := 0, cqHead := 0, cqTail := 0, used := 0, phase := true, ring := [] }

/-- A write to MBX_CTL (R480): queues newly enabled restart; bit 0 of QEN reads 1 and ignores writes. -/
def Chip.writeMbxCtl (c : Chip) (d : RegData) : Chip :=
  let qen := (d.upd 0 anyVal c.mbx.qen) ||| 1
  let fresh := (List.range 16).filter fun n => qen.getLsbD n && !c.mbx.qen.getLsbD n
  let c := { c with mbx := { c.mbx with
    coalesceUs := d.upd 40 anyVal c.mbx.coalesceUs, noticeQ := d.upd 32 anyVal c.mbx.noticeQ, qen } }
  fresh.foldl (fun c n => c.modMq (BitVec.ofNat 4 n) MbxQueue.restart) c

/-- A command doorbell's value (R462). -/
def Chip.sqDoorbell (c : Chip) (q : QueueIx) (t : BitVec 6) : Chip :=
  let m := c.mq q
  if (m.sqTail - m.sqHead).toNat ≤ (t - m.sqHead).toNat then c.modMq q fun m => { m with sqTail := t }
  else c.tally Src.mbxDoorbell 0

/-- A completion doorbell's value (R462): the head may not move past the completion tail. -/
def Chip.cqDoorbell (c : Chip) (q : QueueIx) (h : BitVec 8) : Chip :=
  let m := c.mq q
  let n := (h - m.cqHead).toNat
  if n ≤ m.used.toNat then c.modMq q fun m => { m with cqHead := h, used := m.used - BitVec.ofNat 9 n }
  else c.tally Src.mbxDoorbell 0

/-- A write to the MBX block (R480, R482). -/
def Chip.writeMbx (c : Chip) (off : Nat) (d : RegData) : Chip :=
  if off = 0x0000 then c.writeMbxCtl d
  else match regIdx off 0x0100 32 with
    | some i =>
      let q := BitVec.ofNat 4 (i / 2)
      if !d.touches 0 then c
      else if i % 2 = 0 then c.sqDoorbell q (BitVec.ofNat 6 (d.val 0 6))
      else c.cqDoorbell q (BitVec.ofNat 8 (d.val 0 8))
    | none => c

/-- FLT_CTL.ENTER (R387, R390): raises FAULT_ENTER_CMD and enters the fault state. -/
def Chip.enterCommand (c : Chip) : Chip := c.raise Src.faultEnterCmd {}

/-- Clear SEVERE of a source: the open window closes with it (R395). -/
def Chip.clearSevere (c : Chip) (n : Nat) : Chip :=
  c.modFlt fun f => { f with src := smod fltSrcReset f.src n fun s => { s with severe := false, window := none, wcount := 0 } }

/-- Clear STICKY of a source: the capture is released (R378, R395). -/
def Chip.clearSticky (c : Chip) (n : Nat) : Chip :=
  c.modFlt fun f => { f with src := smod fltSrcReset f.src n fun s =>
    { s with sticky := false, firstTick := 0, detail := 0, firstClass := none } }

/-- FLT_SUMMARY.CLR (R389). -/
def Chip.clearFirst (c : Chip) : Chip := c.modFlt fun f => { f with firstSrc := 0xFF }

/-- A write to FLT_SRC_CFGn (R394): an action code above 4 is ignored, and the actions of a source whose default is the
fault state are read-only. -/
def cfgSource (n : Nat) (d : RegData) (s : FltSrc) : FltSrc :=
  let fixed := defaultTally n == some 4
  let ok := fun v => !fixed && decide (v ≤ 4)
  { s with
    sevAction := d.upd 53 ok s.sevAction, tallyAction := d.upd 48 ok s.tallyAction
    n := d.upd 32 anyVal s.n, w := d.upd 0 anyVal s.w }

/-- A write to the FLT block (R389 to R396). -/
def Chip.writeFlt (c : Chip) (off : Nat) (d : RegData) : Chip :=
  if off = 0x0000 then
    let c := if d.one 8 then c.clearFirst else c
    if d.one 1 then c.modFlt fun f => { f with mgmtRestarted := false } else c
  else if off = 0x0008 then
    let c := c.modFlt fun f => { f with
      resetDelayMs := d.upd 32 (inRange 10 10000) f.resetDelayMs, holdUs := d.upd 16 (inRange 25 4000) f.holdUs }
    if d.one 0 then c.enterCommand else c
  else match regIdx off 0x1000 192 with
    | some n =>
      if (defaultTally n).isNone then c
      else c.modFlt fun f => { f with src := smod fltSrcReset f.src n (cfgSource n d) }
    | none => match regIdx off 0x2000 192 with
      | some n =>
        let c := if d.one 1 then c.clearSevere n else c
        if d.one 0 then c.clearSticky n else c
      | none => c

/-- EVR_FLUSH.FLUSH (R441, R451). -/
def Chip.flushCommand (c : Chip) : Chip :=
  let r := c.startFlush
  r.1.raiseDrops r.2.length

/-- A write to the EVR block (R451, R453). -/
def Chip.writeEvr (c : Chip) (off : Nat) (d : RegData) : Chip :=
  if off = 0x0018 then (if d.one 0 then c.flushCommand else c)
  else match regIdx off 0x0100 48 with
    | some n => c.modEvr fun e => { e with snap := smod snapReset e.snap n fun s =>
        { en := d.updBit 19 s.en, block := d.upd 16 anyVal s.block, offset := d.upd 3 anyVal s.offset
          half := d.updBit 0 s.half } }
    | none => c

/-- A write to the OPT block (R357, R358). -/
def Chip.writeOpt (c : Chip) (off : Nat) (d : RegData) : Chip :=
  if off = 0x0200 then
    { c with opt := { c.opt with
        autoReinstate := d.updBit 8 c.opt.autoReinstate, tunnelPref := d.updBit 0 c.opt.tunnelPref } }
  else if off < 0x0200 ∧ off % 0x40 = 0x10 then
    let p := BitVec.ofNat 3 (off / 0x40)
    if !d.touches 0 then c
    else
      let c := if d.data.getLsbD 0 == (c.port p).enable then c else c.portEnable p (d.data.getLsbD 0)
      if d.one 1 then c.portRetrain p else c
  else c

/-- TICK_CLR.CLR_MAX (R187). -/
def Chip.clearGroupMax (c : Chip) : Chip := { c with tick := { c.tick with groupMax := 0 } }

/-- A write to the TICK block. -/
def Chip.writeTick (c : Chip) (off : Nat) (d : RegData) : Chip :=
  if off = 0x0020 && d.one 0 then c.clearGroupMax else c

/-- A write of SYS_TOKEN_RING.TAIL (R311): a TAIL after HEAD is ignored, the comparison being the serial one of R207. -/
def Chip.writeTail (c : Chip) (tail : BitVec 32) : Chip :=
  if passAfter tail c.serve.head then c else { c with serve := { c.serve with tail } }

/-- The registers that sync objects, recipes and serving add to the SYS block's writable ones. -/
def Chip.writeServe (c : Chip) (off : Nat) (d : RegData) : Chip :=
  if off = 0x0608 then (if d.touches 32 then c.writeTail (BitVec.ofNat 32 (d.val 32 32)) else c)
  else match regIdx off 0x0310 8 with
    | some n =>
      if d.touches 0 && !fixedClass n && inRange 2 1000000 (d.val 0 24) then
        { c with so := { c.so with tclass := setAt c.so.tclass n (BitVec.ofNat 24 (d.val 0 24)) } }
      else c
    | none => c

/-- A host write to a register block, coded as EVR_SNAPn.BLOCK: each field by its access code (R5). The HK / THM / CAL
block ignores writes. -/
def Chip.regWrite (c : Chip) (block off : Nat) (d : RegData) : Chip :=
  match block with
  | 0 => (c.writeSys off d).writeServe off d
  | 1 => c.writeMbx off d
  | 2 => c.writeFlt off d
  | 4 => c.writeEvr off d
  | 5 => c.writeOpt off d
  | 6 => c.writeTick off d
  | _ => c

/-- Where a host address lies (R8). -/
inductive HostPlace where
  | reg (block off : Nat)
  | buffer (t : TileIx) (off : Nat)
  | far (off : Nat)
  | outside
  deriving DecidableEq, Repr

/-- The host-visible address map (R8). -/
def hostMap (a : BitVec 40) : HostPlace :=
  let n := a.toNat
  if n < 0x7_0000 then .reg (n / 0x1_0000) (n % 0x1_0000)
  else if 0x1000_0000 ≤ n ∧ n < 0x1800_0000 then
    .buffer (BitVec.ofNat 10 ((n - 0x1000_0000) / 0x2_0000)) ((n - 0x1000_0000) % 0x2_0000)
  else if 0x1_0000_0000 ≤ n ∧ n < 0x1_0000_0000 + farSize then .far (n - 0x1_0000_0000)
  else .outside

/-- A UCIe module carries host accesses (R14, R457). -/
def Chip.moduleUp (c : Chip) (m : UcieIx) : Bool := c.sys.ucieUp.getLsbD m.toNat

/-- The 64 parameter-carrying bytes of a command in progress: a field of the entry (R459). -/
def cmdField (entry : List Byte) (off len : Nat) : Nat := leAt entry off len

end Sys2Proof.Machine
end

