-- ==== Sys2Proof/Machine/Mailbox.lean ====
section
/-! DEFINITION. The mailbox's shared operations (R458 to R473, R522): the command table, the generic checks, completion,
and running a command in progress. Parameter layouts the manual does not give are DESIGN CHOICE, log entry 11. -/

namespace Sys2Proof.Machine

/-- A row of the command table R469: opcode, served in the fault state, first version, default timeout in ms, and the
entry bytes its parameters use (offset, size). -/
structure OpRow where
  code : Nat
  inFault : Bool
  since : Nat
  timeout : Nat
  params : List (Nat × Nat)
  deriving DecidableEq, Repr

/-- The command table (R469), its first half. -/
def opRowsA : List OpRow := [
  ⟨0x0001, true, 0x0204, 10, [(8, 2), (10, 2), (12, 1), (16, 8)]⟩,
  ⟨0x0002, true, 0x0204, 10, [(8, 8)]⟩,
  ⟨0x0100, false, 0x0300, 300, [(8, 8), (16, 4)]⟩,
  ⟨0x0101, false, 0x0300, 10, [(8, 4)]⟩,
  ⟨0x0102, false, 0x0300, 10, []⟩,
  ⟨0x0103, false, 0x0300, 10, []⟩,
  ⟨0x0104, false, 0x0300, 10, [(8, 8)]⟩,
  ⟨0x0200, false, 0x0300, 10, [(8, 8)]⟩,
  ⟨0x0201, false, 0x0300, 50, [(8, 8)]⟩,
  ⟨0x0202, false, 0x0300, 50, [(8, 1), (16, 8)]⟩,
  ⟨0x0203, false, 0x0300, 50, [(8, 8), (16, 4)]⟩,
  ⟨0x0204, false, 0x0300, 10, [(8, 8)]⟩,
  ⟨0x0205, false, 0x0300, 10, [(8, 4), (12, 2)]⟩,
  ⟨0x0206, false, 0x0300, 10, []⟩,
  ⟨0x0300, false, 0x0300, 10, [(8, 8), (16, 8), (24, 8), (32, 8), (40, 8), (48, 4), (52, 4), (56, 4),
    (60, 2), (62, 2)]⟩,
  ⟨0x0301, false, 0x0300, 10, [(8, 2), (10, 1), (11, 1), (12, 1), (13, 1), (14, 1), (16, 4), (20, 4), (24, 4), (28, 4),
    (32, 8), (40, 8), (48, 8)]⟩,
  ⟨0x0302, false, 0x0300, 10, [(8, 2)]⟩,
  ⟨0x0303, false, 0x0300, 10, [(8, 2)]⟩,
  ⟨0x0304, false, 0x0300, 10, [(8, 2)]⟩,
  ⟨0x0305, false, 0x0300, 10, [(8, 2), (16, 8)]⟩,
  ⟨0x0310, false, 0x0300, 10, [(8, 1), (16, 8)]⟩]

/-- The command table (R469), its second half. -/
def opRowsB : List OpRow := [
  ⟨0x0320, false, 0x0301, 50, [(8, 8)]⟩,
  ⟨0x0321, false, 0x0301, 10, [(8, 1), (12, 4), (16, 8)]⟩,
  ⟨0x0322, false, 0x0301, 10, [(8, 1), (10, 2), (12, 4), (16, 8)]⟩,
  ⟨0x0323, false, 0x0301, 10, [(8, 4)]⟩,
  ⟨0x0400, false, 0x0300, 300, [(8, 8), (16, 4)]⟩,
  ⟨0x0500, true, 0x0204, 10, [(8, 1), (10, 2), (12, 2), (16, 8)]⟩,
  ⟨0x0501, true, 0x0204, 10, [(8, 2), (10, 1)]⟩,
  ⟨0x0600, true, 0x0204, 10, [(8, 4), (16, 8)]⟩,
  ⟨0x0601, false, 0x0300, 10, [(8, 8)]⟩,
  ⟨0x0602, false, 0x0300, 100, [(8, 4), (16, 8)]⟩,
  ⟨0x0700, false, 0x0300, 100, []⟩,
  ⟨0x0701, false, 0x0204, 10, [(8, 1), (10, 2)]⟩,
  ⟨0x0702, false, 0x0204, 10, [(8, 1), (9, 1), (10, 1), (11, 1), (12, 1), (13, 1)]⟩,
  ⟨0x0703, false, 0x0204, 10, [(8, 2), (10, 1), (11, 1), (12, 1), (13, 1), (14, 2), (16, 16)]⟩,
  ⟨0x0704, false, 0x0302, 10, [(8, 1), (9, 1)]⟩,
  ⟨0x0800, true, 0x0204, 50, [(8, 32), (40, 8)]⟩,
  ⟨0x0801, true, 0x0204, 10, [(8, 8)]⟩,
  ⟨0x0900, false, 0x0300, 2000, [(8, 8), (16, 4)]⟩,
  ⟨0x0901, false, 0x0300, 100, []⟩,
  ⟨0x0A00, true, 0x0204, 10, [(8, 8)]⟩,
  ⟨0x0A01, false, 0x0300, 10, [(8, 2)]⟩,
  ⟨0x0A02, false, 0x0300, 10, [(8, 1), (9, 1), (10, 2), (12, 4), (16, 8), (24, 8)]⟩,
  ⟨0x0A03, false, 0x0302, 10, []⟩,
  ⟨0x0A04, false, 0x0302, 10, [(8, 4)]⟩,
  ⟨0x0B00, true, 0x0204, 10, [(8, 8)]⟩]

/-- The row of an opcode. -/
def opRow (code : Nat) : Option OpRow := (opRowsA ++ opRowsB).find? (·.code == code)

/-- Opcode, flags, CID and TIMEOUT_MS of an entry (R459). -/
def cmdOpcode (e : List Byte) : Nat := leAt e 0 2
def cmdCid (e : List Byte) : Nat := leAt e 4 2
def cmdNoNotify (e : List Byte) : Bool := bitAt (leAt e 2 1) 0

/-- Every parameter byte that no field of the command uses is 0 (R459). -/
def unusedZero (e : List Byte) (params : List (Nat × Nat)) : Bool :=
  (List.range 56).all fun i =>
    let off := i + 8
    params.any (fun p => decide (p.1 ≤ off) && decide (off < p.1 + p.2)) || leAt e off 1 == 0

/-- Values outside a field's stated range, by opcode (R522 item 6). -/
def valuesOk (c : Chip) (code : Nat) (e : List Byte) : Bool :=
  let v := cmdField e
  match code with
  | 0x0001 => decide (v 12 1 ≤ 1)
  | 0x0202 => decide (v 8 1 ≤ 3)
  | 0x0205 => decide (v 12 2 < 8192)
  | 0x0301 => decide (v 10 1 ≤ 3) && decide (v 13 1 < 8) && (v 13 1 % 2 == 0 || inRange 1 8 (v 14 1))
  | 0x0322 => decide (v 8 1 ≤ 1)
  | 0x0500 =>
    let sel := v 8 1
    let first := v 10 2
    let count := v 12 2
    let limit := if sel = 0 ∨ sel = 1 then 1024 else if sel = 2 then 8192 else if sel = 3 then 16384 else 3
    decide (sel ≤ 4) && (c.mbx.version != 0x0204 || sel == 4) && inRange 1 16384 count && decide (first + count ≤ limit)
  | 0x0501 => if c.mbx.version = 0x0204 then decide (v 8 2 < 8) && v 10 1 == 0
      else decide (v 8 2 < 16384) && decide (v 10 1 < 32)
  | 0x0701 => (v 8 1 == 0 || inRange 1 30 (v 8 1)) && (v 10 2 == 0 || inRange 100 900 (v 10 2))
  | 0x0703 => decide (v 10 1 ≤ 3) && decide (v 11 1 ≤ 3) && decide (v 12 1 ≤ 1) && decide (v 13 1 ≤ 1)
      && decide (v 8 2 % 256 < 32)
  | 0x0704 => decide (v 8 1 ≤ 1) && decide (v 9 1 < 32) && !(inRange 25 30 (v 9 1) && v 8 1 == 0)
      && !(inRange 24 30 (v 9 1) && v 8 1 == 1)
  | 0x0A01 => decide (v 8 2 < 512)
  | 0x0B00 => inRange 1 10000 (v 8 8)
  | _ => true

/-- The common fields of an entry (R459). -/
def headerOk (e : List Byte) : Bool :=
  leAt e 3 1 == 0 && decide (leAt e 2 1 < 2) && cmdCid e != 0xFFFF && decide (leAt e 6 2 ≤ 60000)

/-- A command is accepted at the current boot step (R503). -/
def Chip.bootAccepts (c : Chip) (code : Nat) : Bool :=
  let st := c.sys.bootStep.toNat
  if st < 4 then false
  else if code ∈ [0x0001, 0x0002, 0x0500, 0x0A00, 0x0801, 0x0B00] then true
  else if code = 0x0600 then c.evr.ready
  else if code = 0x0800 then decide (8 ≤ st)
  else decide (9 ≤ st)

/-- Some queue has a command with one of the opcodes in progress. -/
def Chip.running (c : Chip) (codes : List Nat) : Bool :=
  c.mbx.q.any fun p => match p.2.cmd with | some e => cmdOpcode e ∈ codes | none => false

/-- The engine a command needs is busy (R472). -/
def Chip.engineBusy (c : Chip) (code : Nat) : Bool :=
  if code ∈ [0x0100, 0x0400, 0x0900] then c.running [0x0100, 0x0400, 0x0900]
  else if code ∈ [0x0101, 0x0102, 0x0103] then c.running [0x0100]
  else if code = 0x0203 then c.loadCopying
  else if code = 0x0700 then c.cal.full.isSome
  else if code = 0x0602 then c.evr.clear.isSome
  else false

/-- The generic checks in their order (R522): the status of the first that fails. -/
def Chip.genericCheck (c : Chip) (q : QueueIx) (e : List Byte) : Option Nat :=
  let code := cmdOpcode e
  if c.mbx.version = 0 ∧ (q ≠ 0 ∨ ¬ (code = 1 ∨ code = 2)) then some 0x0005
  else match opRow code with
    | none => some 0x0003
    | some r =>
      if c.mbx.version ≠ 0 ∧ c.mbx.version.toNat < r.since then some 0x0005
      else if c.flt.faultState ∧ ¬ r.inFault then some 0x0007
      else if ¬ c.bootAccepts code then some 0x0006
      else if ¬ (headerOk e ∧ unusedZero e r.params ∧ valuesOk c code e) then some 0x0004
      else if c.engineBusy code then some 0x0006
      else none

/-- Announce a completion on the sideband, coalesced (R465). -/
def Chip.announce (c : Chip) (q : QueueIx) : Chip :=
  if (c.mq q).interval then c.modMq q fun m => { m with announce := true }
  else
    let c := c.emits (c.upModules.map fun m => .sideband m (.completion q))
    if c.mbx.coalesceUs = 0 then c else c.modMq q fun m => { m with interval := true }

/-- Complete the command in progress on a queue (R460, R465, R473). -/
def Chip.complete (c : Chip) (q : QueueIx) (status reason result : Nat) : Chip :=
  let m := c.mq q
  match m.cmd with
  | none => c
  | some e =>
    let c := c.writeCompletion q (cmdCid e) status m.sqHead.toNat reason m.commit false result
    let c := c.modMq q fun m => { m with cmd := none, commit := false }
    if cmdNoNotify e then c else c.announce q

/-- A quick command passes its last check: commit, effect and SUCCESS in one (R471). -/
def Chip.commit (c : Chip) (q : QueueIx) : Chip := c.modMq q fun m => { m with commit := true }

/-- Complete with SUCCESS after the commit point. -/
def Chip.succeed (c : Chip) (q : QueueIx) (result : Nat) : Chip := (c.commit q).complete q 0 0 result

/-- Complete with REJECTED and a reason. -/
def Chip.reject (c : Chip) (q : QueueIx) (reason : Nat) : Chip := c.complete q 1 reason 0

/-- AUTH_FAILED, with its MBX_AUTH event (R470). -/
def Chip.authFailed (c : Chip) (q : QueueIx) : Chip := (c.tally Src.mbxAuth 0).complete q 9 0 0

/-- HOST_FETCH (R470). -/
def Chip.hostFetchFailed (c : Chip) (q : QueueIx) : Chip := c.complete q 0x000E 0 0

/-- The command in progress on a queue when it has this opcode and firmware runs; other rows find nothing to do. -/
def Chip.command (c : Chip) (q : QueueIx) (code : Nat) : Option (List Byte) :=
  match (c.mq q).cmd with
  | some e => if cmdOpcode e = code ∧ c.mbx.fwState = 1 then some e else none
  | none => none

/-- Run a command in progress, or change nothing. -/
def Chip.withCommand (c : Chip) (q : QueueIx) (code : Nat) (f : List Byte → Chip) : Chip :=
  match c.command q code with
  | some e => f e
  | none => c

/-- Write a buffer in host memory and complete, or report HOST_FETCH (R470). -/
def Chip.writeHost (c : Chip) (q : QueueIx) (addr : Nat) (bytes : List Byte) (ok : Bool) (result : Nat) : Chip :=
  if ok then (c.emit (.hostWrite (BitVec.ofNat 64 addr) bytes)).succeed q result else c.hostFetchFailed q

/-- The queue from which the management processor takes next (R464): enabled, not empty, with no command in progress
and a free completion entry; queues 0 to 3 first, each set in round-robin order. -/
def Chip.nextQueue (c : Chip) : Option QueueIx :=
  let ready := fun (q : QueueIx) =>
    let m := c.mq q
    c.qEnabled q && m.sqTail != m.sqHead && m.cmd.isNone && decide (0 < m.free)
  let low := (List.range 4).map fun i => BitVec.ofNat 4 ((c.mbx.lastLow.toNat + 1 + i) % 4)
  let high := (List.range 12).map fun i => BitVec.ofNat 4 (4 + (c.mbx.lastHigh.toNat - 4 + 1 + i) % 12)
  (low ++ high).find? ready

/-- The management core works on a command: it takes them one at a time, and those of the hardware engines release it
(R464, R472). -/
def Chip.coreBusy (c : Chip) : Bool :=
  c.mbx.q.any fun p => match p.2.cmd with
    | some e => !(cmdOpcode e ∈ [0x0100, 0x0400, 0x0900, 0x0700, 0x0602])
    | none => false

/-- Take the head command of the next served queue (R458, R464), a read of its word in an access slot of its bank, and make
the generic checks (R522). -/
def Chip.takeCommand (c : Chip) (slot : Nat) (upset : BitVec 576) : Chip :=
  if c.mbx.fwState ≠ 1 || c.coreBusy then c
  else match c.nextQueue with
    | none => c
    | some q =>
      let c := if q.toNat < 4 then { c with mbx := { c.mbx with lastLow := q } }
        else { c with mbx := { c.mbx with lastHigh := q } }
      let r := c.readWord (q.setWidth 10) (BitVec.ofNat 11 (1920 + (c.mq q).sqHead.toNat)) slot upset none
      let c := r.1
      let e := leBytes 64 r.2.1.toNat
      let check := c.genericCheck q e
      let c := c.modMq q fun m => { m with sqHead := m.sqHead + 1, cmd := some e }
      match check with
      | some status => c.complete q status 0 0
      | none => c

end Sys2Proof.Machine
end

