-- ==== Sys2Proof/Machine/BootOps.lean ====
section
/-! DEFINITION. Reset, boot and identity operations (R490 to R512): what a reset keeps, the firmware image's checks,
queue 0's preparation, pending self-resets, the derived keys. -/

namespace Sys2Proof.Machine

/-- A slot write in progress at a reset completes (R490), unless the reset takes precedence over a power failure within
1 µs, when nothing of that flush runs (R497). -/
def Chip.areaAtReset (c : Chip) : Sparse EvSlot :=
  match c.evr.slotsBefore, c.pins.pwrfailAt with
  | some before, some t =>
    if (c.tick.count - t).toNat ≤ 1000 then before
    else (c.evr.buffer.foldl (fun e b => match b.slot with
      | some i => e.setSlot i.toNat (.holds b.r) | none => e) c.evr).slots
  | _, _ => (c.evr.buffer.foldl (fun e b => match b.slot with
      | some i => e.setSlot i.toNat (.holds b.r) | none => e) c.evr).slots

/-- A tile's volatile array state at a reset (R103, R108): a stand-in that has FAILED stays so, and `power` says that a power
cycle goes over it; the rest is lost. SPARE_STATE reads 0, as the table of R108 gives it, also where the nonvolatile table
holds no spare (DESIGN CHOICE, log entry 34). -/
def TileArr.atReset (a : TileArr) (power : Bool) : TileArr :=
  if a.standin.state = .failed then { standin := { state := .failed }, recheck := a.recheck || power } else {}

/-- Reset (R492, R493): everything volatile takes its reset value; the nonvolatile tables, planes and records, owner
slots, fuses and record area stay, and so do the supplies and input pins. A power cycle does the same. -/
def Chip.resetDevice (c : Chip) (power : Bool) : Chip :=
  let lit := allPorts.filter fun p => !(c.port p).dark
  { arr := {
      cells := c.arr.cells, maps := c.arr.maps
      tile := (c.arr.tile.filter fun p => p.2.standin.state == .failed).map fun p => (p.1, p.2.atReset power) }
    evr := { slots := c.areaAtReset, bad := c.evr.bad, hours := c.evr.hours, pcycle := c.evr.pcycle }
    boot := { owner := c.boot.owner, blown := c.boot.blown }
    load := { active := c.load.active, rebuildPending := c.load.rebuildPending }
    pins := { powered := c.pins.powered, resetN := c.pins.resetN, pwrfailN := c.pins.pwrfailN, refclk := c.pins.refclk }
    out := c.out ++ lit.map (fun p => .link p .dark)
    free := c.free }

/-- Request a self-reset after a delay, as SV_RESET does (R496): HALT blocks with reason 3, darkness, a flush. -/
def Chip.requestReset (c : Chip) (ms : Nat) : Chip :=
  let c := c.haltPorts 3
  let r := c.startFlush
  let c := r.1.raiseDrops r.2.length
  if c.flt.thermal then c else { c with boot := { c.boot with selfReset := minDelay c.boot.selfReset ms } }

/-- Zero queue 0's 128 mailbox words and set its heads, tails and phase (R461). -/
def Chip.prepareQueue0 (c : Chip) : Chip :=
  let c := (List.range 128).foldl (fun c i => c.bufPut 0 (BitVec.ofNat 11 (1920 + i)) 0 false) c
  c.modMq 0 MbxQueue.restart

/-- The parts of a signature block at an offset of an image (R197): chain and signature; none where it does not fit. -/
def sigBlock (image : List Byte) (off : Nat) : Option (List Byte × List Byte) :=
  let n := leAt image off 4
  if off + 4 + n + 96 ≤ image.length then some (bytesAt image (off + 4) n, bytesAt image (off + 4 + n) 96) else none

/-- A signature over the SHA-384 of an image's bytes below `off` verifies under a leaf key. -/
def signedBy (image : List Byte) (off : Nat) (leaf : Option (BitVec 776)) (sig : List Byte) : Bool :=
  match leaf with
  | some k => ecdsaVerify (beBytes 97 k.toNat) (sha384 (image.take off)) sig
  | none => false

/-- Outcomes of checking a firmware image, with the codes of R502. -/
inductive FwCheck where
  | bad (code : Nat)
  | good (i : FwImage)
  deriving DecidableEq, Repr

/-- Check a firmware image (R501, R511). -/
def Chip.checkFirmware (c : Chip) (image : List Byte) : FwCheck :=
  let sigOff := leAt image 16 4
  let svn := leAt image 6 1
  if ¬ (decide (64 ≤ image.length) && decide (image.length ≤ 4194304) && leAt image 0 4 == 0x57464B51
      && leAt image 4 2 == 1 && decide (svn ≤ 127) && leAt image 7 1 == 0 && allZero (bytesAt image 20 44)
      && sigOff % 64 == 0 && decide (64 + leAt image 12 4 ≤ sigOff) && (sigBlock image sigOff).isSome) then .bad 3
  else match sigBlock image sigOff with
    | none => .bad 3
    | some (chain, sig) =>
      if ¬ signedBy image sigOff (Config.chainLeaf Config.firmwareRoot chain) sig then .bad 4
      else if svn < c.fuseSvn then .bad 5
      else .good { version := BitVec.ofNat 32 (leAt image 8 4), svn := BitVec.ofNat 7 svn
                   measure := sha384 (image.take sigOff) }

/-- A private key of the key engine (R508). -/
def derivedKey (info : String) : Nat :=
  beNat (hkdf384 [] (beBytes 32 Config.uniqueSecret.toNat) (ascii info) 48) % (p384n - 1) + 1

/-- The public key of a derived private key, in SEC1 uncompressed form. -/
def derivedPublic (info : String) : List Byte :=
  match publicOf (derivedKey info) with
  | some (x, y) => pointBytes x y
  | none => []

/-- Regions of a calibration run and their items (R407): region 0 is MGMT. -/
def calItems (region : Fin 9) : List (BitVec 3) := if region.val = 0 then [1, 2, 3] else [4, 5, 6]

/-- Mark a region's items running, with its oscillator's reading as the new reference (R408, R430). -/
def Chip.calMark (c : Chip) (r : Fin 9) : Chip :=
  let osc : Nat := if r.val = 0 then 70 else 64 + (r.val - 1) / 2
  let t := (sget (fun _ => ({} : ThmTemp)) c.hk.temp osc).t
  let mark := fun (items : Sparse CalItem) => (calItems r).foldl (fun m i =>
    smod (fun _ => ({} : CalItem)) m (8 * r.val + i.toNat) fun x => { x with state := 3, runT := t }) items
  { c with cal := { c.cal with item := mark c.cal.item, refT := c.cal.refT.set r.val (some t) r.isLt } }

/-- Start what may run: the MGMT region, and one optical region at a time; a full run does MGMT first (R407, R408). -/
def Chip.calNext (c : Chip) : Chip :=
  let c := if c.cal.waitingM && c.cal.runM.isNone then
      (({ c with cal := { c.cal with waitingM := false, runM := some (calItems 0) } } : Chip).calMark 0) else c
  if c.cal.full.isSome && c.cal.runM.isSome then c
  else match c.cal.run, c.cal.waiting with
    | none, r :: rest =>
      ({ c with cal := { c.cal with run := some (r, calItems r), waiting := rest } } : Chip).calMark r
    | _, _ => c

/-- Start a full calibration run (R407), commanded by a queue or by the boot. -/
def Chip.calFull (c : Chip) (by' : Option QueueIx) : Chip :=
  ({ c with cal := { c.cal with
      full := some by', waitingM := true, waiting := (List.finRange 9).filter fun r => r.val != 0 } } : Chip).calNext

end Sys2Proof.Machine
end

