-- ==== Sys2Proof/Machine/BootCmds.lean ====
section
/-! DEFINITION. Pins, power, boot, the sidebands and debug (chapter 14): the meanings of their rows. -/

namespace Sys2Proof.Machine

/-- RESET_N falls (R492, R493). -/
def execResetNAssert (s : State) : Result :=
  if s.chip.on then
    .next { s with chip := ({ s.chip with pins := { s.chip.pins with resetN := false } } : Chip).resetDevice false, far := [] }
  else .next s

/-- RESET_N rises: the boot sequence starts (R499); with REFCLK absent it waits at step 1 (R497). -/
def execResetNRelease (s : State) : Result :=
  s.onChip fun c =>
    if c.pins.powered && !c.pins.resetN then
      { c with pins := { c.pins with resetN := true }, boot := { c.boot with t0 := c.tick.count } }
    else c

/-- PWRFAIL_N falls (R442, R494, R497): before the start-up scan completes nothing is written; else the PWRFAIL record
is created in the reserved entry and the power-fail flush starts; a clear in progress stops. -/
def execPwrfailNAssert (s : State) : Result :=
  s.onChip fun c =>
    if !c.on || !c.pins.pwrfailN then (if c.pins.powered then { c with pins := { c.pins with pwrfailN := false } } else c)
    else
      let c := { c with pins := { c.pins with pwrfailN := false, pwrfailAt := some c.tick.count } }
      if !c.evr.ready then c.modEvr fun e => { e with closed := true, buffer := [] }
      else
        let c := c.modEvr fun e => { e with slotsBefore := some e.slots, pwrfailFlush := true
                                            clear := e.clear.map fun x => { x with invalidating := false } }
        c.record (c.newRec 0 0x0101) true

/-- PWRFAIL_N rises with RESET_N high (R495): PWRFAIL_RELEASE, HALT blocks with reason 3, darkness, a self-reset 1 ms
later. -/
def execPwrfailNRelease (s : State) : Result :=
  s.onChip fun c =>
    if c.pins.pwrfailN then c
    else
      let was := c.pins.pwrfailAt.isSome
      let c := { c with pins := { c.pins with pwrfailN := true } }
      if c.on && was then
        let c := (c.raise Src.pwrfailRelease {}).haltPorts 3
        if c.flt.thermal then c else { c with boot := { c.boot with selfReset := minDelay c.boot.selfReset 1 } }
      else c

/-- REFCLK absent or off by more than 1,000 ppm (R498): the fault state, the rack tick stopped; in reset no effect until
release (R497). -/
def execRefclkLoss (s : State) : Result :=
  s.onChip fun c =>
    let was := c.pins.refclk
    let c := { c with pins := { c.pins with refclk := false } }
    if was && c.on && c.sys.bootStep ≠ 0 then c.raise Src.refclkLoss {} else c

/-- REFCLK is back (R498). -/
def execRefclkReturn (s : State) : Result :=
  s.onChip fun c => if c.pins.powered then { c with pins := { c.pins with refclk := true } } else c

/-- The package's rails are removed (R490, R493, R504): volatile content is lost; the board holds RESET_N low. -/
def execPowerRemoved (s : State) : Result :=
  let c := s.chip.resetDevice true
  .next { s with far := [], chip := { c with pins := { c.pins with powered := false, resetN := false, pwrfailN := false, thermtrip := false } } }

/-- The rails are in tolerance (R488): PWRFAIL_N is pulled up, RESET_N stays low until the board releases it. -/
def execPowerApplied (s : State) : Result :=
  s.onChip fun c =>
    if c.pins.powered then c
    else { c with pins := { c.pins with powered := true, resetN := false, pwrfailN := true } }

/-- A self-reset delay expires (R387, R404, R496, R498): the die resets as by a RESET_N pulse. -/
def execSelfReset (s : State) : Result :=
  let c := s.chip
  if c.on && c.boot.selfReset.isSome && !c.flt.thermal && c.pins.refclk then
    .next { s with chip := c.resetDevice false, far := [] }
  else .next s

/-- Boot step 1: fuse load with ECC (R499, R502). -/
def execBootFuseLoad (corrected : Nat) (uncorrectable : Bool) (s : State) : Result :=
  s.onChip fun c =>
    if !c.on || !c.pins.refclk || c.sys.bootStep ≠ 0 || c.boot.dead then c
    else
      let c := (List.range corrected).foldl (fun c _ => c.tally Src.fuseEcc 0) c
      if uncorrectable then { c with boot := { c.boot with fail := 1, dead := true } }
      else
        { c with
          boot := { c.boot with fuseOk := true }
          sys := { c.sys with bootStep := 1 }
          evr := { c.evr with pcycle := satAdd c.evr.pcycle 1, scanning := true } }

/-- Boot step 2: management memories tested, UCIe modules trained (R499, R502). -/
def execBootRomInit (selfTestOk : Bool) (modules : BitVec 4) (s : State) : Result :=
  s.onChip fun c =>
    if !c.on || c.sys.bootStep ≠ 1 || c.boot.dead then c
    else if !selfTestOk then { c with boot := { c.boot with fail := 2, dead := true } }
    else { c with sys := { c.sys with bootStep := 2, ucieUp := modules } }

/-- A boot failure at the firmware image (R502). -/
def Chip.bootFail (c : Chip) (code : Nat) (src : BitVec 8) : Chip :=
  ({ c with boot := { c.boot with fail := BitVec.ofNat 8 code, fetching := false } } : Chip).tally src 0

/-- Boot steps 3 and 4: the fetched image is verified, FUSE_SVN checked, the firmware starts and queue 0 is prepared
(R461, R499 to R503). -/
def execFirmwareFetchDone (image : Option (List Byte)) (s : State) : Result :=
  s.onChip fun c =>
    if !c.on || !c.boot.fetching then c
    else match image with
      | none => c.bootFail 6 Src.fwReject
      | some bytes =>
        match c.checkFirmware bytes with
        | .bad 5 =>
          ({ c with sys := { c.sys with bootStep := 3 } } : Chip).bootFail 5 Src.fwRollback
        | .bad code => c.bootFail code Src.fwReject
        | .good i =>
          let c := { c with
            boot := { c.boot with image := some i, locked := true, fetching := false }
            sys := { c.sys with bootStep := 4 }
            mbx := { c.mbx with fwState := 1 } }
          c.prepareQueue0.calFull none

/-- Boot step 6 ends: every enabled port is UP, or 110 ms have passed (R499). -/
def execBootPortStepEnd (s : State) : Result :=
  s.onChip fun c => if c.on && c.sys.bootStep = 5 then { c with sys := { c.sys with bootStep := 6 } } else c

/-- Boot step 8: identity and key-transport keys derived and checked against their certificates (R508, R509). -/
def execKeyDerivation (s : State) : Result :=
  s.onChip fun c =>
    if c.on && c.sys.bootStep = 7 then
      let ok := derivedPublic "FQP2-IDK" == beBytes 97 Config.idCertKey.toNat
        && derivedPublic "FQP2-KTK" == beBytes 97 Config.ktCertKey.toNat
      { c with sys := { c.sys with bootStep := 8 }
               boot := { c.boot with idOk := ok, ktEnabled := ok && !c.boot.debugOpen } }
    else c

/-- Boot step 9: with the recorder's scan complete, ALIVE starts (R386, R499). -/
def execBootComplete (s : State) : Result :=
  s.onChip fun c =>
    if c.on && c.sys.bootStep = 8 && c.evr.ready then
      { c with sys := { c.sys with bootStep := 9 }
               pins := { c.pins with aliveRun := !c.flt.faultState }
               boot := { c.boot with aliveMs := BitVec.ofNat 32 ((c.tick.count - c.boot.t0).toNat / 1_000_000) } }
    else c

/-- ALIVE toggles every 50,000 rack ticks (R386). -/
def execAliveToggle (s : State) : Result :=
  s.onChip fun c => if c.pins.aliveRun then { c with pins := { c.pins with alive := !c.pins.alive } } else c

/-- The I3C target answers: boot step 1 done, out of reset (R505). -/
def Chip.i3cAnswers (c : Chip) : Bool := c.on && c.sys.bootStep ≠ 0

/-- The target takes a dynamic address (R505). -/
def execI3cDynamicAddress (_setdasa : Bool) (addr : BitVec 7) (s : State) : Result :=
  s.onChip fun c => if c.i3cAnswers then { c with side := { c.side with i3cAddr := some addr } } else c

/-- A private write of two bytes sets the selector (R506). -/
def execI3cPrivateWrite (selector : BitVec 16) (s : State) : Result :=
  s.onChip fun c =>
    if c.i3cAnswers && c.side.i3cAddr.isSome then { c with side := { c.side with selector } } else c

/-- A private read returns the selected register and advances the selector (R506). -/
def execI3cPrivateRead (s : State) : Result :=
  s.onChip fun c =>
    if c.i3cAnswers && c.side.i3cAddr.isSome then
      let sel := c.side.selector.toNat
      let block := sel / 8192
      let v : Word64 := if block = 7 then BitVec.allOnes 64 else regRead c block ((sel % 8192) * 8)
      ({ c with side := { c.side with selector := c.side.selector + 1 } } : Chip).emit (.i3cRead (leBytes 8 v.toNat))
    else c

/-- The sideband's reset request (R507): as SV_RESET with a delay of 10 ms. -/
def execI3cResetRequest (s : State) : Result :=
  s.onChip fun c => if c.i3cAnswers && c.side.i3cAddr.isSome then c.requestReset 10 else c

/-- BYPASS: one flip-flop between TDI and TDO (R513). -/
def execJtagBypass (tdi : List Bool) (s : State) : Result :=
  s.onChip fun c => if c.on then c.emit (.tdo ((false :: tdi).take tdi.length)) else c

/-- IDCODE reads 0x1F02_2A97, bit 0 first (R513). -/
def execJtagIdcode (s : State) : Result :=
  s.onChip fun c => if c.on then c.emit (.tdo (bitsOf 32 0x1F022A97)) else c

/-- The slow pins a boundary scan samples; the chain's order is a DESIGN CHOICE (log entry 12). -/
def Chip.boundaryPins (c : Chip) : List Bool :=
  [c.pins.refclk, c.pins.resetN, c.pins.pwrfailN, c.pins.alive, !c.pins.thermtrip]

/-- SAMPLE/PRELOAD (R513): boundary scan answers in reset too (R492). -/
def execJtagSamplePreload (preload : BitVec 16) (s : State) : Result :=
  s.onChip fun c =>
    if c.pins.powered then
      ({ c with side := { c.side with boundary := preload, extest := false } } : Chip).emit (.tdo c.boundaryPins)
    else c

/-- EXTEST drives the boundary cells (R513). -/
def execJtagExtest (drive : BitVec 16) (s : State) : Result :=
  s.onChip fun c =>
    if c.pins.powered then { c with side := { c.side with boundary := drive, extest := true } } else c

/-- DBG_CHALLENGE returns a new debug nonce (R514). -/
def execDbgChallenge (s : State) : Result :=
  s.onChip fun c =>
    if c.on && c.sys.bootStep ≠ 0 then
      let n := Config.freeNonce c.free
      (({ c with boot := { c.boot with dbgNonce := some n } } : Chip).tickFree).emit (.tdo (bitsOf 128 n.toNat))
    else c

/-- A new UCIe module state (R457): a module that comes up. -/
def execUcieModuleUp (m : UcieIx) (s : State) : Result :=
  s.onChip fun c =>
    if c.on && decide (2 ≤ c.sys.bootStep.toNat) then
      ({ c with sys := { c.sys with ucieUp := c.sys.ucieUp ||| (1#4 <<< m.toNat) } } : Chip).pumpFetches
    else c

/-- A UCIe module goes down (R243, R457): its bit clears; the load engine's next working slice takes its chunks. -/
def execUcieModuleDown (m : UcieIx) (s : State) : Result :=
  s.onChip fun c =>
    if c.moduleUp m then ({ c with sys := { c.sys with ucieUp := c.sys.ucieUp &&& ~~~(1#4 <<< m.toNat) } } : Chip).dropFetches m
    else c

/-- SV_RESET (R469, R496). -/
def execSvReset (q : QueueIx) (s : State) : Result :=
  s.onChip fun c => c.withCommand q 0x0B00 fun e => (c.succeed q 0).requestReset (cmdField e 8 8)

/-- SV_FW_COMMIT (R511, R512): `programmed` fuses program. -/
def execSvFwCommit (q : QueueIx) (programmed : Nat) (s : State) : Result :=
  s.onChip fun c => c.withCommand q 0x0901 fun _ =>
    let svn := (c.boot.image.map fun i => i.svn.toNat).getD 0
    let need := svn - c.fuseSvn
    let n := min need programmed
    let c := { c with boot := { c.boot with blown := c.boot.blown + BitVec.ofNat 7 n } }
    if n = need then c.succeed q 0 else c.reject q 3

/-- SV_FW_UPDATE starts the fetch of an image on the container path (R472, R512). -/
def execSvFwUpdate (q : QueueIx) (s : State) : Result :=
  s.onChip fun c => c.withCommand q 0x0900 fun e =>
    c.startFetch (.hostFetch (BitVec.ofNat 64 (cmdField e 8 8)) (cmdField e 16 4))

/-- The fetched image of SV_FW_UPDATE is verified; the management core restarts into it (R385, R512). -/
def execFwUpdateDone (fetched : Option (List Byte)) (s : State) : Result :=
  s.onChip fun c =>
    match (List.range 16).find? fun n => (c.command (BitVec.ofNat 4 n) 0x0900).isSome with
    | none => c
    | some n =>
      let q := BitVec.ofNat 4 n
      match fetched with
      | none => c.hostFetchFailed q
      | some bytes =>
        let bytes := bytes.take (cmdField ((c.command q 0x0900).getD []) 16 4)
        match c.checkFirmware bytes with
        | .bad 3 => (c.tally Src.fwReject 0).reject q 1
        | .bad 4 => c.authFailed q
        | .bad _ => (c.tally Src.fwRollback 0).reject q 2
        | .good i =>
          -- the command completes before its core restarts; the restart is that of R385, with its record (R436)
          let c := ({ c with boot := { c.boot with image := some i } } : Chip).succeed q 0
          let c := c.record (c.newRec 1 0x0102) false
          { c with mbx := { c.mbx with fwState := 2 }, flt := { c.flt with mgmtRestarted := true } }

/-- SV_POS_ASSIGN (R457, R469). -/
def execSvPosAssign (q : QueueIx) (s : State) : Result :=
  s.onChip fun c => c.withCommand q 0x0A01 fun e =>
    ({ c with sys := { c.sys with position := BitVec.ofNat 9 (cmdField e 8 2), posValid := true } } : Chip).succeed q 0

/-- SV_CERT_READ (R509). -/
def execSvCertRead (q : QueueIx) (ok : Bool) (s : State) : Result :=
  s.onChip fun c => c.withCommand q 0x0801 fun e =>
    c.writeHost q (cmdField e 8 8) Config.certChain ok Config.certChain.length

end Sys2Proof.Machine
end

