-- ==== Sys2Proof/Machine/BufferCmds.lean ====
section
/-! DEFINITION. The rows of the tile buffers and sync objects (chapter 04): meanings. -/

namespace Sys2Proof.Machine

/-- BUFFER_READ (R114, R116 to R119, R136), with the requests that reach its bank within the same access slot. -/
def execBufferRead (t : TileIx) (w : WordIx) (cls : BufClass) (last : Bool) (slot : Nat) (upset : BitVec 576) (mates : List BufReq)
    (s : State) : Result :=
  s.onDevice fun c => c.bufServeAll t slot ({ word := w, cls, kind := .read last upset } :: mates)

/-- BUFFER_WRITE (R114, R116, R119, R136), with the requests of its access slot. -/
def execBufferWrite (t : TileIx) (w : WordIx) (cls : BufClass) (data : BitVec 512) (poison : Bool) (slot : Nat) (mates : List BufReq)
    (s : State) : Result :=
  s.onDevice fun c => c.bufServeAll t slot ({ word := w, cls, kind := .write data poison } :: mates)

/-- BUFFER_PARTIAL_WRITE (R115, R119): only management-class writes are of fewer than 64 bytes. -/
def execBufferPartialWrite (t : TileIx) (w : WordIx) (offset : BitVec 6) (bytes : List Byte) (slot : Nat) (upset : BitVec 576)
    (mates : List BufReq) (s : State) : Result :=
  s.onDevice fun c => c.bufServeAll t slot ({ word := w, cls := .management, kind := .part offset bytes upset } :: mates)

/-- CORRECTED_WRITE_BACK (R119). -/
def execCorrectedWriteBack (t : TileIx) (w : WordIx) (s : State) : Result := s.onDevice fun c => c.writeBack t w

/-- FILL (R120 to R122). -/
def execFill (t : TileIx) (start : WordIx) (length : BitVec 12) (value : Word64) (so : Option (BitVec 3)) (pass : Option Pass)
    (s : State) : Result :=
  s.onDevice fun c => c.offerFill t { copy := none, start, length, value, so, pass }

/-- COPY (R120 to R122). -/
def execCopy (t : TileIx) (src dst : WordIx) (length : BitVec 12) (so : Option (BitVec 3)) (pass : Option Pass) (s : State) :
    Result :=
  s.onDevice fun c => c.offerFill t { copy := some src, start := dst, length, value := 0, so, pass }

/-- FILL_COPY_DONE (R120, R121): the running operation writes its words and signals its completion object; it goes on as
far as slot guards let it, its accesses from `slot` on. -/
def execFillCopyDone (t : TileIx) (slot : Nat) (s : State) : Result := s.onDevice fun c => c.engineStep t slot

/-- SO_SET (R125, R132), with the other operations of its handshake. -/
def execSoSet (i : SoIx) (count limit : BitVec 24) (tclass : BitVec 3) (auto : Bool) (mates : List SoOp) (s : State) : Result :=
  s.onDevice fun c => c.soHandshake i (.set count limit tclass auto :: mates)

/-- SO_SIGNAL (R125 to R128, R132, R137). -/
def execSoSignal (i : SoIx) (n : BitVec 16) (mates : List SoOp) (s : State) : Result :=
  s.onDevice fun c => c.soHandshake i (.signal n :: mates)

/-- SO_SIGNAL_ERR (R125, R126, R132). -/
def execSoSignalErr (i : SoIx) (code : BitVec 4) (mates : List SoOp) (s : State) : Result :=
  s.onDevice fun c => c.soHandshake i (.err code :: mates)

/-- SO_WAIT (R126, R127, R129, R133, R218). -/
def execSoWait (i : SoIx) (g : Guard) (s : State) : Result :=
  s.onDevice fun c => (c.noteStreamWait i g).soWait i { guard := g }

/-- STROBE (R129): broadcast over the control mesh, it advances every running timer. -/
def execStrobe (s : State) : Result := s.onDevice fun c => (c.sendCtl 0 .strobe).strobeTimers

end Sys2Proof.Machine
end

