-- ==== Sys2Proof/Machine/SchedOps.lean ====
section
/-! DEFINITION. The entry group's scheduling (R203, R206, R207, R270, R271, R292 to R295, R300 to R308, R349, R383):
which pass starts next, what its return does, cancels. -/

namespace Sys2Proof.Machine

/-- The number of the next pass (R207): the first pass after reset receives the A of the first activation. -/
def Chip.nextNumber (c : Chip) : Option Pass :=
  match c.serve.nextPass, c.rcp.staged with
  | some p, _ => some p
  | none, some (_, .armed a) => some a
  | none, _ => none

/-- Passes of a request that are out, or wait to run again. -/
def Chip.outOf (c : Chip) (req : BitVec 12) : List OutPass := c.serve.out.filter (·.req == req)
def Chip.rerunsOf (c : Chip) (req : BitVec 12) : List OutPass := c.serve.rerun.filter (·.req == req)

/-- A change of the entry group's scheduling state that still waits for its pass names the request. -/
def Chip.changePending (c : Chip) (req : BitVec 12) : Bool :=
  c.serve.changes.any fun x => match x.notice with
    | .admission r => r == req
    | .cancel r _ _ => r == req

/-- A request is scheduled no more: it is not eligible, and nothing of it waits. -/
def Chip.endSched (c : Chip) (req : BitVec 12) : Chip :=
  c.modServe fun s => { s with
    eligible := s.eligible.filter (· != req), rerun := s.rerun.filter (·.req != req)
    drafts := s.drafts.filter (·.1 != req), withheld := s.withheld.filter (· != req) }

/-- A request that FAILED with a lost KV page and whose final record is still to come (R284). -/
def Chip.lostOpen (c : Chip) (req : BitVec 12) (e : Entry) : Bool := e.state == stFailed && e.status == 6 && c.serve.eligible.contains req

/-- The cancel of a request completes once no pass of it is out and S has come (R308): CANCELLED, with a final record. A request
that has FAILED stays so, its final record carrying reason 6 (R284). -/
def settleCancel (x : Both) (req : BitVec 12) : Both :=
  let e := getEntry x req
  let lost := x.1.lostOpen req e && e.cancelPass != 0
  if (e.state = stCancelling || lost) && (x.1.outOf req).isEmpty && !x.1.changePending req then
    let reason := if e.status = 6 then 6 else 3
    let x := endEntry x req (if lost then stFailed else stCancelled) reason (x.1.nextNumber.getD 0)
    (x.1.endSched req, x.2)
  else x

/-- A change takes effect (R271, R276, R306, R308). -/
def applyChange (x : Both) (n : Notice) : Both :=
  match n with
  | .admission req => (x.1.modServe fun s => { s with eligible := if s.eligible.contains req then s.eligible else s.eligible ++ [req] }, x.2)
  | .cancel req f reason =>
    let e := getEntry x req
    if e.state = stPrompt || e.state = stGenerating then
      let status := if reason = 6 then reason else e.status
      settleCancel (putEntry x req { e with state := stCancelling, cancelPass := f, status }) req
    else settleCancel x req

/-- Changes that the choice of pass `p` must see (R271). -/
def applyDue (x : Both) (p : Pass) : Both :=
  let due := x.1.serve.changes.filter fun y => !passBefore p y.at'
  let x : Both := (x.1.modServe fun s => { s with changes := s.changes.filter fun y => passBefore p y.at' }, x.2)
  due.foldl (fun x y => applyChange x y.notice) x

/-- The first position of a request's next prompt chunk (R293). -/
def Chip.chunkStart (c : Chip) (req : BitVec 12) (e : Entry) : Nat :=
  (c.outOf req).foldl (fun n o => max n (o.pos + o.positions)) (max e.len.toNat e.shared.toNat)

/-- before() of R292. -/
def before (a b : BitVec 12 × Entry) : Bool :=
  let d := fun (e : Entry) => if e.deadline = 0 then 2 ^ 64 - 1 else e.deadline.toNat
  if a.2.prio ≠ b.2.prio then decide (a.2.prio.toNat < b.2.prio.toNat)
  else if d a.2 ≠ d b.2 then decide (d a.2 < d b.2)
  else decide (a.1.toNat < b.1.toNat)

/-- The first of some requests by before(). -/
def firstBefore (xs : List (BitVec 12 × Entry)) : Option (BitVec 12 × Entry) :=
  xs.foldl (fun best x => match best with
    | none => some x
    | some b => if before x b then some x else some b) none

/-- Eligible requests with their hot entries (R292). -/
def Chip.eligible (c : Chip) : List (BitVec 12 × Entry) :=
  c.serve.eligible.filterMap fun r => (c.hotEntry r).map fun e => (r, e)

/-- Eligible generation requests for pass `p` (R292). -/
def Chip.generators (c : Chip) (p : Pass) : List (BitVec 12 × Entry) :=
  c.eligible.filter fun x => (c.outOf x.1).isEmpty && !((c.rerunsOf x.1).any fun o => o.kind == 2)
    && (x.2.state == stGenerating || (x.2.state == stCancelling && passBefore p x.2.cancelPass))

/-- Eligible prompt requests (R292); a chunk that runs again comes before the request's further ones. -/
def Chip.prompters (c : Chip) : List (BitVec 12 × Entry) :=
  c.eligible.filter fun x => (x.2.state == stReady || x.2.state == stPrompt)
    && (!(c.rerunsOf x.1).isEmpty || decide (c.chunkStart x.1 x.2 < x.2.promptLen.toNat))

/-- The draft tokens that a request has for its next verify pass, and whether the draft model gives no more. -/
def Chip.draftsOf (c : Chip) (req : BitVec 12) : List (BitVec 32) × Bool :=
  ((c.serve.drafts.find? fun x => x.1 == req).map (·.2)).getD ([], false)

/-- The pass a request would run next (R292, R293, R303, R304, R349). The k tokens of a verify pass are drafted first, by as many
draft passes (R206; DESIGN CHOICE, log entry 50: the spec does not say when a draft pass starts). -/
def Chip.passFor (c : Chip) (r : Recipe) (p : Pass) (req : BitVec 12) (e : Entry) : OutPass :=
  match (c.rerunsOf req).head? with
  | some o => { o with pass := p }
  | none =>
    if e.state = stReady || e.state = stPrompt then
      let s := c.chunkStart req e
      let n := min 512 (e.promptLen.toNat - s)
      { pass := p, req, kind := 2, pos := s, positions := n, lastChunk := s + n == e.promptLen.toNat }
    else
      let probe := e.flag 0 && r.draft && e.draftCur == 0 && decide (64 ≤ e.offCount.toNat)
      let want := if e.flag 0 && r.draft then (if probe then 1 else e.draftCur.toNat) else 0
      let k := min want (min r.maxLimit e.maxLen.toNat - e.len.toNat - 1)
      let d := c.draftsOf req
      if d.1.length < k && !d.2 then { pass := p, req, kind := 3, pos := e.len.toNat + d.1.length, positions := 1 }
      else
        let ds := d.1.take k
        { pass := p, req, kind := if ds.isEmpty then 0 else 1, pos := e.len.toNat, positions := ds.length + 1
          probe := probe && !ds.isEmpty, drafts := ds }

/-- A pass could produce a record (R302): all but a prompt chunk before the last, and a draft pass. -/
def OutPass.records (o : OutPass) : Bool := if o.kind = 2 then o.lastChunk else o.kind != 3

/-- The recipe under which pass `p` runs (R204). -/
def Chip.recipeFor (c : Chip) (p : Pass) : Option Recipe :=
  match c.rcp.staged with
  | some (r, .armed a) => if passBefore p a then c.rcp.active else some r
  | _ => c.rcp.active

/-- The WEPOCH of pass `p` (R256). -/
def Chip.wepochFor (c : Chip) (p : Pass) : Byte :=
  match c.load.incoming with
  | some (e, _, .armed w) => if passBefore p w then c.activeWepoch else e.wepoch
  | _ => c.activeWepoch

/-- Start a pass (R207, R292, R304): the device crosses its boundary into it. -/
def startPass (x : Both) (o : OutPass) : Both :=
  let e := getEntry x o.req
  let e := if o.probe then { e with offCount := 0 } else e
  let x := putEntry x o.req { e with state := if e.state = stReady then stPrompt else e.state }
  let c := x.1.modServe fun s => { s with
    out := s.out ++ [o], rerun := s.rerun.filter (·.req != o.req), nextPass := some (o.pass + 1)
    withheld := s.withheld.filter (· != o.req)
    verify := if o.kind = 1 then s.verify + 1 else s.verify, probes := if o.probe then satAdd s.probes 1 else s.probes }
  let c := c.emit (.started o.pass o.req o.kind o.pos o.positions)
  (c.deviceBoundary { pass := o.pass, req := o.req, variant := e.variant.setWidth 6, wepoch := c.wepochFor o.pass
                      pos := BitVec.ofNat 20 o.pos, positions := o.positions, kind := o.kind, began := c.tick.count }, x.2)

/-- A generation, verify or draft pass, a prompt chunk, still occupies this device (R292, R293). -/
def Chip.laneBusy (c : Chip) (chunk : Bool) : Bool := c.rcp.passes.any fun p => p.isChunk == chunk && !c.passDone p

/-- Start the request's next pass, or end the request for want of a length class (R301, reason 4). -/
def startFor (x : Both) (r : Recipe) (p : Pass) (req : BitVec 12) (e : Entry) : Both :=
  let o := x.1.passFor r p req e
  if (r.lengthOf o.pos o.positions).isNone then
    let x := endEntry x req stDone 4 p
    (x.1.endSched req, x.2)
  else startPass x o

/-- A request's next pass is withheld for want of room in the token ring: one event for each pass (R302). -/
def Chip.withhold (c : Chip) (req : BitVec 12) : Chip :=
  if c.serve.withheld.contains req then c
  else (c.modServe fun s => { s with withheld := s.withheld ++ [req] }).tally Src.tokenRingFull 0

/-- The choice of R292 for pass `p`, with R302's test of the token ring. -/
def choosePass (x : Both) (r : Recipe) (p : Pass) : Both :=
  let c := x.1
  let gen := firstBefore (c.generators p)
  let chunks := if c.laneBusy true then [] else c.prompters
  let quiet := chunks.filter fun y => !(c.passFor r p y.1 y.2).records
  match gen with
  | some (q, e) =>
    if c.laneBusy false then x
    else if c.ringRoom then startFor x r p q e
    else match firstBefore quiet with
      | some (q', e) => startFor (c.withhold q, x.2) r p q' e
      | none => (c.withhold q, x.2)
  | none =>
    match firstBefore chunks with
    | none => x
    | some (q, e) =>
      if c.ringRoom || !(c.passFor r p q e).records then startFor x r p q e
      else match firstBefore quiet with
        | some (q', e) => startFor (c.withhold q, x.2) r p q' e
        | none => (c.withhold q, x.2)

/-- The armed recipe's drain holds pass `p` back (R203). -/
def Chip.drainHolds (c : Chip) (p : Pass) : Bool :=
  match c.rcp.staged with
  | some (_, .armed a) => !passBefore p a && !c.rcp.drained && c.serve.out.any fun o => passBefore o.pass a
  | _ => false

/-- Nothing is out and nothing can start: every change takes effect at once, as no pass S would ever come. -/
def applyIdle (x : Both) (p : Pass) : Both :=
  if x.1.serve.out.isEmpty && (x.1.generators p).isEmpty && x.1.prompters.isEmpty then
    let due := x.1.serve.changes
    let x : Both := (x.1.modServe fun s => { s with changes := [] }, x.2)
    due.foldl (fun x y => applyChange x y.notice) x
  else x

/-- PASS_START's choice (R203, R207, R271, R292). -/
def tryStart (x : Both) : Both :=
  if !x.1.isEntry || x.1.serve.stopped || x.1.fab.deviceHalt then x
  else match x.1.nextNumber with
    | none => x
    | some p =>
      let x := applyIdle (applyDue x p) p
      if x.1.drainHolds p then ({ x.1 with rcp := { x.1.rcp with draining := true } }, x.2)
      else match x.1.recipeFor p with
        | some r => choosePass ({ x.1 with rcp := { x.1.rcp with draining := false } }, x.2) r p
        | none => x

/-- DRAFT_CUR, REJECT_RUN and OFF_COUNT after a pass of a request with SPEC_EN (R304): `a` drafts accepted, `n` tokens. -/
def Entry.speculate (e : Entry) (o : OutPass) (a n : Nat) : Entry :=
  if !e.flag 0 then e
  else if o.kind = 1 then
    if o.probe then (if a = 0 then e else { e with draftCur := BitVec.ofNat 8 (min e.draftMax.toNat 2) })
    else if 1 ≤ a then { e with draftCur := BitVec.ofNat 8 (min e.draftMax.toNat (a + 1)), rejectRun := 0 }
    else if 1 ≤ e.rejectRun.toNat then
      let cur := e.draftCur >>> 2
      { e with draftCur := cur, rejectRun := 0, offCount := if cur = 0 then 0 else e.offCount }
    else { e with rejectRun := e.rejectRun + 1 }
  else if o.kind = 0 && e.draftCur == 0 then { e with offCount := satAdd e.offCount n }
  else e

/-- The pass ran under another epoch than the entry's (R300). -/
def Chip.epochChanged (c : Chip) (p : Pass) (e : Entry) : Bool :=
  let w := ((c.rcp.passes.find? fun x => x.pass == p).map (·.wepoch)).getD e.wepoch
  let r := match c.rcp.activeFrom with
    | some a => if passBefore p a then c.rcp.formerRepoch else c.activeRepoch
    | none => c.activeRepoch
  w != e.wepoch || r != e.repoch

/-- Append the records of a pass's tokens from a position on (R300, R301); the last carries the final reason, if any. -/
def appendTokens (o : OutPass) (changed missed : Bool) : Nat → List Nat → Nat → Both → Both
  | _, [], _, x => x
  | final, t :: ts, pos, x =>
    let last := ts.isEmpty
    let reason := if last then final else 0
    let x := appendRecord x o.req reason (recFlags (last && final != 0) (o.kind == 1) changed missed) t pos o.pass
    appendTokens o changed missed final ts (pos + 1) x

/-- The tokens that a verify pass delivers of those that the output group sampled (R303): the drafts that agree with them, and
the main model's next; with the reason of the last one if it is delivered. -/
def acceptTokens (drafts : List Nat) (tokens : List Nat) (final : Nat) : List Nat × Nat :=
  let a := ((drafts.zip tokens).takeWhile fun x => x.1 == x.2).length
  if a + 1 < tokens.length then (tokens.take (a + 1), 0)
  else if final = 5 && a < tokens.length then (tokens, 0)
  else (tokens, final)

/-- Deliver the tokens of a returned pass (R294, R300 to R304): `final` is the reason on the FINAL token, 0 for none; a
reason 5 has no token. An entry that has FAILED meanwhile stays so. -/
def deliverTokens (x : Both) (o : OutPass) (tokens : List Nat) (final : Nat) : Both :=
  let e := getEntry x o.req
  let first := o.pos + o.positions - (if o.kind = 2 then 0 else o.positions - 1)
  -- a token at MAX_LEN − 1 is the last
  let room := max 1 (e.maxLen.toNat - first)
  let final := if room < tokens.length || (room == tokens.length && (final == 0 || final == 5)) then 2 else final
  let tokens := tokens.take room
  let a := min (if final = 5 then tokens.length else tokens.length - 1) (o.positions - 1)
  let lost := x.1.lostOpen o.req e
  let e := { e with
    len := BitVec.ofNat 32 (if o.kind = 2 then o.pos + o.positions else o.pos + a + 1)
    tokensOut := e.tokensOut + BitVec.ofNat 32 tokens.length
    state := if lost then e.state else if final != 0 then stDone else if e.state = stPrompt then stGenerating else e.state
    status := if final != 0 && !lost then BitVec.ofNat 8 final else e.status }
  let e := e.speculate o a tokens.length
  let changed := x.1.epochChanged o.pass e
  let x := putEntry x o.req e
  let x : Both := if o.kind = 1 then (x.1.modServe fun s => { s with accepted := satAdd s.accepted a }, x.2) else x
  let x := appendTokens o changed (e.flag 4) final (if final = 5 then tokens ++ [noToken] else tokens) first x
  if final != 0 then (x.1.endSched o.req, x.2) else x

/-- A draft pass returns (R206, R303): its token is the next draft; without one the draft model gives no more. -/
def draftReturn (x : Both) (o : OutPass) (payload : List Byte) : Both :=
  let tok := leAt payload 0 4
  let d := x.1.draftsOf o.req
  let d' := if tok = noToken then (d.1, true) else (d.1 ++ [BitVec.ofNat 32 tok], d.2)
  (x.1.modServe fun s => { s with drafts := (s.drafts.filter (·.1 != o.req)) ++ [(o.req, d')] }, x.2)

/-- A poisoned pass returns (R349, R383): run again at most twice, then the request fails. -/
def poisonedReturn (x : Both) (o : OutPass) (fallback : Bool) : Both :=
  let e := getEntry x o.req
  if e.state = stCancelling || e.state = stCancelled || e.state = stFailed || e.state = stDone then x
  else if o.reruns < 2 then
    let c := x.1.modServe fun s => { s with rerun := s.rerun ++ [{ o with reruns := o.reruns + 1 }] }
    (if fallback then { c with opt := { c.opt with tkReruns := satAdd c.opt.tkReruns 1 } }
     else c.modFlt fun f => { f with intReruns := satAdd f.intReruns 1 }, x.2)
  else
    let x : Both := (x.1.raise Src.rerunLimit { pass := some o.pass }, x.2)
    let x := endEntry x o.req stFailed 7 o.pass
    (x.1.endSched o.req, x.2)

/-- A pass has returned to the entry group (R203, R294, R300 to R304, R307, R308, R349, R383). `flags`: those its crumbs
brought; the payload holds up to 9 tokens, 0xFFFF_FFFF for none, and the final reason in byte 36. -/
def returnPass (x : Both) (o : OutPass) (flags : Byte) (payload : List Byte) : Both :=
  let x : Both := (x.1.modServe fun s => { s with out := s.out.filter fun y => y.pass != o.pass }, x.2)
  let e := getEntry x o.req
  let cut := flags.getLsbD flagCancel || (e.cancelPass != 0 && !passBefore o.pass e.cancelPass)
  let x :=
    if cut || e.state = stCancelled || (e.state = stFailed && !x.1.lostOpen o.req e) || e.state = stDone then x
    else if flags.getLsbD flagPoison then poisonedReturn x o (flags.getLsbD flagFallback)
    else if o.kind = 3 then draftReturn x o payload
    else if o.kind = 2 && !o.lastChunk then putEntry x o.req { e with len := BitVec.ofNat 32 (o.pos + o.positions) }
    else if o.kind = 2 && e.flag 2 then
      let x := endEntry (putEntry x o.req { e with len := BitVec.ofNat 32 (o.pos + o.positions) }) o.req stDone 2 o.pass
      (x.1.endSched o.req, x.2)
    else
      let tokens := ((List.range 9).map fun i => leAt payload (4 * i) 4).takeWhile (· != noToken)
      let r := acceptTokens (o.drafts.map (·.toNat)) tokens (if flags.getLsbD flagFinal then leAt payload 36 1 else 0)
      let x : Both := (x.1.modServe fun s => { s with drafts := s.drafts.filter (·.1 != o.req) }, x.2)
      if o.kind = 1 then deliverTokens x o r.1 r.2
      else deliverTokens x o tokens (if flags.getLsbD flagFinal then leAt payload 36 1 else 0)
  settleCancel x o.req

/-- A cancel message or crumb reaches this device's request table (R306, R308): F is recorded; a request no pass has begun
for ends. -/
def noteCancel (x : Both) (req : BitVec 12) (f : Pass) : Both :=
  let e := getEntry x req
  if e.state = stFree then x
  else
    let x := putEntry x req { e with cancelPass := f }
    if e.state = stReady || e.state = stQueued then
      -- the notice of the cancel names the reason, 6 for a lost KV page (R284)
      let reason := (x.1.serve.changes.findSome? fun y => match y.notice with
        | .cancel r _ n => if r = req then some n else none
        | .admission _ => none).getD 3
      let x := endEntry x req stCancelled reason.toNat f
      (x.1.endSched req, x.2)
    else x

/-- Every tile holds a cancel (R170); an earlier first pass takes the place of a later one. -/
def Chip.holdCancel (c : Chip) (req : BitVec 12) (p : Pass) : Chip :=
  if c.fab.cancels.any fun x => x.1 == req && !passAfter x.2 p then c
  else { c with fab := { c.fab with cancels := (c.fab.cancels.filter fun x => x.1 != req) ++ [(req, p)] } }

/-- The authority takes a cancel (R306, R308): F and S chosen, the partners and every device told. The answer is F, S. -/
def takeCancel (x : Both) (req : BitVec 12) (reason : Byte) : Both × Pass × Pass :=
  let e := getEntry x req
  let next := x.1.nextNumber.getD 0
  let s := next + 64
  let f := match (x.1.outOf req).head? with
    | some o => o.pass + 1
    | none => next
  let out := !(x.1.outOf req).isEmpty
  let e' := { e with status := if reason = 6 then reason else e.status, cancelPass := f }
  let x :=
    if e.state = stQueued || e.state = stReady then
      let x := endEntry (putEntry x req e') req stCancelled reason.toNat f
      ((x.1.endSched req).modServe fun s => { s with changes := s.changes.filter fun y => y.notice != .admission req }, x.2)
    else
      let x := putEntry x req (if out && e.state != stFailed then { e' with state := stCancelling } else e')
      (x.1.modServe fun v => { v with changes := v.changes ++ [{ at' := s, notice := .cancel req f reason }] }, x.2)
  let v := e.variant.setWidth 6
  let c := (x.1.holdCancel req f).tell [4, 5] (.schedule (.cancel req f reason) s)
  let c := (c.sendCtl 0 (.cancel req f v)).forwardCancel req f v
  ((c, x.2), f, s)

end Sys2Proof.Machine
end

