-- ==== Sys2Proof/Machine/ControlCmds.lean ====
section
/-! DEFINITION. The rows of the control mesh (R60, R61, R125, R166 to R171): meanings of its messages on arrival. -/

namespace Sys2Proof.Machine

/-- HALT (R171): a pass runs dry on every tile, or no tile issues a new operation. -/
def execHalt (scope : HaltScope) (s : State) : Result :=
  s.onDevice fun c =>
    match scope with
    | .pass p => (c.haltPass p).advanceMesh
    | .device => { c with fab := { c.fab with deviceHalt := true } }

/-- CANCEL (R170, R306): held by every tile, recorded in the request table, and forwarded by the ring regions. -/
def execCancel (req : BitVec 12) (p : Pass) (variant : BitVec 6) (s : State) : Result :=
  s.onDeviceBoth fun x =>
    let x := noteCancel x req p
    ((x.1.holdCancel req p).forwardCancel req p variant, x.2)

/-- CANCEL_CRUMB (R170, R306): a forwarded cancel from another device; one that is new goes to every tile and on. -/
def execCancelCrumb (_p : PortIx) (req : BitVec 12) (pass : Pass) (variant : BitVec 6) (s : State) : Result :=
  s.onDeviceBoth fun x =>
    if x.1.fab.cancels.any fun y => y.1 == req && !passAfter y.2 pass then x
    else
      let x := noteCancel x req pass
      (((x.1.holdCancel req pass).sendCtl 0 (.cancel req pass variant)).forwardCancel req pass variant, x.2)

/-- SIGNAL (R125, R132, R179), with the other operations of its handshake: with POISON the object takes SIGNAL_ERR(3) in the same
handshake. -/
def execSignal (i : SoIx) (n : BitVec 16) (poison : Bool) (mates : List SoOp) (s : State) : Result :=
  s.onDeviceBoth fun x =>
    settleRequests (x.1.soHandshake i ((if poison then [SoOp.signal n, .err 3] else [.signal n]) ++ mates), x.2)

/-- SIGNAL_ERR (R125, R132), with the other operations of its handshake. -/
def execSignalErr (i : SoIx) (code : BitVec 4) (mates : List SoOp) (s : State) : Result :=
  s.onDeviceBoth fun x => settleRequests (x.1.soHandshake i (.err code :: mates), x.2)

/-- SET (R125, R132), with the other operations of its handshake. -/
def execSet (i : SoIx) (count limit : BitVec 24) (tclass : BitVec 3) (auto : Bool) (mates : List SoOp) (s : State) : Result :=
  s.onDeviceBoth fun x => settleRequests (x.1.soHandshake i (.set count limit tclass auto :: mates), x.2)

/-- A tile sends a FAULT or NUMERIC message (R168): the flag says that it may, 100 ns after its last. -/
def Chip.mayMessage (c : Chip) (t : TileIx) : Chip × Bool :=
  let due := match sget (fun _ => none) c.fab.lastMsg t.toNat with
    | some (at' : BitVec 64) => decide (100 ≤ (c.tick.count - at').toNat)
    | none => true
  if due then
    ({ c with fab := { c.fab with lastMsg := sset (fun _ => none) c.fab.lastMsg t.toNat (some c.tick.count) } }, true)
  else (c, false)

/-- An event is merged into its source's sticky state (R168, R378): nothing is counted and no reaction starts. -/
def Chip.mergeSticky (c : Chip) (src : BitVec 8) (detail : BitVec 32) : Chip :=
  if (defaultTally src.toNat).isNone then c
  else c.modFlt fun f => { f with src := smodAt f.src }
where
  /-- The source's record with the event merged. -/
  smodAt (m : Sparse FltSrc) : Sparse FltSrc :=
    sset fltSrcReset m src.toNat (let s := c.fltSrc src.toNat
      if s.sticky then s else { s with sticky := true, firstTick := c.stamp, detail, firstClass := some (classOf s.tallyAction.toNat) })

/-- FAULT (R168, R376): a tile's event reaches the collector; a stand-in target among its consequences is held at once. One that
comes within 100 ns of the tile's last message is merged into the source's sticky state. -/
def execFault (t : TileIx) (src : BitVec 8) (info : EventInfo) (s : State) : Result :=
  s.onDeviceBoth fun x =>
    let r := x.1.mayMessage t
    if r.2 then settleRequests ((r.1.raise src info).advanceMesh, x.2)
    else (r.1.mergeSticky src info.detail, x.2)

/-- SO_TIMER_EXPIRY (R129, R132, R133, R337), with the other operations of its handshake: a crumb that waited for custody may go
on. -/
def execSoTimerExpiry (i : SoIx) (mates : List SoOp) (s : State) : Result :=
  s.onDeviceBoth fun x => settleRequests ((x.1.soHandshake i (.expire :: mates)).advanceMesh, x.2)

/-- NUMERIC (R60, R61, R167, R168): the message names no pass; its events name the one that the tile's generation lane works on
(DESIGN CHOICE, log entry 48). Within 100 ns of the tile's last message its events are merged into their sources' sticky state. -/
def execNumeric (t : TileIx) (layer : BitVec 14) (flags : BitVec 5) (s : State) : Result :=
  s.onDevice fun c =>
    let r := c.mayMessage t
    let e := eventsOf flags
    if r.2 then r.1.numericReport t layer e (c.passOn t false)
    else
      let c := { r.1 with arr := { r.1.arr with numeric := smod (fun _ => {}) r.1.arr.numeric layer.toNat (·.note e) } }
      (e.bySource.filter fun x => x.1 != 0).foldl (fun c x => c.mergeSticky x.2 (tileDetail t 0 layer.toNat)) c

/-- A register of a tile by its offset, which the spec does not give a map for (log entry 22): the buffer's bytes, read by its bank,
then the tile array word, the tile buffer word and the object words; another offset reads a free value. -/
def Chip.tileRegister (c : Chip) (t : TileIx) (offset : Nat) : Chip × Word64 :=
  if offset < 0x20000 then
    let w : WordIx := BitVec.ofNat 11 (offset / 64)
    let r := c.readWord t w (c.bank t w).next 0 none
    (r.1, BitVec.ofNat 64 (leAt (leBytes 64 r.2.1.toNat) (offset % 64 / 8 * 8) 8))
  else if offset = 0x20000 then (c, c.tileArrayWord t)
  else if offset = 0x20008 then (c, c.tileBufWord t)
  else if 0x20040 ≤ offset ∧ offset < 0x20080 then (c, (c.soObj (soIx t (BitVec.ofNat 3 ((offset - 0x20040) / 8)))).word)
  else (c.tickFree, BitVec.ofNat 64 (Config.freeNat c.free))

/-- MGMT_RD (R114, R119, R151, R167): the tile answers with its register. -/
def execMgmtRd (t : TileIx) (offset : BitVec 32) (s : State) : Result :=
  s.onDevice fun c =>
    let r := c.tileRegister t offset.toNat
    ({ r.1 with fab := { r.1.fab with mgmtReads := r.1.fab.mgmtReads ++ [(t, offset)] } } : Chip).sendCtl t (.mgmtRsp r.2)

/-- MGMT_WR (R115, R167): eight bytes of the tile; the words of chapters 03 and 04 are read-only. -/
def execMgmtWr (t : TileIx) (offset : BitVec 32) (data : Word64) (s : State) : Result :=
  s.onDevice fun c =>
    if offset.toNat < 0x20000 then
      let w : WordIx := BitVec.ofNat 11 (offset.toNat / 64)
      c.writePart t w (offset.toNat % 64 / 8 * 8) (leBytes 8 data.toNat) (c.bank t w).next 0
    else c

/-- MGMT_RSP (R167): a tile's answer reaches the management complex. -/
def execMgmtRsp (t : TileIx) (_data : Word64) (s : State) : Result :=
  s.onDevice fun c =>
    match c.fab.mgmtReads.find? fun x => x.1 == t with
    | some x => { c with fab := { c.fab with mgmtReads := c.fab.mgmtReads.erase x } }
    | none => c

end Sys2Proof.Machine
end

