-- ==== Sys2Proof/Machine/HkCmds.lean ====
section
/-! DEFINITION. Housekeeping, temperature and calibration (chapter 11): operations and the meanings of their rows. -/

namespace Sys2Proof.Machine

/-- Rewrite the housekeeping state. -/
def Chip.modHk (c : Chip) (f : Hk → Hk) : Chip := { c with hk := f c.hk }

/-- A thermal oscillator's record. -/
def Chip.temp (c : Chip) (n : Nat) : ThmTemp := sget (fun _ => {}) c.hk.temp n

/-- HK_ROUND_START (R397, R398): settings and trims taken since the last start come into force. -/
def execHkRoundStart (s : State) : Result :=
  s.onChip fun c =>
    if c.on && c.pins.refclk && decide (1 ≤ c.sys.bootStep.toNat) then
      c.modHk fun h => { h with
        act := h.set, inRound := true, thermalDone := false, paceDone := false, scanDone := false
        temp := h.temp.foldl (fun m p => sset (fun _ => {}) m p.1 { p.2 with g := p.2.gNext }) [] }
    else c

/-- A differential channel: HK-A 0 to 7 (R412). -/
def hkDifferential (b : Bool) (ch : Nat) : Bool := !b && decide (ch < 8)

/-- A reserved channel, which is not converted (R412). -/
def hkReserved (b : Bool) (ch : Nat) : Bool := inRange (if b then 24 else 25) 30 ch

/-- The range of a channel's codes (R413). -/
def hkClamp (b : Bool) (ch : Nat) (code : Int) : Int :=
  if hkDifferential b ch then max (-32768) (min 32767 code) else max 0 (min 65535 code)

/-- The 24-bit VALUE of a sum of 2ᵃ codes (R414). -/
def hkValue (left : Bool) (a : Nat) (sum : Int) : BitVec 24 :=
  if left then BitVec.ofInt 24 (sum * 2 ^ (8 - a)) else BitVec.ofInt 24 (intDivHalfEven sum (2 ^ a))

/-- HK_CONVERSION (R414, R424). -/
def execHkConversion (b : Bool) (channel : BitVec 5) (codes : List Int) (s : State) : Result :=
  s.onChip fun c =>
    let ch := channel.toNat
    if !c.on || !c.hk.inRound || hkReserved b ch then c
    else
      let a := (if b then c.hk.act.avgB else c.hk.act.avgA).toNat
      let left := if b then c.hk.act.alignB else c.hk.act.alignA
      let sum := ((codes.take (2 ^ a)).map (hkClamp b ch)).foldl (· + ·) 0
      let r : HkRes := { round := c.hk.round.setWidth 16, valid := true, value := hkValue left a sum
                         right := intDivHalfEven sum (2 ^ a) }
      c.modHk fun h =>
        if b then { h with resB := sset (fun _ => {}) h.resB ch r } else { h with resA := sset (fun _ => {}) h.resA ch r }

/-- osc_temp() of R400, with its clamps. -/
def oscTemp (n n25 n100 g : Nat) : Int :=
  let d : Int := Int.ofNat ((n * g) >>> 16) - Int.ofNat n25
  let t := 400 + (d * 1200).tdiv (Int.ofNat n100 - Int.ofNat n25)
  max (-32768) (min 32767 t)

/-- One oscillator's round (R400, R401): its new record, and whether it failed. -/
def tempRound (x : ThmTemp) (idx count : Nat) : ThmTemp × Bool :=
  let t := oscTemp count (Config.n25 idx).toNat (Config.n100 idx).toNat x.g.toNat
  let fails := count == 0 || decide (t < -640) || decide (2400 < t)
  let x := { x with t := BitVec.ofInt 16 t, tMax := if x.tMax.toInt < t then BitVec.ofInt 16 t else x.tMax }
  if fails then ({ x with excluded := true, failing := true, plausible := 0 }, true)
  else if x.excluded then
    (if x.plausible < 8 then { x with failing := false, plausible := x.plausible + 1 }
     else { x with excluded := false, failing := false }, false)
  else ({ x with failing := false }, false)

/-- THERMAL_GATE_CLOSE (R400, R401): 72 temperatures, THM_SENSOR for each that fails. -/
def execThermalGateClose (counts : Vector Nat 72) (s : State) : Result :=
  s.onChip fun c =>
    if !c.on || !c.hk.inRound || c.hk.thermalDone then c
    else
      let c := (List.range 72).foldl (fun c i =>
        let r := tempRound (c.temp i) i (counts.toList.getD i 0)
        let c := c.modHk fun h => { h with temp := sset (fun _ => {}) h.temp i r.1 }
        if r.2 then c.tally Src.thmSensor (BitVec.ofNat 32 i) else c) c
      c.modHk fun h => { h with thermalDone := true }

/-- The ring oscillators that throttle a sector (R399). -/
def ringOscs (sector : Nat) : List Nat :=
  ([(64, [3, 7]), (65, [11, 15]), (66, [12, 13]), (67, [14, 15]), (68, [8, 12]), (69, [0, 4]), (70, [0, 1]),
    (71, [2, 3])] : List (Nat × List Nat)).filterMap fun p => if sector ∈ p.2 then some p.1 else none

/-- The readings, in 1/16 °C, of oscillators that take part in comparisons this round (R401). -/
def Chip.readings (c : Chip) (idx : List Nat) : List (Nat × Int) :=
  idx.filterMap fun i => let x := c.temp i; if x.excluded then none else some (i, x.t.toInt)

/-- A level with hysteresis: set at or above, cleared when every reading is at or below (R402). -/
def levelNext (old : Bool) (rs : List (Nat × Int)) (setC clrC : Nat) : Bool :=
  if rs.any fun p => decide (Int.ofNat (16 * setC) ≤ p.2) then true
  else if old && !rs.isEmpty && rs.all fun p => decide (p.2 ≤ Int.ofNat (16 * clrC)) then false
  else old

/-- A sector's throttle level: one with its four grid oscillators excluded is at it (R401, R402). -/
def Chip.throttleNext (c : Chip) (sector : Nat) : Bool :=
  let grid := (List.range 4).map fun i => 4 * sector + i
  if (c.readings grid).isEmpty then true
  else levelNext (c.hk.throttled.getLsbD sector) (c.readings (grid ++ ringOscs sector))
    c.hk.act.thrSet.toNat c.hk.act.thrClr.toNat

/-- Drive THERMTRIP_N low, with the in-band interrupt (R404, R405, R507). -/
def Chip.driveThermtrip (c : Chip) : Chip :=
  if c.pins.thermtrip then c
  else
    let c := { c with pins := { c.pins with thermtrip := true } }
    if c.side.i3cAddr.isSome then c.emit (.inBand 0x02) else c

/-- The hottest reading and its oscillator, the lowest index among equals. -/
def hottestOf (rs : List (Nat × Int)) : Option (Nat × Int) :=
  rs.foldl (fun acc p => match acc with
    | none => some p
    | some q => if q.2 < p.2 then some p else some q) none

/-- THERMAL_LEVEL_EVALUATE (R402 to R404). -/
def execThermalLevelEvaluate (s : State) : Result :=
  s.onChip fun c =>
    if !c.on || !c.hk.thermalDone then c
    else
      let all := c.readings (List.range 72)
      let warn := levelNext c.hk.warning all c.hk.act.warnSet.toNat c.hk.act.warnClr.toNat
      let thr := (List.range 16).map c.throttleNext
      let old := c.hk.throttled
      let hot := hottestOf all
      let c1 := c.modHk fun h => { h with
        warning := warn, throttled := BitVec.ofNat 16 (natOfBits thr)
        hottest := ((hot.map fun p => BitVec.ofInt 16 p.2)).getD 0x8000
        hottestOsc := BitVec.ofNat 8 ((hot.map (·.1)).getD 0) }
      let c1 := if warn && !c.hk.warning then c1.tally Src.thmWarn 0 else c1
      let c2 := (List.range 16).foldl (fun c i =>
        let on := thr.getD i false
        let c := { c with arr := { c.arr with sector := smod (fun _ => {}) c.arr.sector i fun x => { x with throttle := on } } }
        if on && !old.getLsbD i then c.tally Src.thmThrottle (BitVec.ofNat 32 i) else c) c1
      if !c.hk.shutdown && all.any fun p => decide (16 * 118 ≤ p.2) then
        (c2.modHk fun h => { h with shutdown := true }).driveThermtrip.raise Src.thmShutdown {}
      else c2

/-- THERMTRIP_COMPARATOR_TRIP (R405): a hardware path of its own; in reset only the pin answers. -/
def execThermtripComparatorTrip (s : State) : Result :=
  s.onChip fun c =>
    if !c.pins.powered then c
    else if !c.pins.resetN then { c with pins := { c.pins with thermtrip := true } }
    else
      let c := (c.modHk fun h => { h with trip := true }).driveThermtrip
      c.raise Src.thmTrip {}

/-- Rail power in mW from the right-aligned codes of its ball voltage and its sense, and its shunt in µΩ, rounded toward
zero and never negative (R416). -/
def railMw (ball sense : Int) (uohm : Nat) : Nat := ((ball * sense * 180_000_000).tdiv (2 ^ 31 * Int.ofNat uohm)).toNat

/-- The right-aligned result of an HK-A channel. -/
def Chip.hkA (c : Chip) (n : Nat) : HkRes := sget (fun _ => {}) c.hk.resA n

/-- A rail's contributions: to HK_PWR, to the limiter, and whether PWR_SENSE applies (R416). -/
def Chip.railPower (c : Chip) (n : Nat) : Nat × Nat × Bool :=
  let uohm := (c.hk.act.shunt.toList.getD n 0).toNat
  let last := c.hk.lastMw.toList.getD n 0
  let p := if uohm = 0 then 0 else railMw (c.hkA (8 + n)).right (c.hkA n).right uohm
  if 4 ≤ n then (p, p, false)
  else if uohm = 0 then (0, last, true)
  else if c.hkOpen false n then (last, last, true)
  else (p, p, false)

/-- Nominal rail voltages in mV (R487). -/
def railNominal : List Nat := [900, 800, 1800, 1200, 1200, 1100, 750, 1800]

/-- A ball voltage more than 5 % from nominal (R491): code × 2,400 mV ÷ 65,536 against the nominal. -/
def railOut (code : Int) (nominal : Nat) : Bool :=
  decide (Int.ofNat (nominal * 65536) < 20 * Int.ofNat (code * 2400 - Int.ofNat (nominal * 65536)).natAbs)

/-- The power limit's two-round rule (R26). -/
def Chip.powerLimit (c : Chip) (mw : Nat) : Chip :=
  let lim := c.sys.limitW.toNat
  let isOver := decide (lim * 1000 < mw)
  let under := decide (mw < (lim - 25) * 1000)
  let ro := if isOver then c.sys.roundsOver + 1 else 0
  let ru := if under then c.sys.roundsUnder + 1 else 0
  let start := !c.sys.pwrActive && decide (2 ≤ ro)
  let stop := c.sys.pwrActive && decide (2 ≤ ru)
  let c := { c with sys := { c.sys with
    roundsOver := min 2 ro, roundsUnder := min 2 ru, pwrActive := (c.sys.pwrActive || start) && !stop } }
  if start then c.tally Src.pwrLimit 0 else c

/-- HK_SCAN_END (R26, R415, R416, R491). -/
def execHkScanEnd (s : State) : Result :=
  s.onChip fun c =>
    if !c.on || !c.hk.inRound || c.hk.scanDone then c
    else
      let ra := c.hkA 31
      let rb := sget (fun _ => ({} : HkRes)) c.hk.resB 31
      let diff := ra.right - rb.right
      let c := c.modHk fun h => { h with scanDone := true, xcheckDiff := BitVec.ofInt 16 diff }
      let c := if 8 < diff.natAbs then c.tally Src.hkXcheck (BitVec.ofInt 32 diff) else c
      let ps := (List.range 8).map c.railPower
      let die := (ps.take 4).foldl (fun a p => a + p.1) 0
      let pkg := ps.foldl (fun a p => a + p.1) 0
      let lim := (ps.take 4).foldl (fun a p => a + p.2.1) 0
      let last := (ps.take 4).map (·.2.1)
      let c := c.modHk fun h => { h with
        dieMw := BitVec.ofNat 32 die, pkgMw := BitVec.ofNat 32 pkg
        lastMw := Vector.ofFn fun i => last.getD i.val 0 }
      let c := if ps.any (·.2.2) then c.tally Src.pwrSense 0 else c
      let c := c.powerLimit lim
      (List.range 8).foldl (fun c n =>
        let r := c.hkA (8 + n)
        if r.valid && railOut r.right (railNominal.getD n 1) then c.tally Src.railRange (BitVec.ofNat 32 n) else c) c

/-- The next enabled input of a converter after the one tested last, wrapping around (R417). -/
def Chip.owNext (c : Chip) (b : Bool) : Option Nat :=
  let last := (if b then c.hk.owLastB else c.hk.owLastA).toNat
  ((List.range 8).map fun i => (last + 1 + i) % 8).find? fun n => c.hk.act.owEn.getLsbD (n + if b then 8 else 0)

/-- OPEN_WIRE_TEST (R417). -/
def execOpenWireTest (b : Bool) (pullUp pullDown : Int) (s : State) : Result :=
  s.onChip fun c =>
    if !c.on || !c.hk.scanDone then c
    else match c.owNext b with
      | none => c
      | some n =>
        let ain := n + if b then 8 else 0
        let isOpen := decide ((if b then 1000 else 8000) < (pullUp - pullDown).natAbs)
        let c := c.modHk fun h => { h with
          owLastA := if b then h.owLastA else BitVec.ofNat 3 n
          owLastB := if b then BitVec.ofNat 3 n else h.owLastB
          open' := if isOpen then h.open' ||| (1#16 <<< ain) else h.open' &&& ~~~(1#16 <<< ain) }
        if isOpen then c.tally Src.hkOpenWire (BitVec.ofNat 32 ain) else c

/-- A region has a DOUBTFUL item. -/
def Chip.regionDoubtful (c : Chip) (r : Fin 9) : Bool :=
  (calItems r).any fun i => (sget (fun _ => ({} : CalItem)) c.cal.item (8 * r.val + i.toNat)).state == 2

/-- A region's calibration trigger at a round's end (R408). -/
def Chip.calTriggered (c : Chip) (r : Fin 9) : Bool :=
  let osc := c.temp (if r.val = 0 then 70 else 64 + (r.val - 1) / 2)
  let moved := match c.cal.refT[r.val] with
    | some t => !osc.excluded && decide (16 * c.hk.act.deltaT.toNat < (osc.t.toInt - t.toInt).natAbs)
    | none => false
  moved || c.regionDoubtful r

/-- Queue a region's run, ignored while the region's run is in progress or waits (R408). -/
def Chip.calTrigger (c : Chip) (r : Fin 9) : Chip :=
  if r.val = 0 then (if c.cal.runM.isSome then c else { c with cal := { c.cal with waitingM := true } })
  else if (c.cal.run.map (·.1)) = some r ∨ r ∈ c.cal.waiting then c
  else { c with cal := { c.cal with waiting := c.cal.waiting ++ [r] } }

/-- HK_ROUND_END (R398, R408). -/
def execHkRoundEnd (s : State) : Result :=
  s.onChip fun c =>
    if !c.on || !c.hk.inRound || !c.hk.thermalDone || !c.hk.scanDone then c
    else
      let c := c.modHk fun h => { h with round := h.round + 1, inRound := false }
      if c.flt.faultState then c
      else ((List.finRange 9).foldl (fun c r => if c.calTriggered r then c.calTrigger r else c) c).calNext

/-- A converter is busy with its scan or its open-wire test (R398, R418). -/
def Chip.hkBusy (c : Chip) : Bool := c.hk.inRound && !c.hk.scanDone

/-- An urgent request is dropped (R418). -/
def Chip.urgentDrop (c : Chip) : Chip :=
  (c.modHk fun h => { h with urgentDrops := satAdd h.urgentDrops 1 }).tally Src.hkUrgentDrop 0

/-- URGENT_CONVERSION (R418): `other` says that both sources request in the same cycle, when the calibration engine's
runs and the management firmware's is dropped. -/
def execUrgentConversion (_b : Bool) (_channel : BitVec 5) (_code : Int) (_calibration other : Bool) (s : State) : Result :=
  s.onChip fun c =>
    if !c.on then c
    else if c.hkBusy then (if other then c.urgentDrop.urgentDrop else c.urgentDrop)
    else if other then c.urgentDrop else c

/-- SV_HK_READ (R418, R470): the code, right-aligned, or DROPPED. -/
def execSvHkRead (q : QueueIx) (code : BitVec 16) (engineBusy : Bool) (s : State) : Result :=
  s.onChip fun c => c.withCommand q 0x0704 fun e =>
    if c.hkBusy || engineBusy then c.urgentDrop.complete q 0x000A 0 0
    else
      let v : Int := if hkDifferential (cmdField e 8 1 == 1) (cmdField e 9 1) then code.toInt else Int.ofNat code.toNat
      c.succeed q (BitVec.ofInt 64 v).toNat

/-- Agreement of two runs of an item (R406), in codes; for the slope in units of 0.125 °C (log entry 13). -/
def calAgreement (item : Nat) : Nat := ([1, 1, 2, 1, 1, 1, 4] : List Nat).getD item 0

/-- Residual limits in ppm (R406). -/
def calLimit (item : Nat) : Nat := ([0, 100, 200, 500, 10000, 5000, 87] : List Nat).getD item 0

/-- Judge a sequence of measurement pairs (R409): retries made, and the agreeing pair if one of the first four agrees. -/
def calJudge (item : Nat) : Nat → List CalMeasure → Nat × Option CalMeasure
  | _, [] => (0, none)
  | 0, _ => (0, none)
  | n + 1, m :: ms =>
    if (m.first - m.second).natAbs ≤ calAgreement item then (0, some m)
    else if n = 0 then (0, none)
    else let r := calJudge item n ms; (r.1 + 1, r.2)

/-- The calibration item's record. -/
def Chip.modItem (c : Chip) (r : Fin 9) (item : Nat) (f : CalItem → CalItem) : Chip :=
  { c with cal := { c.cal with item := smod (fun _ => {}) c.cal.item (8 * r.val + item) f } }

/-- A lane's codes. -/
def Chip.modLane (c : Chip) (n : Nat) (f : CalLane → CalLane) : Chip :=
  { c with cal := { c.cal with lane := smod (fun _ => {}) c.cal.lane n f } }

/-- Apply a GOOD item's trims (R406, R410): slope factors from the next round; termination at once; bias and heater
codes at once on a port that is not live, else as targets to be stepped to. `codes` give one value per instance. -/
def Chip.calApply (c : Chip) (r : Fin 9) (item : Nat) (codes : List Int) : Chip :=
  let p : PortIx := BitVec.ofNat 3 (r.val - 1)
  let live := (c.port p).isUp
  let v := fun i => (codes.getD i 0).toNat
  if item = 3 then
    (List.range 72).foldl (fun c i => c.modHk fun h => { h with
      temp := smod (fun _ => {}) h.temp i fun x => { x with gNext := BitVec.ofNat 32 (v i), doubtful := false } }) c
  else if r.val = 0 then c
  else (List.range 8).foldl (fun c l => c.modLane (8 * (r.val - 1) + l) fun x =>
    if item = 4 then { x with term := some (BitVec.ofNat 5 (v l)) }
    else if item = 5 then
      { x with biasTo := some (BitVec.ofNat 8 (v l)), bias := if live then x.bias else some (BitVec.ofNat 8 (v l)) }
    else
      let tx := BitVec.ofNat 12 (v l)
      let rx := BitVec.ofNat 12 (v (8 + l))
      { x with heaterTxTo := some tx, heaterRxTo := some rx
               heaterTx := if live then x.heaterTx else some tx, heaterRx := if live then x.heaterRx else some rx }) c

/-- A DOUBTFUL item takes the fuse default (R409, R431); on a live port bias and heater codes step to it (R410). -/
def Chip.calDefault (c : Chip) (r : Fin 9) (item : Nat) : Chip :=
  if item = 3 then
    (List.range 72).foldl (fun c i => c.modHk fun h => { h with
      temp := smod (fun _ => {}) h.temp i fun x => { x with gNext := 65536, doubtful := true } }) c
  else if r.val = 0 then c
  else
    let live := (c.port (BitVec.ofNat 3 (r.val - 1))).isUp
    (List.range 8).foldl (fun c l =>
      let n := 8 * (r.val - 1) + l
      c.modLane n fun x =>
        if item = 4 then { x with term := none }
        else if item = 5 then (if live then { x with biasTo := some (Config.fuseBias n) } else { x with bias := none, biasTo := none })
        else if live then { x with heaterRxTo := some (Config.fuseHeaterRx n), heaterTxTo := some (Config.fuseHeaterTx n) }
        else { x with heaterRx := none, heaterTx := none, heaterRxTo := none, heaterTxTo := none }) c

/-- An item becomes DOUBTFUL. -/
def Chip.calDoubt (c : Chip) (r : Fin 9) (item residual : Nat) : Chip :=
  ((c.modItem r item fun x => { x with state := 2, residual := BitVec.ofNat 24 (min (2 ^ 24 - 1) residual), trim := none }).calDefault
    r item).tally Src.calDoubtful (BitVec.ofNat 32 (8 * r.val + item))

/-- The end of an item, of a region's run, and of a full run (R407): boot step 5, or the command's completion. -/
def Chip.calItemEnd (c : Chip) (r : Fin 9) (left : List (BitVec 3)) : Chip :=
  let c := if r.val = 0 then
      { c with cal := { c.cal with runM := if left.isEmpty then none else some left } }
    else { c with cal := { c.cal with run := if left.isEmpty then none else some (r, left) } }
  let c := if left.isEmpty then c.calNext else c
  match c.cal.full with
  | none => c
  | some by' =>
    if c.cal.run.isSome || c.cal.runM.isSome || c.cal.waitingM || !c.cal.waiting.isEmpty then c
    else
      let c := { c with cal := { c.cal with full := none } }
      match by' with
      | none => if c.sys.bootStep = 4 then ({ c with sys := { c.sys with bootStep := 5 } } : Chip).lightPorts else c
      | some q => if (c.command q 0x0700).isSome then c.complete q 0 0 0 else c

/-- The items the named region's run has still to do. -/
def Chip.calLeft (c : Chip) (r : Fin 9) : List (BitVec 3) :=
  if r.val = 0 then c.cal.runM.getD []
  else match c.cal.run with
    | some (x, l) => if x = r then l else []
    | none => []

/-- CAL_ITEM_MEASURE (R406, R409, R410): the item in turn of the region's run in progress. -/
def execCalItemMeasure (region : Fin 9) (item : BitVec 3) (ms : List CalMeasure) (codes : List Int) (s : State) : Result :=
  s.onChip fun c =>
    match c.calLeft region with
    | [] => c
    | i :: left =>
      if i ≠ item || !c.on then c
      else
        let n := item.toNat
        let item1 := (sget (fun _ => ({} : CalItem)) c.cal.item 1).state
        if region.val = 0 && (n = 2 || n = 3) && item1 = 2 then
          (c.calDoubt region n 0).calItemEnd region left
        else
          let (retries, res) := calJudge n 4 ms
          let c := (List.range retries).foldl (fun c _ => c.tally Src.calRetry 0) c
          let c := c.modItem region n fun x => { x with retries := satAdd x.retries retries }
          let c := match res with
            | none => c.calDoubt region n ((ms.getLast?.map CalMeasure.residualPpm).getD 0)
            | some m =>
              if calLimit n < m.residualPpm then c.calDoubt region n m.residualPpm
              else
                let c := c.modItem region n fun x => { x with
                  state := 1, residual := BitVec.ofNat 24 (min (2 ^ 24 - 1) m.residualPpm)
                  trim := some (intDivHalfEven (m.first + m.second) 2) }
                c.calApply region n codes
          c.calItemEnd region left

/-- One step of a code toward its target (R410). -/
def stepTo {w : Nat} (fuse : BitVec w) (cur to' : Option (BitVec w)) : Option (BitVec w) :=
  match to' with
  | none => cur
  | some t =>
    let x := cur.getD fuse
    if x.toNat < t.toNat then some (x + 1) else if t.toNat < x.toNat then some (x - 1) else some t

/-- CAL_TRIM_STEP (R410): bias and heater codes of a live port move one step. -/
def execCalTrimStep (p : PortIx) (s : State) : Result :=
  s.onChip fun c =>
    if !c.on || !(c.port p).isUp then c
    else (List.range 8).foldl (fun c l =>
      let n := 8 * p.toNat + l
      c.modLane n fun x => { x with
        bias := stepTo (Config.fuseBias n) x.bias x.biasTo
        heaterRx := stepTo (Config.fuseHeaterRx n) x.heaterRx x.heaterRxTo
        heaterTx := stepTo (Config.fuseHeaterTx n) x.heaterTx x.heaterTxTo }) c

/-- EYE_SWEEP (R411). -/
def execEyeSweep (p : PortIx) (lane : BitVec 3) (mui : BitVec 10) (s : State) : Result :=
  s.onChip fun c =>
    if !c.on then c
    else
      let c := c.modLane (8 * p.toNat + lane.toNat) fun x => { x with eye := mui }
      if mui < c.hk.act.eyeMin then c.tally Src.calEye (BitVec.ofNat 32 (p.toNat + place 20 3 lane.toNat)) else c

/-- SV_CAL_RUN (R407): past its commit point, it completes when the run ends. -/
def execSvCalRun (q : QueueIx) (s : State) : Result :=
  s.onChip fun c => c.withCommand q 0x0700 fun _ =>
    if (c.mq q).commit then c else (c.commit q).calFull (some q)

/-- SV_CAL_CONFIG (R429): a zero keeps a value (log entry 11). -/
def execSvCalConfig (q : QueueIx) (s : State) : Result :=
  s.onChip fun c => c.withCommand q 0x0701 fun e =>
    let d := cmdField e 8 1
    let m := cmdField e 10 2
    (c.modHk fun h => { h with set := { h.set with
      deltaT := if d = 0 then h.set.deltaT else BitVec.ofNat 5 d
      eyeMin := if m = 0 then h.set.eyeMin else BitVec.ofNat 10 m } }).succeed q 0

/-- The thermal settings a command would leave, zeros keeping values. -/
def thermSet (h : HkCfg) (e : List Byte) : HkCfg :=
  let v := fun off (old : BitVec 8) => if cmdField e off 1 = 0 then old else BitVec.ofNat 8 (cmdField e off 1)
  { h with warnSet := v 8 h.warnSet, warnClr := v 9 h.warnClr, thrSet := v 10 h.thrSet, thrClr := v 11 h.thrClr
           proofK := v 12 h.proofK, proofLen := v 13 h.proofLen }

/-- The settings R402 accepts. -/
def thermOk (h : HkCfg) : Bool :=
  inRange 60 95 h.warnSet.toNat && inRange h.warnSet.toNat 110 h.thrSet.toNat
    && inRange 20 (h.warnSet.toNat - 2) h.warnClr.toNat && inRange 20 (h.thrSet.toNat - 2) h.thrClr.toNat

/-- SV_THERM_CONFIG (R402, R427, R428). -/
def execSvThermConfig (q : QueueIx) (s : State) : Result :=
  s.onChip fun c => c.withCommand q 0x0702 fun e =>
    let n := thermSet c.hk.set e
    if thermOk n then (c.modHk fun h => { h with set := n }).succeed q 0 else c.complete q 4 0 0

/-- SV_HK_CONFIG (R420 to R423): a mask says which settings the command sets (log entry 11). -/
def execSvHkConfig (q : QueueIx) (s : State) : Result :=
  s.onChip fun c => c.withCommand q 0x0703 fun e =>
    let mask := cmdField e 8 2
    (c.modHk fun h => { h with set := { h.set with
      avgA := if bitAt mask 0 then BitVec.ofNat 2 (cmdField e 10 1) else h.set.avgA
      avgB := if bitAt mask 1 then BitVec.ofNat 2 (cmdField e 11 1) else h.set.avgB
      alignA := if bitAt mask 2 then cmdField e 12 1 == 1 else h.set.alignA
      alignB := if bitAt mask 3 then cmdField e 13 1 == 1 else h.set.alignB
      owEn := if bitAt mask 4 then BitVec.ofNat 16 (cmdField e 14 2) else h.set.owEn
      shunt := Vector.ofFn fun i =>
        if bitAt mask (8 + i.val) then BitVec.ofNat 16 (cmdField e (16 + 2 * i.val) 2) else h.set.shunt[i.val] } }).succeed q 0

end Sys2Proof.Machine
end

