-- ==== Sys2Proof/Machine/HostCmds.lean ====
section
/-! DEFINITION. Host accesses to the register blocks and outside the map (chapters 00, 05, 10, 12, 13, 14): meanings. -/

namespace Sys2Proof.Machine

/-- Count an access outside every listed range (R9, R10). -/
def Chip.countUnmapped (c : Chip) (addr : BitVec 40) (write : Bool) : Chip :=
  { c with sys := { c.sys with lastAddr := addr, lastWrite := write, unmapped := satAdd c.sys.unmapped 1 } }

/-- A host access over a module that is up; over one that is down nothing arrives (R14). -/
def Chip.hostAccess (c : Chip) (m : UcieIx) (f : Chip → Chip) : Chip := if c.moduleUp m then f c else c

/-- HOST_REG_WRITE (R4, R5): each field by its access code. -/
def execHostRegWrite (m : UcieIx) (addr : BitVec 40) (w : RegWidth) (data : Word64) (s : State) : Result :=
  s.onChip fun c => c.hostAccess m fun c =>
    match hostMap addr with
    | .reg block off => c.regWrite block (off - off % 8) (RegData.of w data)
    | .outside => c.countUnmapped (if w = .high then addr + 4 else addr) true
    | _ => c

/-- A 32-bit read of an aligned half: the low half of TICK_NOW latches the high one, whose read returns the latch
(R182). -/
def Chip.readHalf (c : Chip) (block off : Nat) : Chip × List Byte :=
  if block = 6 ∧ off = 0 then
    ({ c with tick := { c.tick with latch := c.tick.count.extractLsb' 32 32 } }, leBytes 4 c.tick.count.toNat)
  else if block = 6 ∧ off = 4 then (c, leBytes 4 c.tick.latch.toNat)
  else
    let v := (regRead c block (off - off % 8)).toNat
    (c, leBytes 4 (if off % 8 = 0 then v else v / 2 ^ 32))

/-- A 32-bit read at an aligned address: of a register's half, or of what lies in no block. -/
def Chip.readHalfAt (c : Chip) (addr : BitVec 40) : Chip × List Byte :=
  match hostMap addr with
  | .reg block off => c.readHalf block off
  | _ => (c, List.replicate 4 0xFF#8)

/-- Bytes of a read from `n` aligned halves, ascending. -/
def Chip.readHalves : Nat → BitVec 40 → Chip → Chip × List Byte
  | 0, _, c => (c, [])
  | n + 1, addr, c =>
    let r := c.readHalfAt addr
    let t := Chip.readHalves n (addr + 4) r.1
    (t.1, r.2 ++ t.2)

/-- Bytes of an access that lie outside every listed range (R9). -/
def outsideBytes (addr : BitVec 40) (size : Nat) : Nat :=
  ((List.range size).filter fun i => hostMap (addr + BitVec.ofNat 40 i) == .outside).length

/-- An access to the register blocks other than of a whole register or half (R520): a read returns each byte of its half's
32-bit read, a write is ignored. One that reaches past the last block is counted (log entry 32). -/
def Chip.regAccess (c : Chip) (m : UcieIx) (addr : BitVec 40) (size : Nat) (write : Bool) : Chip :=
  let c := if outsideBytes addr size = 0 then c else c.countUnmapped addr write
  if write then c
  else
    let skip := addr.toNat % 4
    let r := Chip.readHalves ((skip + size + 3) / 4) (addr - BitVec.ofNat 40 skip) c
    r.1.emit (.readDone m ((r.2.drop skip).take size))

/-- UNMAPPED_ACCESS (R9, R10): all ones and counted outside every range; in a block, what the register at the offset reads, 0
where none is assigned. -/
def execUnmappedAccess (m : UcieIx) (addr : BitVec 40) (size : Nat) (write : Bool) (s : State) : Result :=
  s.onChip fun c => c.hostAccess m fun c =>
    match hostMap addr with
    | .outside =>
      let c := c.countUnmapped addr write
      if write then c else c.emit (.readDone m (List.replicate size 0xFF#8))
    | .reg _ _ => c.regAccess m addr size write
    | _ => c

/-- SUBWORD_REG_ACCESS (R520). -/
def execSubwordRegAccess (m : UcieIx) (addr : BitVec 40) (size : Nat) (write : Bool) (s : State) : Result :=
  s.onChip fun c => c.hostAccess m fun c =>
    match hostMap addr with
    | .reg _ _ => c.regAccess m addr size write
    | _ => c

/-- TICK_NOW_READ (R182): whole, or a half. -/
def execTickNowRead (m : UcieIx) (w : RegWidth) (s : State) : Result :=
  s.onChip fun c => c.hostAccess m fun c =>
    match w with
    | .full =>
      let r := c.readHalf 6 0
      r.1.emit (.readDone m (leBytes 8 c.tick.count.toNat))
    | .low => let r := c.readHalf 6 0; r.1.emit (.readDone m r.2)
    | .high => let r := c.readHalf 6 4; r.1.emit (.readDone m r.2)

/-- TICK_CLR_WRITE (R187). -/
def execTickClrWrite (m : UcieIx) (clr : Bool) (s : State) : Result :=
  s.onChip fun c => c.hostAccess m fun c => if clr then c.clearGroupMax else c

/-- FLT_SUMMARY_CLR (R389). -/
def execFltSummaryClr (m : UcieIx) (s : State) : Result := s.onChip fun c => c.hostAccess m Chip.clearFirst

/-- FLT_CTL_ENTER (R387, R390). -/
def execFltCtlEnter (m : UcieIx) (s : State) : Result := s.onChip fun c => c.hostAccess m Chip.enterCommand

/-- FLT_SRC_SEVERE_CLEAR (R381, R395): a clear that meets an event of the source leaves SEVERE set where it was, and the
event is counted in its window. -/
def execFltSrcSevereClear (m : UcieIx) (src : BitVec 8) (meets : Option EventInfo) (s : State) : Result :=
  s.onChip fun c => c.hostAccess m fun c =>
    match meets with
    | some info => c.raise src info
    | none => if src.toNat < 192 then c.clearSevere src.toNat else c

/-- FLT_SRC_STICKY_CLEAR (R378, R381, R395): the clear releases the capture; an event it meets sets STICKY again and
captures anew. -/
def execFltSrcStickyClear (m : UcieIx) (src : BitVec 8) (meets : Option EventInfo) (s : State) : Result :=
  s.onChip fun c => c.hostAccess m fun c =>
    let c := if src.toNat < 192 then c.clearSticky src.toNat else c
    match meets with
    | some info => c.raise src info
    | none => c

/-- EVR_FLUSH_WRITE (R441, R451). -/
def execEvrFlushWrite (m : UcieIx) (s : State) : Result := s.onChip fun c => c.hostAccess m Chip.flushCommand

/-- PORT_RETRAIN_WRITE (R357). -/
def execPortRetrainWrite (m : UcieIx) (p : PortIx) (s : State) : Result :=
  s.onChip fun c => c.hostAccess m fun c => c.portRetrain p

/-- PORT_ENABLE_WRITE (R357). -/
def execPortEnableWrite (m : UcieIx) (p : PortIx) (en : Bool) (s : State) : Result :=
  s.onChip fun c => c.hostAccess m fun c => if (c.port p).enable == en then c else c.portEnable p en

/-- MBX_CTL_WRITE (R480). -/
def execMbxCtlWrite (m : UcieIx) (w : RegWidth) (data : Word64) (s : State) : Result :=
  s.onChip fun c => c.hostAccess m fun c => c.writeMbxCtl (RegData.of w data)

/-- MBX_SQ_DOORBELL (R462). -/
def execMbxSqDoorbell (m : UcieIx) (q : QueueIx) (tail : BitVec 6) (s : State) : Result :=
  s.onChip fun c => c.hostAccess m fun c => c.sqDoorbell q tail

/-- MBX_CQ_DOORBELL (R462). -/
def execMbxCqDoorbell (m : UcieIx) (q : QueueIx) (head : BitVec 8) (s : State) : Result :=
  s.onChip fun c => c.hostAccess m fun c => c.cqDoorbell q head

/-- SIDEBAND_DOORBELL (R462): a sideband message acts as the register write. -/
def execSidebandDoorbell (m : UcieIx) (q : QueueIx) (cq : Bool) (value : BitVec 8) (s : State) : Result :=
  s.onChip fun c => c.hostAccess m fun c =>
    if cq then c.cqDoorbell q value else c.sqDoorbell q (value.setWidth 6)

/-- BOOT_LEN_WRITE (R500, R516). -/
def execBootLenWrite (m : UcieIx) (w : RegWidth) (data : Word64) (s : State) : Result :=
  s.onChip fun c => c.hostAccess m fun c => c.writeBootLen (RegData.of w data)

end Sys2Proof.Machine
end

