-- ==== Sys2Proof/Machine/RecipeCmds.lean ====
section
/-! DEFINITION. Loading, arming and discarding recipes (R192 to R201, R220, R225, R255, R471, R523): meanings. -/

namespace Sys2Proof.Machine

/-- A section-table entry (R194). -/
structure SectEntry where
  type : Nat
  ver : Nat
  required : Bool
  off : Nat
  len : Nat
  digest : List Byte
  deriving DecidableEq, Repr

/-- The section table (R194). -/
def sectTable (b : List Byte) : List SectEntry :=
  (List.range (leAt b 14 2)).map fun i =>
    let o := 256 + 64 * i
    { type := leAt b o 2, ver := leAt b (o + 2) 2, required := bitAt (leAt b (o + 4) 4) 0, off := leAt b (o + 8) 4
      len := leAt b (o + 12) 4, digest := bytesAt b (o + 16) 48 }

/-- No two intervals of a list meet. -/
def disjoint : List (Nat × Nat) → Bool
  | [] => true
  | x :: xs => (xs.all fun y => !overlaps x.1 x.2 y.1 y.2) && disjoint xs

/-- Step 2 of R198: lengths and places, in the order of R192. -/
def boundsOk (b : List Byte) (es : List SectEntry) : Bool :=
  let total := leAt b 16 4
  let sig := leAt b 20 4
  decide (total ≤ 64 * 2 ^ 20) && total == b.length && inRange 1 64 (leAt b 14 2) && sig % 64 == 0
    && decide (256 + 64 * es.length ≤ sig) && (sigBlock b sig).isSome
    && (es.all fun e => e.off % 64 == 0 && decide (1 ≤ e.len) && decide (256 + 64 * es.length ≤ e.off) && decide (e.off + e.len ≤ sig))
    && disjoint (es.map fun e => (e.off, e.off + e.len))

/-- Step 3 (R197): the signature, under a chain that ends at the installed recipe root. -/
def Chip.recipeSigned (c : Chip) (b : List Byte) : Bool :=
  let sig := leAt b 20 4
  match sigBlock b sig, c.boot.owner[1] with
  | some (chain, s), some root => signedBy b sig (Config.chainLeafKey root chain) s
  | _, _ => false

/-- A section's bytes. -/
def SectEntry.bytes (e : SectEntry) (b : List Byte) : List Byte := bytesAt b e.off e.len

/-- The section of a type. -/
def sectionOf (b : List Byte) (es : List SectEntry) (type : Nat) : Option (List Byte) :=
  (es.find? fun e => e.type == type).map fun e => e.bytes b

/-- Read a section that may be absent: the outer `none` is a broken one. -/
def readOpt {α : Type} (f : List Byte → Option α) : Option (List Byte) → Option (Option α)
  | none => some none
  | some b => (f b).map some

/-- Step 5, by types (R195, R196). -/
def typesOk (b : List Byte) (es : List SectEntry) : Bool :=
  let n := fun t => (es.filter fun e => e.type == t).length
  (([1, 2, 3, 4, 5, 7, 10, 11] : List Nat).all fun t => n t == 1) && decide (n 6 ≤ 1) && decide (n 8 ≤ 1) && decide (n 9 ≤ 9)
    && (!bitAt (leAt b 6 2) 1 || n 8 == 1)
    && es.all fun e => inRange 1 11 e.type && e.ver == 1 || (!inRange 1 11 e.type && !e.required)

/-- The length classes' rules (R210). -/
def lengthsOk : Nat → List LengthClass → Bool
  | _, [] => true
  | lo, x :: xs => decide (lo < x.limit) && x.limit % 128 == 0 && inRange 128 1048576 x.limit
      && (x.far || decide (x.limit ≤ 8192)) && decide (x.ref < 65536) && lengthsOk x.limit xs

/-- The expert-slot tables' rules (R212, R214): k of E scores, entries of scored experts and always-on ones, partners among the
entries; an always-on expert has none and is nobody's. -/
def ExpertTable.ok (t : ExpertTable) : Bool :=
  inRange 1 8 t.k && decide (t.k ≤ t.e) && decide (t.e ≤ 256) && t.entries.all fun e =>
    (if e.cls = 3 then e.expert == 0xFFFF else decide (e.expert < t.e)) && match e.partner with
      | none => true
      | some p => e.cls != 3 && match t.entries[p]? with
        | some x => x.cls != 3
        | none => false

/-- A streaming section names an entry of CLASS 2 and a place in far memory (R217, R523). -/
def StreamSec.ok (ts : List ExpertTable) (s : StreamSec) : Bool :=
  (ts.any fun t => t.layer == s.layer && t.variant == s.variant && (t.entries[s.expert]?).any fun e => e.cls == 2)
    && decide (s.addr + s.bytes ≤ farSize)

/-- A length class's ORDER_REF names a sub-order wherever an order or a list has a place for one (R210, R523). -/
def refOk (tiles : List TileOrder) (nodes : List NodeList) (ref : Nat) : Bool :=
  (tiles.all fun o => !(o.ops.any fun x => x.op == .attention) || o.subs.any fun x => x.1 == ref)
    && nodes.all fun l => !(l.entries.contains .attention) || l.subs.any fun x => x.1 == ref

/-- Step 8 (R22, R23). -/
def firingOk (f : Firing) (budget : Nat) : Bool :=
  f.shares.length == 16 && f.peaks.length == 16 && (f.shares.all fun s => decide (s ≤ 768))
    && decide (f.shares.foldl (· + ·) 0 ≤ budget) && (f.shares.zip f.peaks).all fun x => decide (x.2 ≤ x.1)

/-- A region of a tile's buffer includes a reserved word (R113). -/
def meetsReserved (t : TileIx) (first len : Nat) : Bool := decide (t.toNat < 32) && overlaps first (first + len) 1920 2048

/-- Step 11 (R113). -/
def placementOk (p : Placement) : Bool :=
  p.claims.all fun x => decide (x.2.1 + x.2.2 ≤ 2048) && !meetsReserved x.1 x.2.1 x.2.2

/-- A region of a tile's buffer that a descriptor of step 12 takes. -/
def regionOk (t : TileIx) (start : WordIx) (len : BitVec 12) : Bool :=
  decide (start.toNat + len.toNat ≤ 2048) && !meetsReserved t start.toNat len.toNat

/-- Step 12 (R134, R150, R172). -/
def descriptorsOk (d : Descriptors) : Bool :=
  let slots := d.slots.filter fun s => s.desc.valid
  let wins := d.windows.filterMap fun w => w.inbound.map fun x => (w.tile, x)
  let tiles := ((slots.map (·.tile)) ++ wins.map (·.1)).eraseDups
  let auto := fun (t : TileIx) (l : BitVec 3) => d.objects.any fun o => o.index == BitVec.ofNat 13 (8 * t.toNat + l.toNat) && o.auto
  (slots.all fun s => inRange 1 2048 s.desc.length.toNat && regionOk s.tile s.desc.start s.desc.length
      && s.desc.fill != s.desc.drain && !auto s.tile s.desc.fill && !auto s.tile s.desc.drain)
    && (wins.all fun w => regionOk w.1 w.2.start w.2.length && w.2.batch != 0 && decide (w.2.peerPort.toNat ≤ 8))
    && (tiles.all fun t =>
      let ss := slots.filter fun s => s.tile == t
      disjoint ((ss.map fun s => (s.desc.start.toNat, s.desc.start.toNat + s.desc.length.toNat))
          ++ (wins.filter fun w => w.1 == t).map fun w => (w.2.start.toNat, w.2.start.toNat + w.2.length.toNat))
        && (ss.flatMap fun s => [s.desc.fill, s.desc.drain]).eraseDups.length == 2 * ss.length)
    && d.tclass.all fun x => x.2 == 0 || inRange 2 1000000 x.2

/-- Step 9 (R36, R49, R141). -/
def quantOk (q : Quant) : Bool :=
  (q.tensors.all fun t => posNormal32 t.scale && ([256, 512, 1024] : List Nat).contains t.chunk
      && ([16, 32, 64] : List Nat).contains t.lane)
    && q.softmax.all posNormal32

/-- Step 13 (R155, R164, R198): an order image's size, the entries a node holds with its sub-orders, RES_INT. -/
def ordersOk (ts : List TileOrder) (ns : List NodeList) : Bool :=
  let size := fun (n : NodeList) => n.subs.foldl (fun k x => k + x.2.length) n.entries.length
  (ts.all fun t => decide (t.bytes ≤ 8192))
    && (ns.map (·.tile)).eraseDups.all fun t => decide (((ns.filter fun n => n.tile == t).foldl (fun k n => k + size n) 0) ≤ 8192)
def resIntOk (n : Nat) : Bool := n == 0 || inRange 8 64 n

/-- A section's content, or the code of the step that owns it when it cannot be read or breaks a rule (R523). -/
def want {α : Type} (code : Nat) (content : Option α) (ok : α → Bool) : Except Nat α :=
  match content with
  | some x => if ok x then .ok x else .error code
  | none => .error code

/-- Fail with a code. -/
def refuseIf (bad : Bool) (code : Nat) : Except Nat Unit := if bad then .error code else .ok ()

/-- Every section's content, read, with the code of the step that owns a broken one (R523), in the order of R198. -/
def readSections (c : Chip) (b : List Byte) (es : List SectEntry) : Except Nat Recipe := do
  let raw := fun t => (sectionOf b es t).getD []
  let flags := leAt b 6 2
  let tiles := Config.readTileOrder (raw 2)
  let nodes := Config.readNodeOrder (raw 3)
  let fbs := ((es.filter fun e => e.type == 9).map fun e => Config.readFallback (e.bytes b))
  -- orders that can be read; those that cannot fail at step 13
  let lists := (tiles.getD [], (nodes.map (·.2)).getD []) :: fbs.filterMap fun f => f.map fun f => (f.tiles, f.nodes)
  let experts ← want 5 (readOpt Config.readExperts (sectionOf b es 6)) fun x => x.all fun ts => ts.all ExpertTable.ok
  let lengths ← want 5 (Config.readLengths (raw 7)) fun x =>
    inRange 1 8 x.length && lengthsOk 0 x && x.all fun l => lists.all fun o => refOk o.1 o.2 l.ref
  let streams ← want 5 (readOpt Config.readStreaming (sectionOf b es 8)) fun x => x.all fun ss => ss.all (StreamSec.ok (experts.getD []))
  refuseIf (!(c.sys.posValid && bytesAt b 10 3 == c.posBytes)) 6
  refuseIf (c.rcp.active.any fun r => !epochAfter (BitVec.ofNat 8 (leAt b 8 1)) r.repoch) 7
  let firing ← want 8 (Config.readFiring (raw 11)) fun x => firingOk x c.sys.dieBudget.toNat
  let quant ← want 9 (Config.readQuant (raw 4)) quantOk
  -- bounds are held in units of 2⁻²⁴
  let integrity ← want 10 (Config.readIntegrity (raw 10)) fun x => x.bounds.all fun b => decide (b.2.2 ≤ 2 ^ 78)
  let placement ← want 11 (Config.readPlacement (raw 1)) placementOk
  let desc ← want 12 (Config.readDescriptors (raw 5)) descriptorsOk
  let tiles ← want 13 tiles fun _ => true
  let nodes ← want 13 nodes fun x => resIntOk x.1 && ordersOk tiles x.2
  refuseIf (!(fbs.all fun f => f.any fun f => ordersOk f.tiles f.nodes)) 13
  return { repoch := BitVec.ofNat 8 (leAt b 8 1), buddyOff := bitAt flags 0, streaming := bitAt flags 1, draft := bitAt flags 2
           layout := bytesAt b 24 48, report := bytesAt b 72 48, measure := sha384 (b.take (leAt b 20 4)), placement, tiles
           nodes := nodes.2, resInt := nodes.1, quant, desc, experts, lengths, streams := streams.getD []
           fallbacks := fbs.filterMap id, integrity, firing }

/-- The load checks of R198 on the bytes fetched, codes 1 to 13. -/
def Chip.checkRecipe (c : Chip) (b : List Byte) : Except Nat Recipe :=
  let es := sectTable b
  if leAt b 0 4 ≠ 0x4352474E ∨ leAt b 4 2 ≠ 5 then .error 1
  else if !boundsOk b es then .error 2
  else if !c.recipeSigned b then .error 3
  else if !(es.all fun e => sha384 (e.bytes b) == e.digest) then .error 4
  else if !typesOk b es then .error 5
  else readSections c b es

/-- Rewrite the recipe state. -/
def Chip.modRcp (c : Chip) (f : Rcp → Rcp) : Chip := { c with rcp := f c.rcp }

/-- A recipe command is rejected with a code that SYS_RECIPE.LAST_REJECT keeps (R198, R225). -/
def Chip.rejectRecipe (c : Chip) (q : QueueIx) (code : Nat) : Chip :=
  (c.modRcp fun r => { r with lastReject := BitVec.ofNat 5 code }).reject q code

/-- The staged recipe is ARMED. -/
def Chip.stagedArmed (c : Chip) : Option (Recipe × Pass) :=
  match c.rcp.staged with
  | some (r, .armed a) => some (r, a)
  | _ => none

/-- SV_RECIPE_LOAD (R198, R200, R471): checks 18 and 14 when it is taken, a LOADED recipe discarded, the fetch started. -/
def execSvRecipeLoad (q : QueueIx) (s : State) : Result :=
  s.onChip fun c => c.withCommand q 0x0100 fun e =>
    if c.rcp.fallback ≠ 0 then c.rejectRecipe q 18
    else if c.stagedArmed.isSome then c.rejectRecipe q 14
    else (c.modRcp fun r => { r with staged := none }).startFetch (.hostFetch (BitVec.ofNat 64 (cmdField e 8 8)) (cmdField e 16 4))

/-- The queue on which a command of one opcode is in progress. -/
def Chip.queueOf (c : Chip) (code : Nat) : Option QueueIx :=
  ((List.range 16).find? fun n => (c.command (BitVec.ofNat 4 n) code).isSome).map (BitVec.ofNat 4)

/-- The end of a container's load (R198, R200, R471). -/
def execRecipeLoadDone (fetched : Option (List Byte)) (s : State) : Result :=
  s.onChip fun c =>
    match c.queueOf 0x0100 with
    | none => c
    | some q =>
      if c.rcp.fallback ≠ 0 then c.rejectRecipe q 18
      else if c.stagedArmed.isSome then c.rejectRecipe q 14
      else match fetched with
        | none => c.hostFetchFailed q
        | some bytes =>
          match c.checkRecipe (bytes.take (cmdField ((c.command q 0x0100).getD []) 16 4)) with
          | .error code => c.rejectRecipe q code
          | .ok r => (c.modRcp fun x => { x with staged := some (r, .loaded) }).succeed q 0

/-- A layout is that of a live weight epoch (R201, R232). -/
def Chip.liveLayout (c : Chip) (layout : List Byte) : Bool :=
  (c.load.activeLive && c.load.active.any fun e => e.layout == layout)
    || match c.load.incoming with
      | some (_, _, .loading) => false
      | some (e, _, _) => e.layout == layout
      | none => false

/-- A pass number that an arm may name (R201, R254). -/
def Chip.armRange (c : Chip) (a : Pass) : Bool :=
  !c.rcp.begun || inRange 1024 (2 ^ 30 - 1) (a - c.rcp.lastPass).toNat

/-- The armed weight switch, if any. -/
def Chip.armedSwitch (c : Chip) : Option (Epoch × Pass) :=
  match c.load.incoming with
  | some (e, _, .armed w) => some (e, w)
  | _ => none

/-- A layout matches only the incoming epoch of an armed switch (R255). -/
def Chip.onlyIncoming (c : Chip) (e : Epoch) (layout : List Byte) : Bool :=
  e.layout == layout && !(c.load.activeLive && c.load.active.any fun x => x.layout == layout)

/-- SV_RECIPE_ARM (R201, R225, R255): the first accepted arm locks every RWL register. -/
def execSvRecipeArm (q : QueueIx) (s : State) : Result :=
  s.onChip fun c => c.withCommand q 0x0101 fun e =>
    let a : Pass := BitVec.ofNat 32 (cmdField e 8 4)
    match c.rcp.staged with
    | some (r, .loaded) =>
      let only := c.armedSwitch.any fun x => c.onlyIncoming x.1 r.layout && x.2 != a
      let drain := c.armedSwitch.any fun x => x.2 == a && r.desc.objects.any fun o => some o.index == c.load.drainSo
      if !c.liveLayout r.layout then c.rejectRecipe q 16
      else if !c.armRange a || only then c.rejectRecipe q 17
      else if drain then c.rejectRecipe q 19
      else
        let c := c.modRcp fun x => { x with staged := some (r, .armed a), drained := false }
        ({ c with sys := { c.sys with armLocked := true } } : Chip).succeed q 0
    | _ => c.rejectRecipe q 15

/-- SV_RECIPE_DISARM (R200, R255). -/
def execSvRecipeDisarm (q : QueueIx) (s : State) : Result :=
  s.onChip fun c => c.withCommand q 0x0102 fun _ =>
    match c.stagedArmed with
    | some (r, _) =>
      if c.armedSwitch.any fun x => c.onlyIncoming x.1 r.layout then
        (c.modLoad fun l => { l with lastReject := 12 }).reject q 12
      else (c.modRcp fun x => { x with staged := some (r, .loaded), draining := false }).succeed q 0
    | none => c.reject q 0

/-- SV_RECIPE_DISCARD (R200). -/
def execSvRecipeDiscard (q : QueueIx) (s : State) : Result :=
  s.onChip fun c => c.withCommand q 0x0103 fun _ =>
    match c.rcp.staged with
    | some (_, .loaded) => (c.modRcp fun x => { x with staged := none }).succeed q 0
    | _ => c.reject q 0

/-- SV_RECIPE_QUERY (R223): report and layout digests of the active, then of the staged recipe; absent ones are 0. -/
def execSvRecipeQuery (q : QueueIx) (ok : Bool) (s : State) : Result :=
  s.onChip fun c => c.withCommand q 0x0104 fun e =>
    let of' := fun (r : Option Recipe) => match r with
      | some r => r.report ++ r.layout
      | none => List.replicate 96 0
    c.writeHost q (cmdField e 8 8) (of' c.rcp.active ++ of' (c.rcp.staged.map (·.1))) ok 0

end Sys2Proof.Machine
end

