-- ==== Sys2Proof/Machine/IntegrityCmds.lean ====
section
/-! DEFINITION. Sprinkles, sprinkle packs, statistical monitors, holds and handshakes (R361 to R372, R382, R388): meanings. -/

namespace Sys2Proof.Machine

/-- SV_PACK_INSTALL starts the fetch of a pack on the container path (R371, R472). -/
def execSvPackInstall (q : QueueIx) (s : State) : Result :=
  s.onChip fun c => c.withCommand q 0x0400 fun e =>
    c.startFetch (.hostFetch (BitVec.ofNat 64 (cmdField e 8 8)) (cmdField e 16 4))

/-- A pack's header has no bit out of place (R369, R371 code 1). -/
def packHeaderOk (b : List Byte) : Bool :=
  leAt b 0 4 == 0x4B505053 && leAt b 4 2 == 1 && decide (leAt b 6 2 < 2) && leAt b 28 4 == 0
    && (leAt b 6 2 == 1 || allZero (bytesAt b 32 48)) && allZero (bytesAt b 80 48)

/-- Lengths and places of a pack's parts, in their order (R369, R371 code 2). -/
def packBoundsOk (b : List Byte) (fetched : Nat) : Bool :=
  let n := leAt b 12 4
  let sig := leAt b 20 4
  let data := leAt b 24 4
  decide (leAt b 16 4 ≤ 32 * 2 ^ 20) && leAt b 16 4 == fetched && inRange 1 262144 n && sig % 64 == 0 && data % 64 == 0
    && decide (128 + 32 * n ≤ data) && decide (data ≤ sig) && (sigBlock b sig).isSome

/-- The pack is signed under Kuilo's sprinkle root or one that the owner has installed (R197, R371 code 3, R474). -/
def Chip.packSigned (c : Chip) (b : List Byte) : Bool :=
  let sig := leAt b 20 4
  match sigBlock b sig with
  | some (chain, s) =>
    signedBy b sig (Config.chainLeaf Config.sprinkleRoot chain) s
      || match c.boot.owner[3] with
        | some root => signedBy b sig (Config.chainLeafKey root chain) s
        | none => false
  | none => false

/-- The digest is that of a live weight epoch (R371 code 5). -/
def Chip.liveDigest (c : Chip) (d : List Byte) : Bool :=
  (c.load.activeLive && c.load.active.any fun e => e.digest == d)
    || match c.load.incoming with
      | some (_, _, .loading) => false
      | some (e, _, _) => e.digest == d
      | none => false

/-- Size of one input of an entry: an A8 block, an FP32 vector or a crumb. -/
def inputSize (kind : Nat) : Nat := if kind = 4 then 256 else if kind = 5 then 80 else 64

/-- An entry of the table (R370); `none`: it breaks R370. -/
def packEntry (b : List Byte) (bound : Bool) (i : Nat) : Option PackEntry :=
  let o := 128 + 32 * i
  let v := fun off n => leAt b (o + off) n
  let data := bytesAt b (leAt b 24 4) (leAt b 20 4 - leAt b 24 4)
  let kind := v 0 1
  let array := decide (1 ≤ kind) && decide (kind ≤ 3)
  let target := v 4 1
  let targetOk := if kind = 1 then decide (target < 16) || (decide (128 ≤ target) && decide (target < 136))
    else kind == 5 || target == 0
  let plane := v 12 4
  let planeOk := plane == 0xFFFF_FFFF || decide (plane + 36864 ≤ data.length)
  if inRange 1 5 kind && (kind == 1) == bound && (!array || decide (v 1 1 < 7)) && (kind != 4 || decide (v 1 1 < 15))
      && (decide (v 2 2 < 1024) || (v 2 2 == 0xFFFF && !bound)) && targetOk && decide (v 5 1 < 16) && inRange 1 16 (v 6 2)
      && decide (v 8 4 + v 6 2 * inputSize kind ≤ data.length) && planeOk && allZero (bytesAt b (o + 20) 12) then
    some { kind, op := v 1 1, tile := if v 2 2 = 0xFFFF then none else some (BitVec.ofNat 10 (v 2 2))
           target := BitVec.ofNat 8 target, plane := BitVec.ofNat 2 (v 5 1), group := BitVec.ofNat 2 (v 5 1 / 4)
           blocks := (List.range (v 6 2)).map fun n => bytesAt data (v 8 4 + n * inputSize kind) (inputSize kind)
           testPlane := if plane = 0xFFFF_FFFF then none
             else some ((List.range 288).map fun r => rowOf (bytesAt data (plane + 128 * r) 128))
           digest := BitVec.ofNat 32 (v 16 4) }
  else none

/-- The checks of R371 in their order: the code of the first that fails, or the pack. -/
def Chip.checkPack (c : Chip) (b : List Byte) : Except Nat Pack :=
  let bound := bitAt (leAt b 6 2) 0
  let seq := leAt b 8 4
  let former := ((if bound then c.spk.bound else c.spk.unbound).map fun p => p.seq.toNat).getD 0
  if !packHeaderOk b then .error 1
  else if !packBoundsOk b b.length then .error 2
  else if !c.packSigned b then .error 3
  else if seq ≤ former then .error 4
  else if bound && !c.liveDigest (bytesAt b 32 48) then .error 5
  else
    let entries := (List.range (leAt b 12 4)).map (packEntry b bound)
    if entries.all (·.isSome) then
      .ok { bound, seq := BitVec.ofNat 32 seq, epoch := bytesAt b 32 48, entries := entries.filterMap id }
    else .error 6

/-- PACK_LOAD_DONE (R371): a pack that passes takes effect at the next pass boundary. -/
def execPackLoadDone (fetched : Option (List Byte)) (s : State) : Result :=
  s.onChip fun c =>
    match c.queueOf 0x0400 with
    | none => c
    | some q => match fetched with
      | none => c.hostFetchFailed q
      | some bytes =>
        match c.checkPack (bytes.take (cmdField ((c.command q 0x0400).getD []) 16 4)) with
        | .error code => (c.tally Src.packReject 0).reject q code
        | .ok p =>
          let c : Chip := { c with spk := if p.bound then { c.spk with boundNext := some p } else { c.spk with unboundNext := some p } }
          (if c.rcp.begun then c else c.activatePacks).succeed q 0

/-- SPRINKLE_RUN (R364 to R366): a sprinkle slot of a tile runs an entry. `wrong` are the cells, or for a vector operation
the result lanes and bits, that read wrong. A MESH entry sends its crumb, which SPRINKLE_CRUMB brings back. -/
def execSprinkleRun (t : TileIx) (entry : Nat) (bound : Bool) (wrong : List (Nat × Nat)) (s : State) : Result :=
  s.onDevice fun c =>
    if c.fab.deviceHalt then c
    else match c.packEntryOf t entry bound with
      | none => c
      | some e =>
        match e.kind with
        | 4 =>
          let xs := (Config.vectorSprinkle e.op e.blocks).zipIdx.map fun x =>
            wrong.foldl (fun (v : BitVec 32) w => if w.1 = x.2 then v ^^^ (1#32 <<< w.2) else v) x.1
          c.sprinkleOutcome t entry bound e (sprinkleDigest xs == e.digest)
        | 5 => c.emit (.mesh t .local' (crumbOf (e.blocks.headD [])))
        | _ => c.startSprinkle t entry bound e

/-- SPRINKLE_CRUMB (R365, R366): the crumb of a loop is back at its tile; its header is compared with the one sent, its
payload folded into the digest. -/
def execSprinkleCrumb (t : TileIx) (loop : Byte) (sent : CrumbHeader) (c : Crumb) (s : State) : Result :=
  s.onDevice fun x =>
    let es := ((x.spk.unbound.map (·.entries)).getD []).zipIdx
    match es.find? fun y => y.1.kind == 5 && y.1.target == loop && (y.1.tile.isNone || y.1.tile == some t) with
    | none => x
    | some (e, i) =>
      let words := (List.range 16).map fun k => BitVec.ofNat 32 (leAt c.payload (4 * k) 4)
      x.sprinkleOutcome t i false e (sprinkleDigest words == e.digest && c.hdr == sent)

/-- A target counts toward coverage: the spare while unused, the stand-in while FREE (R367). -/
def Chip.covered (c : Chip) (t : TileIx) (n : Nat) : Bool :=
  if n = 0x100 then (c.tileMap t).spareIx.isSome && (c.tileArr t).move.isNone
  else if n = 0x101 then (c.tileArr t).standin.state == .free
  else true

/-- SPRINKLE_COVERAGE (R367): a count reaches 4,096 passes and restarts. -/
def execSprinkleCoverage (t : TileIx) (target : Nat) (s : State) : Result :=
  s.onDevice fun c =>
    let base := ((c.spk.cover.find? fun x => x.1 == t && x.2.1 == target).map fun x => x.2.2).getD 0
    if !c.covered t target || decide ((c.spk.begun - base).toNat < 4096) then c
    else
      let c := { c with spk := { c.spk with
        cover := (t, target, c.spk.begun) :: c.spk.cover.filter fun x => !(x.1 == t && x.2.1 == target) } }
      c.tally Src.sprinkleCoverage (c.sprinkleDetail t target)

/-- `x` lies in the closed interval of two FP32 bounds times `n` (R222, R363). -/
def inEnvelope (lo hi : BitVec 32) (x : Dy) (n : Nat) : Bool :=
  match dyOf32 lo, dyOf32 hi with
  | some a, some b => (Dy.mul a ⟨n, 0⟩).le x && x.le (Dy.mul b ⟨n, 0⟩)
  | _, _ => true

/-- The values of a closed window that lie outside their intervals: minimum, maximum, mean (R363). -/
def Monitor.outside (m : Monitor) (e : Envelope) : Nat :=
  bit (!inEnvelope e.minLo e.minHi ⟨m.min, -24⟩ 1) + bit (!inEnvelope e.maxLo e.maxHi ⟨m.max, -24⟩ 1)
    + bit (!inEnvelope e.meanLo e.meanHi ⟨m.sum, -24⟩ m.count)

/-- STAT_WINDOW_CLOSE (R363): after 1,024 passes the three values are compared and the quantities reset. -/
def execStatWindowClose (t : TileIx) (target : Target) (layer : BitVec 14) (s : State) : Result :=
  s.onDevice fun c =>
    let fits := fun (m : Monitor) => m.tile == t && m.target == target && m.layer == layer
    match c.arr.monitors.find? fits with
    | none => c
    | some m =>
      if m.passes < 1024 then c
      else
        let env := c.rcp.active.bind fun r => r.integrity.envelopes.find? fun e =>
          e.tile == t && e.target == target && e.layer == layer && e.enabled
        let n := (env.map m.outside).getD 0
        let c := { c with arr := { c.arr with monitors := c.arr.monitors.filter fun x => !fits x } }
        (List.range n).foldl (fun (c : Chip) _ =>
          c.raiseTarget Src.statEnvelope (tileDetail t (targetCode target) layer.toNat) t target none) c

/-- STANDIN_HOLD_TIMEOUT (R382): a target still held FLT_CTL.HOLD_US after its order. -/
def execStandinHoldTimeout (t : TileIx) (target : Target) (s : State) : Result :=
  s.onDevice fun c =>
    if target ∈ (c.tileArr t).held then
      c.raiseTarget Src.standinHold (tileDetail t (targetCode target) 0) t target none
    else c

/-- BEAT_HANDSHAKE_TIMEOUT (R388): an admitted beat whose handshake does not end in 2 µs: BEAT_TIMEOUT names it, its
partials are POISON, and its target goes to the stand-in by the source's action. -/
def execBeatHandshakeTimeout (t : TileIx) (a : ArrRef) (s : State) : Result :=
  s.onDeviceBoth fun x =>
    match x.1.arrOp t a with
    | some (.beat b) =>
      let c := x.1.endBeat t a
      let c := (List.range (WFmt.perRow b.fmt)).foldl (fun (c : Chip) j => c.addAcc t (b.acc.toNat + j) b.pass 0 true) c
      settleRequests (c.raiseTarget Src.beatTimeout (tileDetail t (targetCode b.name) b.layer.toNat) t b.target (some b.pass), x.2)
    | _ => x

end Sys2Proof.Machine
end

