-- ==== Sys2Proof/Machine/LinkCfgCmds.lean ====
section
/-! DEFINITION. Link commands: port figures, virtual links and areas, the KV restore and the return (R337, R340, R352 to R359):
meanings. The parameter layouts are the model's own (log entry 11). -/

namespace Sys2Proof.Machine

/-- SV_LINK_QUERY (R355 to R357, R469): STAT, CNT and CTL of the eight ports. -/
def execSvLinkQuery (q : QueueIx) (ok : Bool) (s : State) : Result :=
  s.onChip fun c => c.withCommand q 0x0A00 fun e =>
    let bytes := (List.range 8).flatMap fun p => ([0, 8, 0x10] : List Nat).flatMap fun o => leBytes 8 (regOpt c (0x40 * p + o)).toNat
    c.writeHost q (cmdField e 8 8) bytes ok 0

/-- Map an axis port to a virtual link of a spine port, or unmap it (R352): the link trains anew. -/
def Chip.setVirtual (c : Chip) (p : PortIx) (to' : Option (PortIx × Byte)) : Chip :=
  let c := c.portDown p
  let c := c.modPort p fun x => { x with
    vlink := to', isVirtual := to'.isSome, retryWait := false, light := match to' with
      | some y => (c.port y.1).isUp
      | none => x.light }
  c.startTraining p

/-- SV_LINK_CONFIG (R337, R340, R352, R354): byte 8 says what is set. 0: byte 9 the axis port, byte 10 the spine port (0 none),
byte 11 the virtual-link number; 1: byte 9 the axis port, offset 16 its custody area; 2: offset 16 the mirror region;
3: offset 12 the mask of tunnel queues. -/
def execSvLinkConfig (q : QueueIx) (s : State) : Result :=
  s.onChip fun c => c.withCommand q 0x0A02 fun e =>
    let v := cmdField e
    let p : PortIx := BitVec.ofNat 3 (v 9 1)
    let addr := v 16 8
    match v 8 1 with
    | 0 =>
      let spine := v 10 2 % 256
      if decide (6 ≤ v 9 1) || !(spine == 0 || spine == 6 || spine == 7) || (spine != 0 && v 10 2 / 256 == 0) then c.complete q 4 0 0
      else
        (c.setVirtual p (if spine = 0 then none else some (BitVec.ofNat 3 spine, BitVec.ofNat 8 (v 10 2 / 256)))).succeed q 0
    | 1 =>
      if decide (6 ≤ v 9 1) || decide (farSize < addr + 16 * mib) then c.complete q 4 0 0
      else (c.modPort p fun x => { x with custodyArea := some addr }).succeed q 0
    | 2 =>
      if farSize < addr + 128 * mib then c.complete q 4 0 0
      else ({ c with opt := { c.opt with mirrorBase := some addr } } : Chip).succeed q 0
    | 3 =>
      if 16 ≤ v 12 4 then c.complete q 4 0 0
      else ({ c with opt := { c.opt with tunnelQueues := BitVec.ofNat 4 (v 12 4) } } : Chip).succeed q 0
    | _ => c.complete q 4 0 0

/-- SV_KV_RESTORE (R353 step 4): the copies start, and B forwards what it writes; the command completes with the copies. -/
def execSvKvRestore (q : QueueIx) (s : State) : Result :=
  s.onChip fun c => c.withCommand q 0x0A03 fun _ =>
    if (c.mq q).commit then c else ({ c with opt := { c.opt with restoring := true } } : Chip).commit q

/-- The pages of the mirrored page tables that hold a descriptor: table index and descriptor (R340). -/
def mirroredPages (far : List Host.Cell) (base : Nat) : List (Nat × Nat) :=
  let cells := far.filter fun x => decide (base ≤ x.1) && decide (x.1 < base + 128 * mib)
  ((cells.map fun x => (x.1 - base) / 4).eraseDups).map fun i => (i, leNat (farRead far (base + 4 * i) 4))

/-- The copies of R353 step 4: the lost slice's mirror frames through the mirrored page tables, and B's own pages. -/
def restoreCopies (x : Both) : List Output :=
  let to' := [x.1.buddyPort].filter fun p => (x.1.port p).isUp
  let lost := match x.1.opt.mirrorBase with
    | some base =>
      let pairs := (x.1.servingRecipe.map fun r => r.placement.pairs.length).getD 0
      (mirroredPages x.2 base).map fun p =>
        let at' := base + 128 * mib + (if isFrame p.2 then pairs + frameNo p.2 else pairNo p.2) * frameBytes
        Output.rack to' (.kvCopy true (p.1 / 8192) (p.1 % 8192) p.2 (farRead x.2 at' frameBytes))
    | none => []
  lost ++ x.1.serve.owned.map fun p =>
    .rack to' (.kvCopy false p.1.toNat p.2.1 p.2.2 ((pageRows x p.2.2).flatMap fun r => leBytes 128 r.toNat))

/-- KV_RESTORE_COMPLETE (R353): the copies are made and the restore reports complete. -/
def execKvRestoreComplete (s : State) : Result :=
  s.onBoth fun c far =>
    match c.queueOf 0x0A03 with
    | some q =>
      if (c.mq q).commit then
        (((c.emits (restoreCopies (c, far))).tell [c.buddyPort] .restored).complete q 0 0 0, far)
      else (c, far)
    | none => (c, far)

/-- SV_RETURN_ARM (R353 step 5): R lies at least 65,536 passes ahead. -/
def execSvReturnArm (q : QueueIx) (s : State) : Result :=
  s.onChip fun c => c.withCommand q 0x0A04 fun e =>
    let r : Pass := BitVec.ofNat 32 (cmdField e 8 4)
    if c.rcp.begun && !inRange 65536 (2 ^ 31 - 1) (r - c.rcp.lastPass).toNat then c.complete q 4 0 0
    else
      let tkState := if c.opt.tkState = 3 then 4 else c.opt.tkState
      ({ c with opt := { c.opt with returnAt := some r, tkState } } : Chip).succeed q 0

end Sys2Proof.Machine
end

