-- ==== Sys2Proof/Machine/LinkCmds.lean ====
section
/-! DEFINITION. The rows of a port's link (R318 to R334): training, crumb blocks and retry, lanes, loss. -/

namespace Sys2Proof.Machine

/-- The port opposite to an axis port (R327). -/
def oppositePort (p : PortIx) : PortIx := p ^^^ 1

/-- LIGHT_DETECT (R324, R326). -/
def execLightDetect (p : PortIx) (s : State) : Result :=
  s.onDevice fun c =>
    if (c.port p).state = .disabled then c else (c.modPort p fun x => { x with light := true }).startTraining p

/-- An axis port's peer is the one R315 names (R327); a spine port performs no check. A spare's position counts as the one
it has been assigned. -/
def Chip.peerMatches (c : Chip) (p : PortIx) (b : TrainInfo) : Bool :=
  !isAxis p || (c.sys.posValid && (posOfWire b.position).extractLsb' 0 8 == (stepPos c.sys.position p).extractLsb' 0 8
    && b.port == oppositePort p)

/-- Detail of LINK_WIRING (R521): this port, the peer's port and position found. -/
def wiringDetail (p : PortIx) (b : TrainInfo) : BitVec 32 :=
  BitVec.ofNat 32 (p.toNat + place 4 3 b.port.toNat + place 8 9 (posOfWire b.position).toNat)

/-- OPT_PORTn_STAT.PEER_PART of a PART code (R319, R355). -/
def peerPartOf (part : Byte) : BitVec 2 := if part = 1 then 1 else if part = 2 then 2 else 0

/-- The port is UP: LSEQ 0 both ways, IDLE sent; with both Z ports up the detour of the Z regions ends (R326, R341). A spare that
holds a lost position by a virtual link lets the entry group start passes again (R351, R352). -/
def Chip.linkUp (c : Chip) (p : PortIx) : Chip :=
  let c := c.modPort p fun x => { x with
    state := .up, laneMap := 0xFF, phase := 0, txSeq := 0, rxSeq := 0, retrying := 0, sent := [], lastRetry := none
    laneTo := none, laneAsk := false, splice := false, synth := [], sinceIdle := 0 }
  let c := if (c.port 4).isUp && (c.port 5).isUp then c.setDetour false else c
  let c := if (c.port p).isVirtual && c.opt.lost.contains (stepPos c.sys.position p) then
    c.modServe fun v => { v with stopped := false } else c
  (c.sendIdle p).advanceMesh

/-- The virtual links of a spine port that is up train (R352). -/
def Chip.trainVirtual (c : Chip) (p : PortIx) : Chip :=
  if isAxis p then c
  else allPorts.foldl (fun c q => if (c.port q).vlink.any fun v => v.1 == p then
    (c.modPort q fun x => { x with light := true }).startTraining q else c) c

/-- One step of training that a block of the peer allows (R326 to R328). -/
def Chip.trainStep (c : Chip) (p : PortIx) (b : TrainInfo) : Chip :=
  let x := c.port p
  match x.phase.toNat with
  | 0 => if b.lanes = 0xFF then (c.modPort p fun x => { x with phase := 1 }).sendTrain p 1 else c
  | 1 =>
    if b.phase = 0 then c
    else if !c.peerMatches p b then
      if x.wiring then c else (c.modPort p fun x => { x with wiring := true }).tally Src.linkWiring (wiringDetail p b)
    else
      let v := min 2 b.highVer.toNat
      if max 1 b.lowVer.toNat ≤ v then
        (c.modPort p fun x => { x with
          phase := 2, version := BitVec.ofNat 4 v, peerPart := peerPartOf b.part
          peer := if isAxis p then posOfWire b.position else 0 }).sendTrain p 2
      else c
  | 2 =>
    if 2 ≤ b.phase.toNat && b.agreed.toNat == x.version.toNat then
      (c.modPort p fun x => { x with phase := 3, delayNs := b.delayNs }).sendTrain p 3
    else c
  | _ => if b.phase = 3 then (c.linkUp p).trainVirtual p else c

/-- TRAIN_BLOCK (R325 to R328). -/
def execTrainBlock (p : PortIx) (b : TrainInfo) (s : State) : Result :=
  s.onDevice fun c => if (c.port p).state = .training then c.trainStep p b else c

/-- TRAINING_TIMEOUT (R326). -/
def execTrainingTimeout (p : PortIx) (s : State) : Result := s.onDevice fun c => c.endTraining p

/-- TRAINING_RETRY (R326): the 100 ms after a failed attempt are over. -/
def execTrainingRetry (p : PortIx) (s : State) : Result :=
  s.onDevice fun c => (c.modPort p fun x => { x with retryWait := false }).startTraining p

/-- Crumbs of this pass that the region still discards (R343 item 4). -/
def Chip.skips (c : Chip) (p : Pass) : Bool := match c.opt.skip with
  | some (q, n) => q == p && decide (0 < n)
  | none => false

/-- The entry mirror's copy of an entry crumb (R343 item 2). -/
def Chip.mirrorEntry (c : Chip) (q : PortIx) (k : Crumb) : Chip :=
  match c.opt.mirrorFrom with
  | some m =>
    if passBefore k.hdr.pass m then c
    else c.transmitZ c.buddyPort (zRoute (field (buddyPos c.sys.position).toNat 0 2) q.toNat true false) (crumbBytes k)
  | none => c

/-- A crumb delivered by a link goes where ROUTE names (R321, R341, R343). -/
def Chip.deliver (c : Chip) (p : PortIx) (route : Byte) (k : Crumb) : Chip :=
  let r := route.toNat
  let routed := isZ p && (c.port p).version != 1
  if routed && field r 0 2 != c.posZ then c.transmitZ (otherZ p) route (crumbBytes k)
  else
    let q : PortIx := if routed then BitVec.ofNat 3 (field r 2 3) else p
    if !custodyKind k.hdr.kind || some q != c.entryPort then c.emit (.region q k)
    else if hasFlag k flagReplay && c.opt.mirrorFrom.isSome && p == q then
      -- a replay for the buddy passes through (R343 item 3)
      c.transmitZ c.buddyPort (zRoute (field (buddyPos c.sys.position).toNat 0 2) q.toNat true false) (crumbBytes k)
    else if c.skips k.hdr.pass then
      { c with opt := { c.opt with skip := c.opt.skip.map fun (x : BitVec 32 × Nat) => (x.1, x.2 - 1) } }
    else
      let n := c.entered k.hdr.pass + 1
      let c := { c with fab := { c.fab with
        entered := (c.fab.entered.filter fun (x : Pass × Nat) => x.1 != k.hdr.pass) ++ [(k.hdr.pass, n)]
        -- the pass's first crumb on the entry port starts its measured part (R187)
        latStart := if c.fab.latStart.any fun (x : Pass × BitVec 64) => x.1 == k.hdr.pass then c.fab.latStart
          else c.fab.latStart ++ [(k.hdr.pass, c.tick.count)] } }
      (if p = q then c.mirrorEntry q k else c).emit (.region q k)

/-- Ask once for the missing LSEQ; a version-1 link goes DOWN instead (R323, R328). -/
def Chip.askRetry (c : Chip) (p : PortIx) : Chip :=
  let x := c.port p
  if x.version = 1 then c.portDown p
  else if 0 < x.retrying then c
  else (c.modPort p fun x => { x with retrying := 1 }).sendRetry p x.rxSeq

/-- LSEQ `a` lies ahead of `b`. -/
def seqAhead (a b : BitVec 16) : Bool := a != b && decide ((a - b).toNat < 0x8000)

/-- The port whose stream a block of a spine port carries: ROUTE names a virtual link (R352). -/
def Chip.streamPort (c : Chip) (p : PortIx) (route : Byte) : Option PortIx :=
  if isAxis p || route = 0 then some p else allPorts.find? fun q => (c.port q).vlink == some (p, route)

/-- A CRUMB block decoded (R323). -/
def Chip.takeBlock (c : Chip) (p : PortIx) (bs : List Byte) (fixed : Bool) : Chip :=
  if bs.headD 0 ≠ crumbType then c
  else
    let route := bs.getD 1 0
    match c.streamPort p route with
    | none => c
    | some q =>
      let x := c.port q
      let c := if fixed then c.modPort q fun x => { x with fecCorr := satAdd x.fecCorr 1 } else c
      let lseq := BitVec.ofNat 16 (leAt bs 2 2)
      if !x.isUp then c
      else if lseq = x.rxSeq then
        (c.modPort q fun x => { x with rxSeq := x.rxSeq + 1, retrying := 0 }).deliver q route (crumbOf (bytesAt bs 4 80))
      else if seqAhead lseq x.rxSeq then c.askRetry q
      else c

/-- CRUMB_BLOCK (R318 to R323, R341, R343): a block of 96 bytes as received. -/
def execCrumbBlock (p : PortIx) (bytes : List Byte) (s : State) : Result :=
  s.onDevice fun c =>
    if !(c.port p).isUp then c
    else match readBlock bytes with
      | none => c.askRetry p
      | some (bs, fixed) => c.takeBlock p bs fixed

/-- The link gives up (R323). -/
def Chip.retryExhausted (c : Chip) (p : PortIx) : Chip := (c.tally Src.linkRetryExhausted (c.portDetail p 0)).portDown p

/-- RETRY_BLOCK (R323): resend from the named LSEQ; one no longer held, or a fifth RETRY in a row for it, takes the port
DOWN. -/
def execRetryBlock (p : PortIx) (lseq : BitVec 16) (s : State) : Result :=
  s.onDevice fun c =>
    let x := c.port p
    if !x.isUp || x.version = 1 then c
    else
      let row := match x.lastRetry with
        | some (l, n) => if l = lseq then n + 1 else 1
        | none => 1
      let c := (c.modPort p fun x => { x with retries := satAdd x.retries 1, lastRetry := some (lseq, row) }).tally Src.linkRetry
        (c.portDetail p 0)
      let out := x.vlink.getD (p, 0)
      let again := x.sent.dropWhile fun y => y.1 != lseq
      if 4 < row || (again.isEmpty && lseq != x.txSeq) then c.retryExhausted p
      else again.foldl (fun c y =>
        c.emit (.link out.1 (.crumb y.1 (linkBlock crumbType (if x.vlink.isSome then out.2 else y.2.headD 0) y.1 (y.2.drop 1))))) c

/-- RETRY_REPEAT (R323): every 1 µs while the LSEQ is missing; after four without progress the port goes DOWN. -/
def execRetryRepeat (p : PortIx) (s : State) : Result :=
  s.onDevice fun c =>
    let x := c.port p
    if !x.isUp || x.retrying = 0 then c
    else if 4 ≤ x.retrying then c.retryExhausted p
    else (c.modPort p fun x => { x with retrying := x.retrying + 1 }).sendRetry p x.rxSeq

/-- IDLE_BLOCK (R319, R322, R323, R326, R333): its LSEQ shows a CRUMB block that has not come. -/
def execIdleBlock (p : PortIx) (b : IdleInfo) (s : State) : Result :=
  s.onDevice fun c =>
    let alive := b.status.getLsbD 0
    if (c.port p).state = .disabled then c
    else
      let c := c.modPort p fun x => { x with peerAlive := alive }
      if !alive then (c.portDown p).endTraining p
      else if (c.port p).isUp && seqAhead b.lseq (c.port p).rxSeq then c.askRetry p
      else c

/-- IDLE_TIMEOUT (R333): no valid IDLE for 200 ns. -/
def execIdleTimeout (p : PortIx) (s : State) : Result := s.onDevice fun c => c.portDown p

/-- HALT_BLOCK (R326, R333, R334). -/
def execHaltBlock (p : PortIx) (_reason : Byte) (s : State) : Result := s.onDevice fun c => (c.portDown p).endTraining p

/-- LIGHT_LOSS (R326, R333). -/
def execLightLoss (p : PortIx) (s : State) : Result :=
  s.onDevice fun c => ((c.modPort p fun x => { x with light := false }).portDown p).endTraining p

/-- Ask the peer for a lane map (R330, R332). -/
def Chip.askLanes (c : Chip) (p : PortIx) (map : BitVec 8) : Chip :=
  (c.modPort p fun x => { x with laneTo := some map, laneAsk := true }).sendLanemap p map 0

/-- LANE_FAULT (R328 to R330): one lane leaves; a second one, or two within one switch, takes the port DOWN. -/
def execLaneFault (p : PortIx) (lane : BitVec 3) (s : State) : Result :=
  s.onDevice fun c =>
    let x := c.port p
    if !x.isUp || !x.laneMap.getLsbD lane.toNat then c
    else if x.version = 1 || x.state = .degraded then c.portDown p
    else match x.laneTo with
      | some m => if m.getLsbD lane.toNat then c.portDown p else c
      | none => c.askLanes p (x.laneMap &&& ~~~(1#8 <<< lane.toNat))

/-- Lanes of a map. -/
def laneCount (m : BitVec 8) : Nat := ((List.range 8).filter fun i => m.getLsbD i).length

/-- LANEMAP_BLOCK (R319, R330, R332). -/
def execLanemapBlock (p : PortIx) (map : BitVec 8) (phase : Byte) (_lseq : BitVec 16) (s : State) : Result :=
  s.onDevice fun c =>
    let x := c.port p
    if !x.isUp || x.version = 1 then c
    else if phase = 0 then
      -- one lane fewer than 8, or all 8 again, can be agreed; anything else is a second lane
      if decide (laneCount map < 7) || (x.state == .degraded && map != 0xFF && map != x.laneMap)
          || (x.state == .up && map != 0xFF && x.laneTo.any fun m => m != map) then c.portDown p
      else (c.modPort p fun x => { x with laneTo := some map, laneAsk := false }).sendLanemap p map 1
    else if x.laneTo ≠ some map then c
    else if (phase = 1 && x.laneAsk) || (phase = 2 && !x.laneAsk) then
      (c.sendLanemap p map 2).switchLanes p map
    else c

/-- LANEMAP_REPEAT (R330): every 100 ns until the request is answered. -/
def execLanemapRepeat (p : PortIx) (s : State) : Result :=
  s.onDevice fun c =>
    match (c.port p).laneTo with
    | some m => if (c.port p).laneAsk then c.sendLanemap p m 0 else c
    | none => c

/-- LANE_REINSTATE (R332): the failed lane's light and lock have been back for 10 ms. -/
def execLaneReinstate (p : PortIx) (lane : BitVec 3) (s : State) : Result :=
  s.onDevice fun c =>
    let x := c.port p
    if c.opt.autoReinstate && x.state == .degraded && !x.laneMap.getLsbD lane.toNat && x.laneTo.isNone then c.askLanes p 0xFF
    else c

end Sys2Proof.Machine
end

