-- ==== Sys2Proof/Machine/LoadCmds.lean ====
section
/-! DEFINITION. Keys, weight plans, chunks, epoch arms, buddy notices (R230 to R268, R475): meanings. -/

namespace Sys2Proof.Machine

/-- Steps 1 to 5 of R242 on a blob of R241 under the weight-signing key: the key it wraps. -/
def Chip.unwrapKey (c : Chip) (blob : List Byte) (info : String) : Option (List Byte) :=
  match c.boot.owner[2], c.boot.keyNonce with
  | some signer, some nonce =>
    let n := leBytes 16 nonce.toNat
    if !c.sys.posValid || !c.boot.ktEnabled || blob.length != 340
        || !ecdsaVerify signer (sha384 (blob.take 244 ++ n)) (bytesAt blob 244 96) then none
    else match ecdh (derivedKey "FQP2-KTK") (bytesAt blob 0 97) with
      | none => none
      | some z =>
        let kek := hkdf384 n z (ascii info ++ bytesAt blob 97 1 ++ c.posBytes) 32
        gcmDecrypt kek (List.replicate 12 0) (blob.take 196) (bytesAt blob 196 32) (bytesAt blob 228 16)
  | _, _ => none

/-- The key nonce has served (R242, R476). -/
def Chip.dropNonce (c : Chip) : Chip := { c with boot := { c.boot with keyNonce := none } }

/-- A load command is rejected with a code of R266. -/
def Chip.rejectLoad (c : Chip) (q : QueueIx) (code : Nat) : Chip :=
  (c.modLoad fun l => { l with lastReject := BitVec.ofNat 4 code }).reject q code

/-- Step 6 of R242: the key slot a blob's epoch fills; `false` the active one's, `true` the incoming one's. -/
def Chip.keySlot (c : Chip) (w : Byte) : Option Bool :=
  let l := c.load
  if (l.active.map (·.wepoch)) = some w then (if l.keyActive.isNone then some false else none)
  else
    let after := match l.active with
      | some e => epochAfter w e.wepoch
      | none => true
    let free := match l.incoming with
      | none => true
      | some (e, _, .loading) => e.wepoch == w
      | some _ => false
    if after && free && l.old.isNone then some true else none

/-- SV_KEY_INSTALL (R241, R242, R509). -/
def execSvKeyInstall (q : QueueIx) (blob : Option (List Byte)) (s : State) : Result :=
  s.onChip fun c => c.withCommand q 0x0201 fun _ =>
    if !c.boot.idOk then c.reject q 1
    else match blob with
    | none => c.hostFetchFailed q
    | some b =>
      match c.unwrapKey b "FQP2-WKEY" with
      | none => c.rejectLoad q 13
      | some key =>
        let k : ContentKey := { wepoch := BitVec.ofNat 8 (leAt b 97 1), key, layout := bytesAt b 100 48, digest := bytesAt b 148 48 }
        match c.keySlot k.wepoch with
        | none => c.rejectLoad q 14
        | some incoming =>
          ((c.modLoad fun l => if incoming then { l with keyIncoming := some k } else { l with keyActive := some k }).dropNonce).succeed q 0

/-- SV_PREFIX_KEY (R475). -/
def execSvPrefixKey (q : QueueIx) (blob : Option (List Byte)) (s : State) : Result :=
  s.onChip fun c => c.withCommand q 0x0320 fun _ =>
    match blob with
    | none => c.hostFetchFailed q
    | some b =>
      if !(allZero (bytesAt b 97 1) && allZero (bytesAt b 100 96)) then c.complete q 4 0 0
      else match c.unwrapKey b "FQP2-PKEY" with
        | none => c.authFailed q
        | some key => ((c.modServe fun v => { v with prefixKey := some key }).dropNonce).succeed q 0

/-- The epoch digest of a plan (R236). -/
def planDigest (p : List Byte) : List Byte :=
  let flags := BitVec.ofNat 8 (leAt p 7 1) &&& 0xFD
  let table := (List.range (leAt p 12 4)).flatMap fun i => bytesAt p (8320 + 64 * i + 8) 56
  sha384 (p.take 7 ++ [flags] ++ bytesAt p 8 56 ++ bytesAt p 128 8192 ++ table)

/-- A plan's header is valid (R233, R266 code 1), the position and the image area apart. -/
def planHeaderOk (p : List Byte) : Bool :=
  leAt p 0 4 == 0x4E414C50 && leAt p 4 2 == 1 && decide (leAt p 7 1 < 4) && leAt p 11 1 == 0 && inRange 1 8192 (leAt p 12 4)
    && allZero (bytesAt p 72 56) && p.length == 8320 + 64 * leAt p 12 4

/-- A slice is fetching the chunk. -/
def ChunkState.isFetching (x : ChunkState) : Bool := match x with
  | .fetching _ => true
  | .waiting | .authenticated | .failed _ => false

/-- A chunk-table entry (R234): a role or reserved byte out of range makes the chunk invalid. -/
def chunkOf (p : List Byte) (i : Nat) : ChunkRec :=
  let v := fun o n => leAt p (8320 + 64 * i + o) n
  let ok := inRange 1 5 (v 12 1) && v 13 3 == 0
  { addr := BitVec.ofNat 64 (v 0 8), len := v 8 4, role := v 12 1, hash := bytesAt p (8320 + 64 * i + 16) 48
    state := if ok then .waiting else .failed 2 }

/-- The entry describes the image that the chunk holds already. -/
def ChunkRec.same (o n : ChunkRec) : Bool := o.role == n.role && o.len == n.len && o.hash == n.hash

/-- A new plan keeps the chunks that are already authenticated (R245): those whose entry describes the same image at the same
slot (DEDUCED, log entry 49). -/
def mergeChunks (old : Plan) (area : Nat) (new : List ChunkRec) : List ChunkRec :=
  new.zipIdx.map fun x => match old.chunks[x.2]? with
    | some o => if o.state = .authenticated && old.area == area && o.same x.1 then { o with addr := x.1.addr } else x.1
    | none => x.1

/-- The chunks of an accepted plan after those of the plan it replaces. -/
def planChunks (b : List Byte) (old : Option Plan) : List ChunkRec :=
  let new := (List.range (leAt b 12 4)).map (chunkOf b)
  match old with
  | some p => mergeChunks p (leAt b 64 8) new
  | none => new

/-- A plan is taken up (R243, R245): each chunk invalid at once raises CHUNK_FAILED, the fetches start. -/
def Chip.startFetches (c : Chip) (p : Plan) : Chip :=
  (p.chunks.zipIdx.foldl (fun c x =>
    if x.1.state.isFailed then c.tally Src.chunkFailed (BitVec.ofNat 32 x.2) else c) c).pumpFetches

/-- The epoch an accepted plan describes (R230, R233). -/
def planEpoch (b : List Byte) (bank : Bool) : Epoch :=
  { wepoch := BitVec.ofNat 8 (leAt b 6 1), bank, digest := planDigest b, layout := bytesAt b 16 48, buddyOff := bitAt (leAt b 7 1) 0 }

/-- The image area lies within far memory and clear of the other held epoch's (R237, R243). -/
def Chip.areaOk (c : Chip) (b : List Byte) (resume : Bool) : Bool :=
  let base := leAt b 64 8
  let top := base + leAt b 12 4 * mib
  let clear := fun (p : Option Plan) => match p with
    | some x => !overlaps base top x.area x.areaEnd
    | none => true
  base % mib == 0 && decide (top ≤ farSize)
    && (if resume then clear (c.load.incoming.map fun x => x.2.1) else clear c.load.activePlan)

/-- Accept a RESUME plan (R264). On an epoch that is live already it only fetches what is not authenticated. -/
def Chip.acceptResume (c : Chip) (b : List Byte) : Chip :=
  let p : Plan := { area := leAt b 64 8, smap := bytesAt b 128 8192, chunks := planChunks b c.load.activePlan, resume := true,
                    initial := false }
  (c.modLoad fun l => { l with
    activePlan := some p, state := if l.activeLive then l.state else 5, resumeStep := 0, retries := 0 }).startFetches p

/-- Accept a plan for an incoming epoch, initial or not (R243, R258, R261). A plan sent again for an epoch that is LOADING
replaces what it describes. -/
def Chip.acceptPlan (c : Chip) (b : List Byte) (initial : Bool) : Chip :=
  let bank := match c.load.active with
    | some a => !initial && !a.bank
    | none => false
  let old := c.load.incoming.map fun x => x.2.1
  let p : Plan := { area := leAt b 64 8, smap := bytesAt b 128 8192, chunks := planChunks b old, resume := false, initial }
  let e := planEpoch b bank
  let c := c.modLoad fun l => { l with incoming := some (e, p, .loading), state := 1, retries := 0 }
  let c : Chip := if initial then
      c.modLoad fun l => { l with active := none, activePlan := none, activeLive := false, keyActive := none, goldenOk := false
                                  rebuildPending := false, buddyOk := false }
    else if old.isSome then c
    else (c.modLoad fun l => { l with buddyOk := false, rebuilt := false }).tell [c.buddyPort] .buddyClear
  c.startFetches p

/-- SV_WEIGHT_PLAN (R233 to R237, R243, R261, R264, R266). -/
def execSvWeightPlan (q : QueueIx) (plan : Option (List Byte)) (s : State) : Result :=
  s.onChip fun c => c.withCommand q 0x0203 fun e =>
    match plan with
    | none => c.hostFetchFailed q
    | some bytes =>
      let b := bytes.take (cmdField e 16 4)
      let w := BitVec.ofNat 8 (leAt b 6 1)
      let resume := bitAt (leAt b 7 1) 1
      let l := c.load
      let digest := planDigest b
      let key := if resume then l.keyActive else l.keyIncoming
      let initial := l.active.isNone || bitAt (leAt b 7 1) 0 || l.active.any (·.buddyOff)
      let other := match l.incoming with
        | some (x, _, .loading) => resume || x.wepoch != w
        | some _ => true
        | none => false
      if !planHeaderOk b || b.length != cmdField e 16 4 then c.rejectLoad q 1
      else if !c.sys.posValid || bytesAt b 8 3 != c.posBytes then c.rejectLoad q 2
      else if resume && !(l.active.any fun a => a.wepoch == w && a.digest == digest) then c.rejectLoad q 7
      else if !(key.any fun k => k.wepoch == w && k.digest == digest && k.layout == bytesAt b 16 48) then c.rejectLoad q 3
      else if !c.areaOk b resume then c.rejectLoad q 4
      else if !resume && initial && c.rcp.begun then c.rejectLoad q 5
      else if other || l.old.isSome then c.rejectLoad q 6
      else (if resume then c.acceptResume b else c.acceptPlan b initial).succeed q 0

/-- SV_PLAN_QUERY (R245): state and failed chunks with their causes, in a layout of the model's own (log entry 11). -/
def execSvPlanQuery (q : QueueIx) (ok : Bool) (s : State) : Result :=
  s.onChip fun c => c.withCommand q 0x0204 fun e =>
    let p := match c.load.incoming with
      | some x => some x.2.1
      | none => c.load.activePlan
    let bad := ((p.map (·.chunks)).getD []).zipIdx.filterMap fun x => match x.1.state with
      | .failed n => some (x.2, n)
      | _ => none
    let bytes := leBytes 4 c.load.state.toNat ++ leBytes 4 bad.length ++ bad.flatMap fun x => leBytes 4 x.1 ++ leBytes 4 x.2
    c.writeHost q (cmdField e 8 8) bytes ok bad.length

/-- The segments of an incoming epoch's chunk stay clear of S-arrays that the active epoch reaches or that hold KV (R251). -/
def Chip.segsFree (c : Chip) (e : Epoch) (segs : List Seg) : Bool :=
  let incoming := (c.load.incoming.map fun x => x.1.wepoch) == some e.wepoch
  !incoming || c.load.activePlan.isNone || segs.all fun s =>
    !s.isS ||
      (let a : BitVec 3 := s.array.setWidth 3
       let smap := (c.load.activePlan.map (·.smap)).getD []
       !(([0, 1, 2, 3, 4, 5, 6, 7] : List (BitVec 3)).any fun n => smapOf smap s.tile n == a)
         && (c.pairOf s.tile a).isNone)

/-- GOLDEN_OK sets when every role-1, role-2 and role-5 chunk of the active epoch is authenticated (R253). -/
def Chip.settleGolden (c : Chip) : Chip :=
  if c.load.activeLive && c.load.activePlan.any Plan.goldenOk then c.modLoad fun l => { l with goldenOk := true } else c

/-- What the outcome of a fetch brings on (R243, R245, R249, R253, R264): further fetches, the plan's progress, and what
waited for the chunk. -/
def afterFetch (x : Both) : Both := settleRequests ((x.1.settleGolden.pumpFetches).planProgress, x.2)

/-- A corrupt image of a chunk (R244, R245): CHUNK_AUTH, and up to three re-fetches before the chunk fails. -/
def Chip.corruptChunk (c : Chip) (w : Byte) (i tries : Nat) : Chip :=
  let c := c.tally Src.chunkAuth (BitVec.ofNat 32 i)
  if tries < 3 then c.refetch w i (tries + 1) else c.failChunk w i 3

/-- An image has come for a chunk that is being fetched, and has been checked (R244, R245, R249, R251). -/
def Chip.chunkChecked (c : Chip) (e : Epoch) (p : Plan) (i : Nat) (r : ChunkRec) (found : ImageCheck) : Chip :=
  match found with
  | .good payload segs =>
    let incoming := (c.load.incoming.map fun y => y.1.wepoch) == some e.wepoch
    if !c.segsFree e segs then c.failChunk e.wepoch i 2
    else
      let c := c.modPlanOf e.wepoch fun p => p.modChunk i fun r => { r with state := .authenticated, segs }
      if incoming && (r.role != 2 || p.initial) then c.queueSegs e i r.role segs payload else c
  | .invalid => c.failChunk e.wepoch i 2
  | .corrupt => c.corruptChunk e.wepoch i r.tries

/-- The restorations of stand-ins that wait for a chunk's host image (R252). -/
def Chip.restoresOf (c : Chip) (w : Byte) (i : Nat) : List (Byte × Nat × TileIx × BitVec 3 × Nat) :=
  c.load.restores.filter fun x => x.1 == w && x.2.1 == i

/-- They wait no longer. -/
def Chip.dropRestores (c : Chip) (w : Byte) (i : Nat) : Chip :=
  c.modLoad fun l => { l with restores := l.restores.filter fun x => !(x.1 == w && x.2.1 == i) }

/-- A host image that a restoration waits for has come (R100, R252): its rows go to the stand-in; a corrupt one is fetched
again, up to three times (R245). -/
def Chip.restoreChecked (c : Chip) (w : Byte) (i : Nat) (r : ChunkRec) (found : ImageCheck) : Chip :=
  let waiting := c.restoresOf w i
  match found with
  | .good payload _ =>
    waiting.foldl (fun c x =>
      (r.segs.filter fun s => s.isS && s.tile == x.2.2.1 && s.array == x.2.2.2.1.setWidth 4).foldl (fun c s =>
        c.emitRows w s.tile 2 s.array.toNat 0 s.first (s.rowsOf payload)) c) (c.dropRestores w i)
  | .invalid => (c.dropRestores w i).tally Src.chunkFailed (BitVec.ofNat 32 i)
  | .corrupt =>
    let c := c.tally Src.chunkAuth (BitVec.ofNat 32 i)
    let again := waiting.filter fun x => decide (x.2.2.2.2 < 3)
    let c := c.dropRestores w i
    if again.isEmpty then c.tally Src.chunkFailed (BitVec.ofNat 32 i)
    else (c.modLoad fun l => { l with
        restores := l.restores ++ again.map fun x => (x.1, x.2.1, x.2.2.1, x.2.2.2.1, x.2.2.2.2 + 1)
        retries := satAdd l.retries 1 }).startFetch (.chunkFetch ((c.sliceOf i).getD 0) r.addr r.len)

/-- The image of a chunk is copied into its slot, as far as the slot reaches (R237, R244). -/
def copyImage (far : List Host.Cell) (p : Plan) (i : Nat) (image : List Byte) : List Host.Cell :=
  farWrite far (p.area + i * mib) (image.take mib)

/-- CHUNK_FETCH_DONE (R244, R245, R249, R251 to R253): the image of chunk `i` of a held epoch is copied into its slot and
authenticated. One that no fetch is out for changes nothing. -/
def execChunkFetchDone (wepoch : Byte) (i : Nat) (image : List Byte) (s : State) : Result :=
  s.onDeviceBoth fun x =>
    match x.1.epochPlan wepoch with
    | none => x
    | some (e, p, k) =>
      match p.chunks[i]? with
      | none => x
      | some r =>
        let found := checkImage x.1.posBytes e k.key i r image
        if r.state.isFetching then
          afterFetch (x.1.chunkChecked e p i r found, copyImage x.2 p i image)
        else if (x.1.restoresOf wepoch i).isEmpty then x
        else afterFetch (x.1.restoreChecked wepoch i r found, copyImage x.2 p i image)

/-- CHUNK_FETCH_TIMEOUT (R245): no complete image within 50 ms: the chunk is missing, without a further attempt. -/
def execChunkFetchTimeout (wepoch : Byte) (i : Nat) (s : State) : Result :=
  s.onDeviceBoth fun x =>
    match x.1.epochPlan wepoch with
    | none => x
    | some (_, p, _) =>
      match p.chunks[i]? with
      | none => x
      | some r =>
        if r.state.isFetching then afterFetch (x.1.failChunk wepoch i 1, x.2)
        else if (x.1.restoresOf wepoch i).isEmpty then x
        else afterFetch ((x.1.dropRestores wepoch i).tally Src.chunkFailed (BitVec.ofNat 32 i), x.2)

/-- SV_EPOCH_ARM (R254, R258, R266). -/
def execSvEpochArm (q : QueueIx) (s : State) : Result :=
  s.onChip fun c => c.withCommand q 0x0205 fun e =>
    let w : Pass := BitVec.ofNat 32 (cmdField e 8 4)
    let so : SoIx := BitVec.ofNat 13 (cmdField e 12 2)
    let uses := fun (r : Recipe) => r.desc.objects.any fun o => o.index == so
    let staged := c.stagedArmed.filter fun x => x.2 == w
    if c.armedSwitch.isSome || c.load.old.isSome then c.rejectLoad q 11
    else match c.load.incoming with
      | some (x, p, .complete) =>
        let fits := (c.rcp.active.any fun r => r.layout == x.layout) || staged.any fun y => y.1.layout == x.layout
        if !c.armRange w then c.rejectLoad q 9
        else if !fits then c.rejectLoad q 10
        else if c.rcp.active.any uses || staged.any fun y => uses y.1 then c.rejectLoad q 11
        else
          let c := c.modLoad fun l => { l with incoming := some (x, p, .armed w), drainSo := some so, switchPass := w }
          (c.soSet so 0 1024 3 false).succeed q 0
      | _ => c.rejectLoad q 8

/-- SV_EPOCH_DISARM (R254): the epoch is COMPLETE again, and the drain object OFF. -/
def execSvEpochDisarm (q : QueueIx) (s : State) : Result :=
  s.onChip fun c => c.withCommand q 0x0206 fun _ =>
    match c.load.incoming with
    | some (x, p, .armed _) =>
      let so := c.load.drainSo
      let c := c.modLoad fun l => { l with incoming := some (x, p, .complete), drainSo := none, switchPass := 0 }
      (match so with
        | some i => c.soClear i
        | none => c).succeed q 0
    | _ => c.reject q 0

/-- BUDDY_PROTECTION_CLEAR_NOTICE (R258): the buddy replaces its weights. -/
def execBuddyProtectionClearNotice (s : State) : Result :=
  s.onDevice fun c => c.modLoad fun l => { l with buddyOk := false, buddyNotice := false }

/-- BUDDY_REBUILD_NOTICE (R258): the buddy has completed its rebuild. -/
def execBuddyRebuildNotice (s : State) : Result :=
  s.onDevice fun c => (c.modLoad fun l => { l with buddyNotice := true }).settleBuddy

end Sys2Proof.Machine
end

