-- ==== Sys2Proof/Machine/LossCmds.lean ====
section
/-! DEFINITION. The rows of device loss and takeover (R343, R345 to R350): meanings. -/

namespace Sys2Proof.Machine

/-- PORT_DOWN_NOTICE (R341, R345): a new one goes on once around the Z ring and counts as a report; one about a Z link of the
group takes the Z regions into DETOUR. -/
def execPortDownNotice (p : PortIx) (position reporter : Pos) (s : State) : Result :=
  s.onDevice fun c =>
    if reporter = c.sys.position || (c.opt.reports.any fun r => r.1 == position && r.2.2 == reporter) then c
    else
      let mine := fun (q : Pos) => groupOf q == groupOf c.sys.position
      let c := if mine position && mine reporter then c.setDetour true else c
      (c.tell (if isZ p then [otherZ p] else [4, 5]) (.portDown position reporter)).report position reporter

/-- LOSS_REPORT_WINDOW (R345): 5 µs without a second report: link loss only. -/
def execLossReportWindow (position : Pos) (s : State) : Result :=
  s.onDevice fun c => { c with opt := { c.opt with reports := c.opt.reports.filter fun r => r.1 != position } }

/-- BUDDY_SECTION_LOADED (R347, R350): the section runs from the next pass boundary. -/
def execBuddySectionLoaded (s : State) : Result :=
  s.onDevice fun c =>
    if c.opt.tkState = 1 then
      { c with opt := { c.opt with tkState := 2, tkLoaded := true }, rcp := { c.rcp with fallbackNext := 1 } }
    else c

/-- TAKEOVER_ANNOUNCE (R347): T of the lost position's buddy. -/
def execTakeoverAnnounce (_position : Pos) (t : Pass) (s : State) : Result :=
  s.onDevice fun c => { c with opt := { c.opt with tkFirst := t } }

/-- TAKEOVER_LATE (R350): 50 µs after the loss the device does not serve yet. -/
def execTakeoverLate (s : State) : Result :=
  s.onDevice fun c => if c.opt.tkState = 1 || c.opt.tkState = 2 then c.tally Src.takeoverLate 0 else c

/-- MIRROR_REQUEST (R343): M is the first pass whose first entry crumb this device has not accepted; from M on it copies its
entry crumbs to its buddy, and its upstream hears of M. -/
def execMirrorRequest (oldest : Pass) (_count : Nat) (s : State) : Result :=
  s.onDevice fun c =>
    let m := c.fab.entered.foldl (fun m x => if passBefore x.1 m then m else x.1 + 1) oldest
    let c := { c with opt := { c.opt with mirrorFrom := some m } }
    (c.modPort c.buddyPort fun x => { x with mirrorOut := true }).tell c.entryPort.toList (.replayRequest m)

/-- A crumb of custody as it is replayed (R343, R348): POISON and FALLBACK where the lost buddy's mirror records of its pass
lack the last one. -/
def Chip.replayed (c : Chip) (pass : Pass) (bytes : List Byte) : List Byte :=
  let k := setFlag (crumbOf bytes) flagReplay
  let short := c.opt.lost.contains (buddyPos c.sys.position) && !c.opt.mirrorLast.contains pass
  crumbBytes (if short then setFlag (poisonCrumb k) flagFallback else k)

/-- CUSTODY_REPLAY_REQUEST (R343): every crumb of each pass before M that the downstream buddy has not acknowledged. -/
def execCustodyReplayRequest (p : PortIx) (m : Pass) (s : State) : Result :=
  s.onDevice fun c =>
    let x := c.port p
    if !x.isUp then c
    else
      let due := x.kept.filter fun k => passBefore k.1 m && x.custody.any fun y => y.1 == k.1 && !y.2.2
      due.foldl (fun c k => c.transmit p (k.2.headD 0) (c.replayed k.1 (k.2.drop 1))) c

end Sys2Proof.Machine
end

