-- ==== Sys2Proof/Machine/MeshCmds.lean ====
section
/-! DEFINITION. The rows of the data mesh, of window writes and of the host tunnel (R111, R153 to R179, R247, R335, R336,
R354): meanings. -/

namespace Sys2Proof.Machine

/-- MESH_CRUMB_ACCEPT (R155 to R157, R161 to R165, R204, R205, R337): `positions` is how many positions the crumb's pass has. -/
def execMeshCrumbAccept (t : TileIx) (from' : NodePort) (k : Crumb) (positions : Nat) (wrong : BitVec 704) (s : State) : Result :=
  s.onDevice fun c => c.meshAccept t from' k positions wrong

/-- MESH_HOP_TIMEOUT (R158): names the node and the port; the waiting crumb stays. -/
def execMeshHopTimeout (t : TileIx) (out : NodePort) (s : State) : Result :=
  s.onDevice fun c =>
    let held := nodePorts.findSome? fun p => ((firstPlain (c.inputReg t p)).orElse fun _ =>
      firstPrompt (c.inputReg t p)).map fun x => x.2.hdr.pass
    c.raise Src.meshHopTimeout { detail := tileDetail t (NodePort.index out) 0, pass := held }

/-- A tile takes up FLAGS of a crumb it consumes (R161). -/
def Chip.mark (c : Chip) (t : TileIx) (k : Crumb) : Chip := c.markFlags t k.hdr.pass (k.hdr.flags &&& 0xAD)

/-- A tile takes a data crumb of a pass: the checks of R205, R256 and R277, and its flags (R161). -/
def Chip.takeCrumb (c : Chip) (t : TileIx) (k : Crumb) : Chip × Crumb :=
  let r := c.passChecks t k (hasFlag k flagPoison)
  (r.1.mark t r.2, r.2)

/-- ACCUMULATOR_CRUMB (R59, R111, R161, R205): six accumulators of the payload are added exactly, in 2u. -/
def execAccumulatorCrumb (t : TileIx) (first : BitVec 11) (k : Crumb) (s : State) : Result :=
  s.onDevice fun c =>
    let r := c.takeCrumb t k
    let add := fun (c : Chip) (i : Nat) =>
      c.addAcc t (first.toNat + i) k.hdr.pass (BitVec.ofNat 80 (leAt k.payload (10 * i) 10)) (hasFlag r.2 flagPoison)
    ((List.range 6).foldl add r.1).emit (.duration 2)

/-- Where a weight-chunk crumb's row goes (R247). -/
inductive ChunkDest where
  | plane (j : PlaneJob)
  | sArray (a : Fin 9)
  | none
  deriving DecidableEq, Repr

/-- The write in progress that a weight-chunk crumb matches (R247): a plane write that has asked for the row (R249), a row of an
S-array that a load or a stream is still to write (R218, R249), or the stand-in that loads the target (R96). -/
def Chip.chunkDest (c : Chip) (t : TileIx) (k : Crumb) : ChunkDest :=
  let pos := k.hdr.pos.toNat
  let array := field pos 6 4
  let plane := field pos 4 2
  let row := field pos 11 9
  match field pos 2 2 with
  | 0 =>
    match c.arr.writes.find? fun j => j.running && j.why != .testPlane && j.tile == t && j.logical.toNat == array
        && j.rel.toNat == plane && j.wepoch == k.hdr.wepoch && row == j.done + j.rows.length && decide (row < 288) with
    | some j => .plane j
    | none => .none
  | 1 =>
    let place := (t, BitVec.ofNat 4 array, row)
    let loads := c.load.sLeft.any fun x => x.1 == k.hdr.wepoch && x.2 == place
    let streams := c.rcp.streamLeft.any fun x => x.2 == place
    if array < 8 && (loads || streams) then .sArray (Fin.ofNat 9 array) else .none
  | 2 =>
    let st := (c.tileArr t).standin
    let hit := match st.target with
      | some (.n a p) => a.toNat == array && p.toNat == plane
      | some (.s a) => a.toNat == array
      | none => false
    if st.state == .loading && hit && decide (row < 288) then .sArray 8 else .none
  | _ => .none

/-- WEIGHT_CHUNK_CRUMB (R247, R249): half a row; a poisoned half is not stored. -/
def execWeightChunkCrumb (t : TileIx) (k : Crumb) (s : State) : Result :=
  s.onDeviceBoth fun x =>
    let c := x.1
    let pos := k.hdr.pos.toNat
    let row := field pos 11 9
    match c.chunkDest t k with
    | .none => (c.tally Src.loadStray (tileDetail t 0 0), x.2)
    | dest =>
      if hasFlag k flagPoison then x
      else
        let half : HalfRow := { tile := t, cls := BitVec.ofNat 2 (field pos 2 2), array := BitVec.ofNat 4 (field pos 6 4)
                                plane := BitVec.ofNat 2 (field pos 4 2), row := BitVec.ofNat 9 row, half := bitAt pos 10
                                data := wordOfBytes k.payload }
        let same := fun (h : HalfRow) => h.tile == t && h.cls == half.cls && h.array == half.array && h.plane == half.plane
          && h.row == half.row
        match c.arr.halves.find? fun h => same h && h.half != half.half with
        | none =>
          let hs := (c.arr.halves.filter fun h => !same h) ++ [half]
          ({ c with arr := { c.arr with halves := hs } }, x.2)
        | some other =>
          let lo := if half.half then other.data else half.data
          let hi := if half.half then half.data else other.data
          let data : BitVec 1024 := BitVec.ofNat 1024 (lo.toNat + 2 ^ 512 * hi.toNat)
          let c := { c with arr := { c.arr with halves := c.arr.halves.filter fun h => !same h } }
          match dest with
          | .plane j => settleRequests (c.rowArrives j data, x.2)
          | .sArray a => (c.offerRow t a row data, x.2)
          | .none => (c, x.2)

/-- The far-memory address of an offset in a stack: bit 8 of the address selects the stack (R15). -/
def stackAddr (fm : Bool) (off : Nat) : Nat := 512 * (off / 256) + 256 * bit fm + off % 256

/-- FAR_MEMORY_TRANSFER_CRUMB (R15, R160, R246): 64 bytes to or from the stack of a far-memory region, from an offset in it on. An
offset past the stack faults: the spec gives it no byte (R8). Only the load engine writes a held image area. -/
def execFarMemoryTransferCrumb (fm : Bool) (off : BitVec 36) (write : Bool) (k : Crumb) (s : State) : Result :=
  let places := (List.range 64).map fun i => stackAddr fm (off.toNat + i)
  if !s.chip.on then .next s
  else if farSize < 2 * (off.toNat + 64) then .fault .farMemoryHole
  else s.onBoth fun c m =>
    if write then
      if places.any fun a => c.inImage a 1 then (c, m)
      else (c, (places.zip (k.payload ++ List.replicate 64 0)).foldl (fun m x => farWrite m x.1 [x.2]) m)
    else (c.emit (.crumb { k with payload := places.map (farByte m) }), m)

/-- An inbound and an outbound window (R172). -/
def Chip.inWin (c : Chip) (t : TileIx) (w : BitVec 2) : InWin := sget (fun _ => {}) c.fab.inWin (4 * t.toNat + w.toNat)

/-- Store an inbound window. -/
def Chip.setInWin (c : Chip) (t : TileIx) (w : BitVec 2) (x : InWin) : Chip :=
  { c with fab := { c.fab with inWin := sset (fun _ => {}) c.fab.inWin (4 * t.toNat + w.toNat) x } }

/-- Store an outbound window. -/
def Chip.setOutWin (c : Chip) (t : TileIx) (w : BitVec 2) (x : OutWin) : Chip :=
  { c with fab := { c.fab with outWin := sset (fun _ => {}) c.fab.outWin (4 * t.toNat + w.toNat) x } }

/-- A window acknowledge (R177). It names the sender's descriptor where a window write does, in POS[11:10] (DESIGN CHOICE, log
entry 40). -/
def InWin.ackCrumb (x : InWin) (count : BitVec 16) (status : Byte) (offset : BitVec 16) : Crumb :=
  { hdr := CrumbHeader.sealed
      { slot := x.peerTile.setWidth 14, req := 0, pass := 0, wepoch := 0, repoch := 0, variant := 0, kind := 10, flags := 0
        pos := BitVec.ofNat 20 (place 10 2 x.peerWin.toNat), crc := 0 }
    payload := leBytes 2 count.toNat ++ [x.epoch, status] ++ leBytes 2 offset.toNat ++ List.replicate 58 0 }

/-- It goes to PEER_TILE through PEER_PORT (R177). -/
def Chip.sendWinAck (c : Chip) (x : InWin) (count : BitVec 16) (status : Byte) (offset : BitVec 16) : Chip :=
  let k := x.ackCrumb count status offset
  if x.peerPort = 0 then c.emit (.crumb k) else c.sendControl (BitVec.ofNat 3 (x.peerPort.toNat - 1)) k

/-- The applied writes not yet acknowledged are (R175). -/
def Chip.ackApplied (c : Chip) (x : InWin) : Chip := if x.isOpen && x.applied != 0 then c.sendWinAck x x.applied 0 0 else c

/-- Open an inbound window (R173). One that was open is closed first, so its count goes out (R175). The count of rejected writes
starts again (DESIGN CHOICE, log entry 46). -/
def Chip.openWindow (c : Chip) (t : TileIx) (w : BitVec 2) : Chip :=
  let old := c.inWin t w
  let x : InWin := { old with isOpen := true, epoch := old.epoch + 1, applied := 0, rejected := 0, firstBad := none }
  ((c.ackApplied old).setInWin t w x).sendWinAck x 0 4 0

/-- Close it (R175). -/
def Chip.closeWindow (c : Chip) (t : TileIx) (w : BitVec 2) : Chip :=
  let x := c.inWin t w
  (c.setInWin t w { x with isOpen := false, applied := 0 }).ackApplied x

/-- WINDOW_OPEN (R173). -/
def execWindowOpen (t : TileIx) (w : BitVec 2) (s : State) : Result := s.onDevice fun c => c.openWindow t w

/-- WINDOW_CLOSE (R175). -/
def execWindowClose (t : TileIx) (w : BitVec 2) (s : State) : Result := s.onDevice fun c => c.closeWindow t w

/-- Why a window write is not applied (R174, R176): 1 closed, 2 another epoch, 3 past LENGTH; 0 applied. -/
def InWin.status (x : InWin) (epoch : Byte) (off : Nat) : Byte :=
  if !x.isOpen then 1 else if epoch != x.epoch then 2 else if x.length.toNat ≤ off then 3 else 0

/-- A rejected window write is counted; a negative acknowledge goes at the first and then after every ACK_BATCH, with the first
offset rejected since the one before (R176). Its count is 1 (DESIGN CHOICE, log entry 45). -/
def Chip.rejectWrite (c : Chip) (t : TileIx) (w : BitVec 2) (status : Byte) (off : BitVec 11) : Chip :=
  let x := c.inWin t w
  let c := c.tally Src.winNack (tileDetail t w.toNat 0)
  let bad := x.firstBad.getD off
  if x.rejected.toNat % max 1 x.batch.toNat = 0 then
    (c.setInWin t w { x with rejected := x.rejected + 1, firstBad := none }).sendWinAck x 1 status (bad.setWidth 16)
  else c.setInWin t w { x with rejected := x.rejected + 1, firstBad := some bad }

/-- WINDOW_WRITE (R172, R174 to R176, R178, R205): the opens (`true`) and closes of its handshake take effect first; it reaches its
bank in access slot `slot`. -/
def execWindowWrite (t : TileIx) (k : Crumb) (slot : Nat) (turns : List (BitVec 2 × Bool)) (s : State) : Result :=
  s.onDevice fun c =>
    let c := turns.foldl (fun (c : Chip) x => if x.2 then c.openWindow t x.1 else c.closeWindow t x.1) c
    let (c, k) := c.takeCrumb t k
    let w : BitVec 2 := k.hdr.slot.extractLsb' 12 2
    let off : BitVec 11 := k.hdr.slot.extractLsb' 0 11
    let x := c.inWin t w
    let status := x.status (k.hdr.pos.extractLsb' 12 8) off.toNat
    if status ≠ 0 then c.rejectWrite t w status off
    else
      let c := c.bufWrite t (x.start + off) .mesh (wordOfBytes k.payload) (hasFlag k flagPoison) slot
      let c := c.soSignal (soIx t x.arrival) 1
      let n := x.applied + 1
      if max 1 x.batch.toNat ≤ n.toNat then (c.setInWin t w { x with applied := 0 }).sendWinAck x n 0 0
      else c.setInWin t w { x with applied := n }

/-- Window writes of mirror records acknowledged: the oldest first (R336, R339). -/
def ackMirrored : Nat → List (Option Pass × Nat) → List (Option Pass × Nat)
  | _, [] => []
  | n, (p, k) :: rest => if k ≤ n then ackMirrored (n - k) rest else (p, k - n) :: rest

/-- Custody acknowledges that no longer wait for mirror records (R336). -/
def Chip.releaseAcks (c : Chip) : Chip :=
  let ready := c.opt.ackDue.filter fun p => !(c.awaitsRecords p)
  let c := { c with opt := { c.opt with ackDue := c.opt.ackDue.filter fun p => !ready.contains p } }
  ready.foldl (fun c p => c.sendCustodyAck p) c

/-- WINDOW_ACK (R173, R175, R176, R336). -/
def execWindowAck (t : TileIx) (w : BitVec 2) (count : BitVec 16) (epoch status : Byte) (_offset : BitVec 16) (s : State) :
    Result :=
  s.onDevice fun c =>
    let x := c.outWin t w
    let so := soIx t x.ackSo
    if status = 4 then (c.setOutWin t w { x with epoch }).soSignal so 1
    else if status = 0 then
      let c := c.soSignal so count.toNat
      let mirrors := (c.rcp.active.bind fun r => r.placement.mirror) == some (t, w)
      if mirrors then
        let ms := ackMirrored count.toNat c.opt.mirrored
        let passes := fun (xs : List (Option Pass × Nat)) => (xs.filter (·.1.isSome)).length
        let last := decide (passes ms < passes c.opt.mirrored)
        let c := { c with opt := { c.opt with mirrored := ms, rejoin := c.opt.rejoin.map fun (r : Bool × Bool) => (r.1, r.2 || last) } }
        c.settleRejoin.releaseAcks.advanceMesh
      else c
    else (c.tally Src.winNack (tileDetail t w.toNat 0)).soSignalErr so 1

/-- CUSTODY_ACK (R335, R336): one meant for the buddy's upstream is relayed on the entry port when it comes over Z; another releases its pass
once all its acknowledges are in. -/
def execCustodyAck (p : PortIx) (pass : Pass) (position : Pos) (toBuddy : Bool) (s : State) : Result :=
  s.onDevice fun c =>
    if toBuddy && isZ p then
      match c.entryPort with
      | some q => c.sendControl q (custodyAckCrumb pass position true)
      | none => c
    else
      let peer := stepPos c.sys.position p
      let mark := fun (k : BitVec 32 × Bool × Bool) =>
        if k.1 = pass then (k.1, k.2.1 || position == peer, k.2.2 || position == buddyPos peer) else k
      ((c.modPort p fun x => { x with custody := x.custody.map mark }).settleCustody p).advanceMesh

/-- A tunnel frame is dropped (R354). -/
def Chip.tunnelDrop (c : Chip) (p : PortIx) (key : Nat) : Chip :=
  ({ c with fab := { c.fab with tunnelRx := sset (fun _ => none) c.fab.tunnelRx key none } } : Chip).tally Src.tunnelDrop
    (c.portDetail p 0)

/-- HOST_TUNNEL_CRUMB (R354): fragments in order; a frame with a missing, poisoned or out-of-order fragment is dropped
whole, once. -/
def execHostTunnelCrumb (p : PortIx) (k : Crumb) (s : State) : Result :=
  s.onDevice fun c =>
    let key := k.hdr.req.toNat % 4
    let idx := k.hdr.slot.toNat
    let len := field k.hdr.pos.toNat 0 14
    let poison := hasFlag k flagPoison
    let put := fun (c : Chip) (r : Option TunnelRx) =>
      ({ c with fab := { c.fab with tunnelRx := sset (fun _ => none) c.fab.tunnelRx key r } } : Chip)
    let step := fun (c : Chip) (r : TunnelRx) =>
      let bad := r.bad || poison || idx != r.next || len != r.length
      let c := if bad && !r.bad then c.tunnelDrop p key else c
      let r : TunnelRx := { r with next := idx + 1, bytes := r.bytes ++ k.payload, bad }
      if (r.length + 63) / 64 ≤ r.next then
        if r.bad then put c none
        else (put c none).emit (.frame (BitVec.ofNat 2 key) (r.bytes.take r.length))
      else put c (some r)
    let start := fun (c : Chip) => step c { seq := k.hdr.pass, length := len, next := 0, bytes := [], bad := false }
    match sget (fun _ => none) c.fab.tunnelRx key with
    | none => start c
    | some r =>
      if r.seq = k.hdr.pass then step c r
      -- the frame before lacks its last fragments
      else start (if r.bad then put c none else c.tunnelDrop p key)

/-- The spine port the tunnel uses (R354, R358): the preferred one, or the other when it is down. -/
def Chip.tunnelPort (c : Chip) : Option PortIx :=
  let first : PortIx := if c.opt.tunnelPref then 7 else 6
  let second : PortIx := if c.opt.tunnelPref then 6 else 7
  if (c.port first).isUp then some first else if (c.port second).isUp then some second else none

/-- TUNNEL_FRAME_SEND (R354): a frame of 64 to 9,216 bytes in KIND 6 crumbs on virtual link 0. -/
def execTunnelFrameSend (queue : BitVec 2) (frame : List Byte) (s : State) : Result :=
  s.onDevice fun c =>
    match c.tunnelPort with
    | some p =>
      if !inRange 64 9216 frame.length then c
      else
        let n := (frame.length + 63) / 64
        let send := fun (c : Chip) (i : Nat) =>
          let h := CrumbHeader.sealed { slot := BitVec.ofNat 14 i, req := queue.setWidth 12, pass := c.fab.tunnelTx, wepoch := 0
                                        repoch := 0, variant := 0, kind := 6, flags := 0, pos := BitVec.ofNat 20 frame.length
                                        crc := 0 }
          c.transmit p 0 (crumbBytes { hdr := h, payload := bytesAt (frame ++ List.replicate 64 0) (64 * i) 64 })
        let c := (List.range n).foldl send c
        { c with fab := { c.fab with tunnelTx := c.fab.tunnelTx + 1 } }
    | none => c

end Sys2Proof.Machine
end

