-- ==== Sys2Proof/Machine/MgmtCmds.lean ====
section
/-! DEFINITION. The rows of the event recorder, the fault collector, the management core and the commands they serve
(chapters 10, 12, 13): meanings. -/

namespace Sys2Proof.Machine

/-- Why a clear ends without its step 3 (R447): EVR_CLEAR_REJECT, and the command's REJECTED with reason 2. -/
def Chip.abandonClear (c : Chip) : Chip :=
  match c.evr.clear with
  | none => c
  | some x =>
    let c := (c.modEvr fun e => { e with clear := none }).tally Src.evrClearReject 0
    match x.queue with
    | some q => if (c.command q 0x0602).isSome then c.reject q 2 else c
    | none => c

/-- Records dropped by slot choice: EVR_DROP each; a dropped clear record abandons its clear (R443, R447). -/
def Chip.afterDrops (c : Chip) (rs : List EvRec) : Chip :=
  let c := c.raiseDrops rs.length
  match c.evr.clear with
  | some x => if !x.invalidating && rs.any (fun r => r.seq == x.seq) then c.abandonClear else c
  | none => c

/-- Write VALID as 0 in every slot whose record is not PERMANENT and whose SEQ is not after U (R447 step 3). -/
def invalidate (u : BitVec 32) (slots : Sparse EvSlot) : Sparse EvSlot :=
  slots.foldl (fun m p => match p.2 with
    | .holds r => if !r.permanent && !passAfter (r.seq.getD 0) u then m else sset (fun _ => .empty) m p.1 p.2
    | x => sset (fun _ => .empty) m p.1 x) []

/-- The clear record is durable: the command passes its commit point, its nonce is used, and step 3 starts; the slots
are invalidated within it (R446, R447, R471). After PWRFAIL_N a clear goes no further, and the next scan takes up its step 3
(R442). -/
def Chip.startInvalidate (c : Chip) (x : EvClear) : Chip :=
  let runs := c.pins.pwrfailAt.isNone
  let c := c.modEvr fun e => { e with
    clear := some { x with invalidating := runs }, slots := if runs then invalidate x.u e.slots else e.slots
    nonce := if x.queue.isSome then none else e.nonce }
  match x.queue with
  | some q => if (c.command q 0x0602).isSome then c.commit q else c
  | none => c

/-- EVR_SLOT_WRITE_DONE (R434, R437): the write in progress in a bank ends, its read-back equal or not. -/
def execEvrSlotWriteDone (bank : BitVec 2) (ok : Bool) (s : State) : Result :=
  s.onChip fun c =>
    match c.evr.buffer.find? (fun b => b.slot.isSome && (b.r.seq.getD 0).toNat % 4 == bank.toNat) with
    | none => c
    | some b =>
      let i := (b.slot.getD 0).toNat
      if ok then
        let c := c.modEvr fun e =>
          { (e.setSlot i (.holds b.r)) with buffer := e.buffer.filter (fun x => x.r.seq != b.r.seq) }
        let c := match c.evr.clear with
          | some x => if !x.invalidating && x.seq == b.r.seq then c.startInvalidate x else c
          | none => c
        let r := c.pump
        r.1.afterDrops r.2
      else
        let c := c.modEvr fun e => { (e.setSlot i .torn) with bad := sset (fun _ => false) e.bad i true }
        let c := c.tally Src.evrWriteFail (BitVec.ofNat 32 i)
        if c.evr.pwrfailFlush then
          let c := c.modEvr fun e => { e with
            buffer := e.buffer.filter (fun x => x.r.seq != b.r.seq), dropsFlag := true }
          let c := match c.evr.clear with
            | some x => if !x.invalidating && x.seq == b.r.seq then c.abandonClear else c
            | none => c
          let r := c.pump
          r.1.afterDrops r.2
        else
          let c := c.modEvr fun e => { e with buffer := e.buffer.map fun x =>
            if x.r.seq == b.r.seq then { x with slot := none, rewrite := true } else x }
          let r := c.pump
          r.1.afterDrops r.2

/-- EVR_CLEAR_DONE (R447): step 3 finishes. -/
def execEvrClearDone (s : State) : Result :=
  s.onChip fun c =>
    match c.evr.clear with
    | some x =>
      if x.invalidating then
        let c := c.modEvr fun e => { e with clear := none }
        match x.queue with
        | some q => if (c.command q 0x0602).isSome then c.complete q 0 0 0 else c
        | none => c
      else c
    | none => c

/-- The newest of the clear records of the area, by SEQ (R442). -/
def newestClear (rs : List EvRec) : Option EvRec :=
  (rs.filter fun r => r.source == 0x0104).foldl (fun acc r => match acc with
    | none => some r
    | some a => if passAfter (r.seq.getD 0) (a.seq.getD 0) then some r else some a) none

/-- The latest SEQ of some records. -/
def latestSeq (rs : List EvRec) : Option (BitVec 32) :=
  rs.foldl (fun acc r => match acc with
    | none => r.seq
    | some a => match r.seq with
      | some s => if passAfter s a then some s else some a
      | none => some a) none

/-- Number the records that wait in the buffer, in order of creation, from HEAD + 1 (R438). -/
def numberFrom (s : BitVec 32) : List EvBuf → List EvBuf × BitVec 32
  | [] => ([], s)
  | b :: bs => let r := numberFrom (s + 1) bs; ({ b with r := { b.r with seq := some (s + 1) } } :: r.1, r.2)

/-- EVR_SCAN_COMPLETE (R442): HEAD set, torn slots counted and freed, a clear cut short repeated, waiting records
numbered, and the power-up record created. -/
def execEvrScanComplete (s : State) : Result :=
  s.onChip fun c =>
    if !c.on || !c.evr.scanning || !c.pins.pwrfailN then c
    else
      let torn := (c.evr.slots.filter fun p => p.2 == .torn).length
      let slots := c.evr.slots.filter fun p => p.2 != .torn
      let recs := c.evrRecords
      let head := (latestSeq recs).getD 0
      let cut := newestClear recs
      let num := numberFrom head c.evr.buffer
      let c := c.modEvr fun e => { e with
        slots := match cut with | some r => invalidate (r.body.getD 0 0) slots | none => slots
        torn := BitVec.ofNat 8 (min 255 torn), ready := true, scanning := false
        buffer := num.1, lastSeq := num.2 }
      let c := if 0 < torn then c.tally Src.evrTorn 0 else c
      let c := c.record (c.newRec 0 0x0100) false
      let r := c.pump
      r.1.afterDrops r.2

/-- EVR_PWRFAIL_CUTOFF (R442, R495): from 62 µs after PWRFAIL_N the recorder accepts no new record. -/
def execEvrPwrfailCutoff (s : State) : Result :=
  s.onChip fun c => if c.on && c.pins.pwrfailAt.isSome then c.modEvr fun e => { e with closed := true } else c

/-- HOURS_ADVANCE (R439): the hours counter advances and is saved. -/
def execHoursAdvance (s : State) : Result :=
  s.onChip fun c => if c.pins.powered then c.modEvr fun e => { e with hours := e.hours + 1 } else c

/-- FAULT_EVENT: an event of the ring, the load engine or the sequencer reaches the collector (R376 to R381). -/
def execFaultEvent (src : BitVec 8) (info : EventInfo) (s : State) : Result :=
  s.onChip fun c => if c.on then c.raise src info else c

/-- REACTION_END (R379, R380, R436). -/
def execReactionEnd (s : State) : Result :=
  s.onChip fun c => if c.on then c.endReaction else c

/-- A management restart (R385): a measured image restarts the core; a mismatch enters the fault state. -/
def Chip.restartCore (c : Chip) (src : BitVec 8) (measured : Bool) : Chip :=
  let c := c.tally src 0
  let c := c.record (c.newRec 1 0x0102) false
  if measured then
    { c with mbx := { c.mbx with fwState := 2 }, flt := { c.flt with mgmtRestarted := true } }
  else ({ c with mbx := { c.mbx with fwState := 3 } } : Chip).enterFault src

/-- MGMT_WATCHDOG (R385). -/
def execMgmtWatchdog (measured : Bool) (s : State) : Result :=
  s.onChip fun c => if c.on && c.mbx.fwState = 1 then c.restartCore Src.mgmtWatchdog measured else c

/-- MGMT_ECC_ERROR (R385). -/
def execMgmtEccError (corrected measured : Bool) (s : State) : Result :=
  s.onChip fun c =>
    if !c.on then c
    else if corrected then c.tally Src.mgmtEccCorr 0
    else if c.mbx.fwState = 1 then c.restartCore Src.mgmtEccUncorr measured
    else c.tally Src.mgmtEccUncorr 0

/-- An engine of R472 still works for this command. -/
def Chip.engineRuns (c : Chip) (code : Nat) : Bool :=
  (code ∈ [0x0100, 0x0400, 0x0900]) || (code == 0x0700 && c.cal.full.isSome) || (code == 0x0602 && c.evr.clear.isSome)

/-- MGMT_RESTART_COMPLETE (R473): commands in progress complete as RESTARTED, those with a running engine go on. -/
def execMgmtRestartComplete (s : State) : Result :=
  s.onChip fun c =>
    if c.mbx.fwState ≠ 2 then c
    else
      let c := { c with mbx := { c.mbx with fwState := 1 } }
      (List.range 16).foldl (fun c n =>
        let q := BitVec.ofNat 4 n
        match (c.mq q).cmd with
        | some e => if c.engineRuns (cmdOpcode e) then c else c.complete q 8 0 0
        | none => c) c

/-- COMMAND_TAKE (R464, R522). -/
def execCommandTake (slot : Nat) (upset : BitVec 576) (s : State) : Result :=
  s.onChip fun c => if c.on then c.takeCommand slot upset else c

/-- COALESCE_INTERVAL_END (R465). -/
def execCoalesceIntervalEnd (q : QueueIx) (s : State) : Result :=
  s.onChip fun c =>
    let m := c.mq q
    if !m.interval then c
    else if m.announce then
      let c := c.emits (c.upModules.map fun u => .sideband u (.completion q))
      c.modMq q fun m => { m with announce := false, interval := c.mbx.coalesceUs != 0 }
    else c.modMq q fun m => { m with interval := false }

/-- SV_HELLO's busy test (R467): a command in progress or pending on a queue other than 0, the hello's own not counted. -/
def Chip.helloBusy (c : Chip) (q : QueueIx) : Bool :=
  (List.range 15).any fun i =>
    let n := BitVec.ofNat 4 (i + 1)
    let m := c.mq n
    m.sqTail != m.sqHead || (n != q && m.cmd.isSome)

/-- The highest supported version of an inclusive range (R467). -/
def chooseVersion (lo hi : Nat) : Option Nat := [0x0302, 0x0301, 0x0300, 0x0204].find? (inRange lo hi)

/-- SV_HELLO (R467). -/
def execSvHello (q : QueueIx) (s : State) : Result :=
  s.onChip fun c => c.withCommand q 0x0001 fun e =>
    if c.helloBusy q then c.complete q 6 0 0
    else match chooseVersion (cmdField e 8 2) (cmdField e 10 2) with
      | none => c.complete q 0x000F 0 0
      | some v =>
        let compat := v == 0x0204 || cmdField e 12 1 == 1
        let c := { c with mbx := { c.mbx with
          version := BitVec.ofNat 16 v, compat, hostId := BitVec.ofNat 64 (cmdField e 16 8) } }
        let fw := (c.boot.image.map fun i => i.version.toNat).getD 0
        c.succeed q (v + place 16 1 (bit compat) + place 24 8 16 + place 32 32 fw)

/-- SV_IDENTIFY (R469): the buffer's layout is not given; its bytes are Config's (log entry 9). -/
def execSvIdentify (q : QueueIx) (ok : Bool) (s : State) : Result :=
  s.onChip fun c => c.withCommand q 0x0002 fun e =>
    c.writeHost q (cmdField e 8 8) (Config.identity [0x0302, 0x0301, 0x0300, 0x0204]) ok 0

/-- SV_KEY_CHALLENGE (R476): the new nonce replaces the earlier only when its write has completed. -/
def execSvKeyChallenge (q : QueueIx) (ok : Bool) (s : State) : Result :=
  s.onChip fun c => c.withCommand q 0x0200 fun e =>
    let n := Config.freeNonce c.free
    let c := c.tickFree
    if ok then
      let c := { c with boot := { c.boot with keyNonce := some n, keyNonces := c.boot.keyNonces + 1 } }
      c.writeHost q (cmdField e 8 8) (leBytes 16 n.toNat) true c.boot.keyNonces.toNat
    else c.hostFetchFailed q

/-- SV_EVR_CHALLENGE (R446, R476). -/
def execSvEvrChallenge (q : QueueIx) (ok : Bool) (s : State) : Result :=
  s.onChip fun c => c.withCommand q 0x0601 fun e =>
    let n := Config.freeNonce c.free
    let c := c.tickFree
    if ok then
      let c := c.modEvr fun v => { v with nonce := some n, nonces := v.nonces + 1 }
      c.writeHost q (cmdField e 8 8) (leBytes 16 n.toNat) true c.evr.nonces.toNat
    else c.hostFetchFailed q

/-- SV_OWNER_INSTALL (R474): slot 0 unsigned while empty; else a signature under the owner key over the record, the slot
and the key nonce, which serves once. -/
def execSvOwnerInstall (q : QueueIx) (record : Option (List Byte)) (s : State) : Result :=
  s.onChip fun c => c.withCommand q 0x0202 fun e =>
    match record with
    | none => c.hostFetchFailed q
    | some bytes =>
      let slot := cmdField e 8 1
      let key := bytesAt bytes 0 97
      let sig := bytesAt bytes 97 96
      let put := fun (c : Chip) => { c with boot := { c.boot with
        owner := Vector.ofFn fun i => if i.val = slot then some key else c.boot.owner[i.val] } }
      if (pointOf key).isNone then c.complete q 4 0 0
      else if slot = 0 ∧ c.boot.owner[0].isNone then (put c).succeed q 0
      else match c.boot.owner[0], c.boot.keyNonce with
        | some ok, some n =>
          let msg := ascii "FQP2-OWNKEY" ++ [BitVec.ofNat 8 slot] ++ key ++ leBytes 16 n.toNat
          if ecdsaVerify ok (sha384 msg) sig then
            let c := put c
            ({ c with boot := { c.boot with keyNonce := none } } : Chip).succeed q 0
          else c.authFailed q
        | _, _ => c.authFailed q

/-- SV_EVR_READ (R444): the valid record with the earliest SEQ not before s; none is NOT_FOUND. -/
def execSvEvrRead (q : QueueIx) (ok : Bool) (s : State) : Result :=
  s.onChip fun c => c.withCommand q 0x0600 fun e =>
    let from' : BitVec 32 := BitVec.ofNat 32 (cmdField e 8 4)
    let cand := c.evrRecords.filter fun r => !passBefore (r.seq.getD 0) from'
    let best := cand.foldl (fun acc r => match acc with
      | none => some r
      | some a => if (r.seq.getD 0 - from').toNat < (a.seq.getD 0 - from').toNat then some r else some a) none
    match best with
    | none => c.complete q 0x000D 0 0
    | some r => c.writeHost q (cmdField e 16 8) r.bytes ok ((r.seq.getD 0).toNat)

/-- SV_EVR_CLEAR (R446, R447): signature first, U second; accepted, the clear record is created and flushed. -/
def execSvEvrClear (q : QueueIx) (sig : Option (List Byte)) (s : State) : Result :=
  s.onChip fun c => c.withCommand q 0x0602 fun e =>
    if c.evr.clear.isSome then c
    else match sig with
      | none => c.hostFetchFailed q
      | some sg =>
        let u : BitVec 32 := BitVec.ofNat 32 (cmdField e 8 4)
        let good := match c.boot.owner[0], c.evr.nonce with
          | some key, some n =>
            ecdsaVerify key (sha384 (ascii "FQP2-EVRCLR" ++ leBytes 4 u.toNat ++ leBytes 16 n.toNat)) sg
          | _, _ => false
        if !good then (c.tally Src.evrClearReject 0).authFailed q
        else if passAfter u c.evrHead then (c.tally Src.evrClearReject 0).reject q 1
        else
          let count := (c.evrRecords.filter fun r => !r.permanent && !passAfter (r.seq.getD 0) u).length
          let digest := sha384 ((c.boot.owner[0]).getD [])
          let words := (List.range 12).map fun i => BitVec.ofNat 32 (leAt digest (4 * i) 4)
          let r0 := { c.newRec 7 0x0104 with permanent := true, snap := [], body := [u, BitVec.ofNat 32 count] ++ words }
          let seq := c.evr.lastSeq + 1
          let c := c.modEvr fun v => { v with clear := some { u, queue := some q, seq := some seq } }
          let (c, full, drops) := c.createRec r0 false
          let c := c.raiseDrops full
          if 0 < full || c.evr.closed then c.abandonClear else c.afterDrops drops

end Sys2Proof.Machine
end

