-- ==== Sys2Proof/Machine/PassCmds.lean ====
section
/-! DEFINITION. The rows of passes and scheduling (R202, R203, R205, R211, R256, R270 to R277, R284, R292 to R308, R338 to
R340): meanings. -/

namespace Sys2Proof.Machine

/-- Write a crumb's payload to the buffer word its slot's place in the order names, in an access slot of its bank (R116). -/
def Chip.sinkCrumb (c : Chip) (t : TileIx) (k : Crumb) (slot : Nat) : Chip :=
  match (c.tileOrder t).bind fun o => o.sinks.find? fun x => x.1 == k.hdr.slot with
  | some (_, w) => c.bufWrite t w .mesh (wordOfBytes k.payload) (hasFlag k flagPoison) slot
  | none => c

/-- LEN on a device of the middle groups (R273, R349): positions whose KV is final; a poisoned pass advances none. -/
def advanceLen (x : Both) (k : Crumb) (positions : Nat) (poisoned : Bool) : Both :=
  if x.1.isEntry || poisoned then x
  else match x.1.hotEntry k.hdr.req with
    | some e =>
      let n := k.hdr.pos.toNat + (if kindOf k positions = 1 then 1 else positions)
      putEntry x k.hdr.req { e with len := BitVec.ofNat 32 n }
    | none => x

/-- Marks of a pass on any tile of the device, and its last crumb's flags. -/
def Chip.passFlags (c : Chip) (p : Pass) (flags : Byte) : Byte :=
  c.fab.marks.foldl (fun f m => if m.2.1 = p then f ||| m.2.2 else f) flags

/-- ACTIVATION_CRUMB (R161, R203 to R208, R211, R256, R277, R304): a tile takes a crumb of a pass of `positions` positions; its
write reaches its bank in access slot `slot`. A pass new to the device crosses its boundary; the last crumb of a pass that
returns to the entry group ends it. -/
def execActivationCrumb (t : TileIx) (k : Crumb) (positions : Nat) (last : Bool) (slot : Nat) (s : State) : Result :=
  s.onDeviceBoth fun x =>
    let p := k.hdr.pass
    let (c, k) := (x.1.meetPass k positions).takeCrumb t k
    let covered := match c.rcp.active with
      | some r => (r.lengthOf k.hdr.pos.toNat positions).isSome
      | none => true
    let (c, k) := c.checkCrumb t k covered false Src.lengthClass
    let c := (c.mark t k).sinkCrumb t k slot
    let flags := c.passFlags p k.hdr.flags
    if !last then (c, x.2)
    else match (if c.isEntry then c.serve.out.find? fun o => o.pass == p else none) with
      | some o => returnPass (c, x.2) o flags k.payload
      | none => advanceLen (c, x.2) k positions (flags.getLsbD flagPoison)

/-- The base of the mirrored frames behind the mirrored page tables (R340). -/
def mirrorFrames (base : Nat) : Nat := base + 128 * mib

/-- A mirrored frame's address: one for each pair of the pool, then one for each frame (R340). -/
def Chip.mirrorFrame (c : Chip) (base d : Nat) : Nat :=
  let pairs := (c.servingRecipe.map fun r => r.placement.pairs.length).getD 0
  mirrorFrames base + (if isFrame d then pairs + frameNo d else pairNo d) * frameBytes

/-- Apply a mirror record to the mirror region (R338, R340): the page-table change, or one position's K and V rows with
their scales at the places R279 and R280 give. `page`: the page index, from the crumb's POS. -/
def applyMirror (x : Both) (base page : Nat) (h : List Byte) (words : List (List Byte)) : Both :=
  let req := leAt h 0 2 % 4096
  let d := leAt h 2 4
  let at' := leAt h 6 1 % 128
  let flags := leAt h 20 1
  if bitAt flags 1 then (x.1, farWrite x.2 (base + (req * 8192 + page) * 4) (leBytes 4 d))
  else
    let f := x.1.mirrorFrame base d
    let body := words.flatten
    let put := fun (m : List Host.Cell) (array row byte : Nat) (b : Byte) => farWrite m (f + 128 * (288 * array + row) + byte) [b]
    let m := (List.range 256).foldl (fun m i => put m 0 i at' (body.getD i 0)) x.2
    let m := (List.range 4).foldl (fun m g => put m 0 (256 + 8 * g) at' (h.getD (8 + g) 0)) m
    let m := (List.range 256).foldl (fun m i => put m 1 (128 * (i / 128) + at') (i % 128) (body.getD (256 + i) 0)) m
    let m := (List.range 2).foldl (fun m g => put m 1 (257 + g) at' (h.getD (12 + g) 0)) m
    -- every weight scale of a V array is 0x38
    let m := (List.range 4).foldl (fun m g => farWrite m (f + 128 * (288 + 256 + 8 * g)) (List.replicate 128 0x38)) m
    let c := if bitAt flags 0 then
        { x.1 with opt := { x.1.opt with
          mirrorLast := (x.1.opt.mirrorLast ++ [BitVec.ofNat 32 (leAt h 16 4)]).drop (x.1.opt.mirrorLast.length - 127)
          rejoin := x.1.opt.rejoin.map fun r => (true, r.2) } }
      else x.1
    (c.settleRejoin, m)

/-- A crumb of a mirror record: its header word, then the words it announces (R338). -/
def takeMirror (x : Both) (base : Nat) (k : Crumb) : Both :=
  let page := k.hdr.pos.toNat / 128
  match x.1.opt.mirrorRx with
  | none =>
    if leAt k.payload 7 1 = 0 then applyMirror x base page k.payload []
    else ({ x.1 with opt := { x.1.opt with mirrorRx := some (k.payload, []) } }, x.2)
  | some (h, ws) =>
    let ws := ws ++ [k.payload]
    if ws.length < leAt h 7 1 then ({ x.1 with opt := { x.1.opt with mirrorRx := some (h, ws) } }, x.2)
    else applyMirror ({ x.1 with opt := { x.1.opt with mirrorRx := none } }, x.2) base page h ws

/-- KV_ROW_CRUMB (R160, R161, R205, R338, R340): a KV row where the tile's order places it, else a word of a mirror record for the
far-memory region. -/
def execKvRowCrumb (t : TileIx) (k : Crumb) (slot : Nat) (s : State) : Result :=
  s.onDeviceBoth fun x =>
    let sink := (x.1.tileOrder t).any fun o => o.sinks.any fun y => y.1 == k.hdr.slot
    let (c, k) := x.1.takeCrumb t k
    if sink then (c.sinkCrumb t k slot, x.2)
    else match c.opt.mirrorBase with
      | some base => takeMirror (c, x.2) base k
      | none => (c, x.2)

/-- Candidates of a request and position that a slice has given. -/
def Chip.candsOf (c : Chip) (req : BitVec 12) (pos : BitVec 20) (slice : BitVec 2) : List (BitVec 32 × BitVec 32) :=
  (c.serve.cands.find? fun x => x.1 == req && x.2.1 == pos && x.2.2.1 == slice).elim [] (·.2.2.2)

/-- The token of one position of a pass (R297 to R301): its record's reason, 0, 1, 2 or 5. -/
def sampleAt (e : Entry) (set : List Byte) (cands : List (BitVec 32 × BitVec 32)) (pos : Nat) : BitVec 32 × Byte :=
  match sampleToken (mergeCands (setTopK set) cands) set e.seed (BitVec.ofNat 32 pos) with
  | none => (0xFFFF_FFFF, 5)
  | some tok => (tok, if (setStops set).contains tok then 1 else if e.maxLen.toNat ≤ pos + 1 then 2 else 0)

/-- The tokens of `n` positions from `i` on, until one ends the request (R301). -/
def sampleRun (f : Nat → BitVec 32 × Byte) : Nat → Nat → List (Nat × BitVec 32 × Byte)
  | 0, _ => []
  | n + 1, i =>
    let r := f i
    (i, r) :: (if r.2 = 0 then sampleRun f n (i + 1) else [])

/-- Sample every position of a pass once all four slices have given their candidates (R294, R297): the last position of a
request's last chunk, or each position of a generation or verify pass. -/
def Chip.samplePass (c : Chip) (p : PassRec) (e : Entry) (set : List Byte) : Chip :=
  let k8 := (setTopK set + 7) / 8 * 8
  let n := if p.kind = 2 then 1 else p.positions
  let lists := ([0, 1, 2, 3] : List (BitVec 2)).map fun z => c.candsOf p.req p.pos z
  if !(lists.all fun l => decide (n * k8 ≤ l.length)) then c
  else
    let c := c.modServe fun s => { s with cands := s.cands.filter fun x => !(x.1 == p.req && x.2.1 == p.pos) }
    let first := if p.kind = 2 then p.pos.toNat + p.positions else p.pos.toNat + 1
    let flags := c.passFlags p.pass 0
    -- FINAL goes on the crumbs that carry a token with reason 1, 2 or 5 (R301)
    let final : Byte → Byte := fun reason => if reason = 0 then flags else flags ||| (1 <<< flagFinal)
    let run := sampleRun (fun i => sampleAt e set (lists.flatMap fun l => bytesAtCands l (i * k8) k8) (first + i)) n 0
    c.emits (run.map fun r => .sampled p.req (BitVec.ofNat 20 (first + r.1)) r.2.1 r.2.2 (final r.2.2))
where
  /-- The entries of one position. -/
  bytesAtCands (l : List (BitVec 32 × BitVec 32)) (i n : Nat) : List (BitVec 32 × BitVec 32) := (l.drop i).take n

/-- A pass is sampled (R206, R294): every pass but a prompt chunk before the last, and the last one of a request that is only to be
prefilled. -/
def PassRec.isSampled (p : PassRec) (e : Entry) : Bool :=
  if p.kind = 2 then decide (e.promptLen.toNat ≤ p.pos.toNat + p.positions) && !e.flag 2 else true

/-- LOGIT_CANDIDATE_CRUMB (R161, R205, R297 to R301): eight candidates of a slice, the device's own included, reach the sampling
unit, which stands at tile 0 in the fault collector's details (DESIGN CHOICE, log entry 47). -/
def execLogitCandidateCrumb (slice : BitVec 2) (k : Crumb) (s : State) : Result :=
  s.onDevice fun c =>
    let (c, k) := c.takeCrumb 0 k
    if !c.isOutput || hasFlag k flagCancel then c
    else
      let new := (List.range 8).map fun i => (BitVec.ofNat 32 (leAt k.payload (8 * i) 4), BitVec.ofNat 32 (leAt k.payload (8 * i + 4) 4))
      let all := c.candsOf k.hdr.req k.hdr.pos slice ++ new
      let c := c.modServe fun s => { s with
        cands := (s.cands.filter fun x => !(x.1 == k.hdr.req && x.2.1 == k.hdr.pos && x.2.2.1 == slice))
          ++ [(k.hdr.req, k.hdr.pos, slice, all)] }
      match c.hotEntry k.hdr.req, c.rcp.passes.find? fun y => y.pass == k.hdr.pass with
      | some e, some p =>
        match sget (fun _ => none) c.serve.sparams e.spidx.toNat with
        | some set => if p.isSampled e then c.samplePass p e set else c
        | none => c
      | _, _ => c

/-- PASS_START (R203, R207, R271, R292, R302, R303). -/
def execPassStart (s : State) : Result := s.onDeviceBoth tryStart

/-- RECIPE_DRAIN_TIMEOUT (R203): passes before A that are still out are halted; A may start. -/
def execRecipeDrainTimeout (s : State) : Result :=
  s.onDevice fun c =>
    match c.rcp.staged with
    | some (_, .armed a) =>
      if c.rcp.draining then
        let late := c.serve.out.filter fun o => passBefore o.pass a
        let c := late.foldl (fun c o => c.haltPass o.pass) c
        let c : Chip := { c with rcp := { c.rcp with draining := false, drained := true } }
        if late.isEmpty then c else c.tally Src.recipeDrain 0
      else c
    | _ => c

/-- SCHEDULING_NOTICE (R271): a partner takes a change for pass S; one that comes after its boundary into S is late. -/
def execSchedulingNotice (n : Notice) (sp : Pass) (s : State) : Result :=
  s.onDevice fun c =>
    let c := c.modServe fun v => { v with changes := v.changes ++ [{ at' := sp, notice := n }] }
    let req := match n with
      | .admission r => r
      | .cancel r _ _ => r
    let late := c.nextNumber.any fun p => passAfter p sp
    if !late then c
    else
      let wrong := (c.outOf req).filter fun o => !passBefore o.pass sp
      let c := wrong.foldl (fun c o => c.haltPass o.pass) c
      c.raise Src.schedLate { detail := req.setWidth 32, pass := wrong.head?.map (·.pass) }

/-- KV_FAILURE_NOTICE (R284): the authority cancels the request, its final record carrying reason 6. -/
def execKvFailureNotice (req : BitVec 12) (s : State) : Result :=
  s.onDeviceBoth fun x =>
    let e := getEntry x req
    if x.1.isAuthority && (inRange 1 4 e.state.toNat || (x.1.lostOpen req e && !x.1.changePending req)) then (takeCancel x req 6).1
    else x

/-- DEADLINE_MISS (R295). -/
def execDeadlineMiss (req : BitVec 12) (s : State) : Result :=
  s.onDeviceBoth fun x =>
    let e := getEntry x req
    if e.deadline = 0 || decide (x.1.tick.count.toNat ≤ e.deadline.toNat) || !inRange 1 5 e.state.toNat || e.flag 4 then x
    else
      let x := putEntry x req (e.setFlag 4 true)
      let x : Both := (x.1.tally Src.deadlineMiss (req.setWidth 32), x.2)
      if e.flag 1 && x.1.isAuthority && inRange 1 4 e.state.toNat then (takeCancel x req 3).1 else x

/-- TOKEN_RING_TAIL_WRITE (R311): ignored where TAIL would pass HEAD. -/
def execTokenRingTailWrite (m : UcieIx) (tail : BitVec 32) (s : State) : Result :=
  s.onChip fun c => c.hostAccess m fun c => c.writeTail tail

end Sys2Proof.Machine
end

