-- ==== Sys2Proof/Machine/QueryCmds.lean ====
section
/-! DEFINITION. Host accesses to buffers and far memory (R8, R14, R114 to R116, R246), the fault query and clear (R477), command
timeouts (R471), attestation (R510), the start-up check (R263) and debug (R514): meanings. -/

namespace Sys2Proof.Machine

/-- The words of an access of `n` bytes at byte offset `off` of a tile's buffer: tile, word, first byte and number of bytes
in it (R112). What reaches past the last tile's buffer is no word. -/
def accessWords : Nat → TileIx → Nat → Nat → List (TileIx × WordIx × Nat × Nat)
  | 0, _, _, _ => []
  | f + 1, t, off, n =>
    if n = 0 then []
    else
      let k := min n (64 - off % 64)
      let rest := if off + k < 131072 then accessWords f t (off + k) (n - k)
        else if t = 1023 then [] else accessWords f (t + 1) 0 (n - k)
      (t, BitVec.ofNat 11 (off / 64), off % 64, k) :: rest

/-- A host access to a memory of the map of which `inside` bytes lie in the map is counted when it reaches past the map's end
(R9, R10). -/
def Chip.hostReach (c : Chip) (addr : BitVec 40) (size inside : Nat) (write : Bool) : Chip :=
  if inside < size then c.countUnmapped addr write else c

/-- What a host read answers: the bytes inside the map, all ones for those outside (R9). -/
def padOnes (bs : List Byte) (size : Nat) : List Byte := bs ++ List.replicate (size - bs.length) 0xFF#8

/-- Read the words of a host access, management class (R114, R116): the upsets meet its first word. -/
def Chip.hostRead (c : Chip) (slot : Nat) (upset : BitVec 576) : List (TileIx × WordIx × Nat × Nat) → Chip × List Byte
  | [] => (c, [])
  | (t, w, o, k) :: ws =>
    let r := c.readWord t w slot upset none
    let c := r.1.emit (.bufReply t w .management r.2.1 r.2.2)
    let x := c.hostRead slot 0 ws
    (x.1, bytesAt (leBytes 64 r.2.1.toNat) o k ++ x.2)

/-- Write them (R114, R115): a whole word, or a read-modify-write of fewer than 64 bytes. -/
def Chip.hostWriteWords (c : Chip) (slot : Nat) (upset : BitVec 576) : List (TileIx × WordIx × Nat × Nat) → List Byte → Chip
  | [], _ => c
  | (t, w, o, k) :: ws, bs =>
    let c := if k = 64 then c.writeWord t w (wordOfBytes (bs.take 64)) false slot
      else c.writePart t w o (bs.take k) slot upset
    c.hostWriteWords slot 0 ws (bs.drop k)

/-- HOST_BUFFER_ACCESS (R8, R9, R14, R114 to R116): management-class requests do not wait on slot guards (R136). -/
def execHostBufferAccess (m : UcieIx) (addr : BitVec 40) (size : BitVec 8) (write : Option (List Byte)) (slot : Nat)
    (upset : BitVec 576) (s : State) : Result :=
  s.onChip fun c => if !c.moduleUp m then c else
    match hostMap addr with
    | .buffer t off =>
      let ws := accessWords size.toNat t off size.toNat
      let c := c.hostReach addr size.toNat (ws.foldl (fun n x => n + x.2.2.2) 0) write.isSome
      match write with
      | some bs => c.hostWriteWords slot upset ws ((bs ++ List.replicate size.toNat 0#8).take size.toNat)
      | none =>
        let r := c.hostRead slot upset ws
        r.1.emit (.readDone m (padOnes r.2 size.toNat))
    | _ => c

/-- HOST_FAR_MEMORY_ACCESS (R8, R9, R15, R246): a write into a held epoch's image area is ignored and tallied; bytes beyond the
end of far memory lie outside the map. -/
def execHostFarMemoryAccess (m : UcieIx) (addr : BitVec 40) (size : Nat) (write : Option (List Byte)) (s : State) : Result :=
  s.onBoth fun c far => if !c.moduleUp m then (c, far) else
    match hostMap addr with
    | .far off =>
      let inside := min size (farSize - off)
      let c := c.hostReach addr size inside write.isSome
      match write with
      | some bs =>
        let bs := bs.take size
        if c.inImage off bs.length then (c.tally Src.imageWrite 0, far) else (c, farWrite far off bs)
      | none => (c.emit (.readDone m (padOnes (farRead far off inside) size)), far)
    | _ => (c, far)

/-- The class record of SEL 4, in the order corrected, contained, fatal (R384, R477; log entry 11). -/
def Chip.classWord (c : Chip) (i : Nat) : Word64 :=
  let cls : FltClass := if i = 0 then .corrected else if i = 1 then .contained else .fatal
  let n := if i = 0 then c.flt.classCorrected.toNat else if i = 1 then c.flt.classContained.toNat else c.flt.classFatal.toNat
  match c.flt.classFirst.find? fun x => x.1 == cls with
  | some (_, src, detail) => regOf [fld 32 detail, fld 24 src, min n 0xFFFFFF]
  | none => regOf [0xFF <<< 24, min n 0xFFFFFF]

/-- A word of the fault query (R477). -/
def Chip.queryWord (c : Chip) (sel i : Nat) : Word64 :=
  match sel with
  | 0 => c.tileArrayWord (BitVec.ofNat 10 i)
  | 1 => c.tileBufWord (BitVec.ofNat 10 i)
  | 2 => (c.soObj (BitVec.ofNat 13 i)).word
  | 3 => (sget (fun _ => ({} : NumStat)) c.arr.numeric i).word
  | _ => c.classWord i

/-- SV_FAULT_QUERY (R477): one word in RESULT, or COUNT words to HOST_ADDR. -/
def execSvFaultQuery (q : QueueIx) (ok : Bool) (s : State) : Result :=
  s.onChip fun c => c.withCommand q 0x0500 fun e =>
    let sel := cmdField e 8 1
    let first := cmdField e 10 2
    let n := cmdField e 12 2
    if n = 1 then c.succeed q (c.queryWord sel first).toNat
    else
      c.writeHost q (cmdField e 16 8) ((List.range n).flatMap fun i => leBytes 8 (c.queryWord sel (first + i)).toNat) ok 0

/-- Clear the FQ-P1 classes of a mask (R384): STICKY and SEVERE of every source whose first event fell in one of them. -/
def Chip.clearClasses (c : Chip) (mask : Nat) : Chip :=
  let inMask := fun (k : FltClass) => match k with
    | .corrected => bitAt mask 0
    | .contained => bitAt mask 1
    | .fatal => bitAt mask 2
  let c := (List.range 192).foldl (fun (c : Chip) n =>
    match (c.fltSrc n).firstClass with
    | some k => if inMask k then (c.clearSevere n).clearSticky n else c
    | none => c) c
  c.modFlt fun f => { f with classFirst := f.classFirst.filter fun x => !inMask x.1 }

/-- SV_FAULT_CLEAR (R6, R61, R384, R477): the flags of a layer slot by a mask, or under 2.4 the classes of a mask. A raise of
cleared flags by a tile that the clear meets wins: the flags stay set, the events are counted and reported. -/
def execSvFaultClear (q : QueueIx) (meets : Option (TileIx × BitVec 5)) (s : State) : Result :=
  s.onChip fun c => c.withCommand q 0x0501 fun e =>
    if c.mbx.version = 0x0204 then (c.clearClasses (cmdField e 8 2)).succeed q 0
    else
      let mask : BitVec 5 := BitVec.ofNat 5 (cmdField e 10 1)
      let layer : BitVec 14 := BitVec.ofNat 14 (cmdField e 8 2)
      let c : Chip := { c with arr := { c.arr with
        numeric := smod (fun _ => {}) c.arr.numeric layer.toNat fun n => { n with flags := n.flags &&& ~~~mask } } }
      (match meets with
        | some (t, flags) => c.numericReport t layer (eventsOf (flags &&& mask)) (c.passOn t false)
        | none => c).succeed q 0

/-- What an abandoned command leaves (R200, R447, R471): a recipe load leaves no staged recipe unless its check 18 or 14
would have failed; a clear stops before its step 3. -/
def Chip.abandon (c : Chip) (code : Nat) : Chip :=
  if code = 0x0100 then
    match c.rcp.staged with
    | some (_, .loaded) => if c.rcp.fallback = 0 then { c with rcp := { c.rcp with staged := none } } else c
    | _ => c
  else if code = 0x0602 then { c with evr := { c.evr with clear := none } }
  else c

/-- COMMAND_TIMEOUT (R470, R471): before the commit point the command is abandoned and completes with TIMEOUT. -/
def execCommandTimeout (q : QueueIx) (s : State) : Result :=
  s.onChip fun c =>
    let m := c.mq q
    match m.cmd with
    | some e =>
      if m.commit || c.mbx.fwState ≠ 1 then c
      else ((c.abandon (cmdOpcode e)).tally Src.mbxTimeout 0).complete q 2 0 0
    | none => c

/-- 48 bytes of a digest, 0 when there is none. -/
def digestBytes (d : Option (List Byte)) : List Byte := ((d.getD []) ++ List.replicate 48 0#8).take 48

/-- The attestation report's bytes 0 to 431 (R510). -/
def Chip.attestBody (c : Chip) (nonce : List Byte) : List Byte :=
  let act := c.rcp.active
  let flags := bit c.boot.debugOpen + 2 * bit c.flt.faultState + 4 * bit act.isSome + 8 * bit c.load.incoming.isSome
  let seqs := regPack c
  leBytes 4 0x54545441 ++ leBytes 2 1 ++ leBytes 2 flags
    ++ leBytes 8 Config.serial.toNat ++ leBytes 2 0x0F02 ++ leBytes 1 0xB1 ++ leBytes 1 0
    ++ leBytes 2 c.sys.position.toNat ++ leBytes 2 c.mbx.version.toNat
    ++ leBytes 4 ((c.boot.image.map fun i => i.version.toNat).getD 0) ++ leBytes 1 ((c.boot.image.map fun i => i.svn.toNat).getD 0)
    ++ leBytes 1 c.fuseSvn ++ leBytes 2 0 ++ leBytes 8 c.tick.count.toNat ++ nonce
    ++ beBytes 48 Config.romMeasurement.toNat ++ digestBytes (c.boot.image.map (·.measure))
    ++ digestBytes (act.map (·.measure)) ++ digestBytes (c.rcp.staged.map fun x => x.1.measure)
    ++ digestBytes (c.load.active.map (·.digest)) ++ digestBytes (c.load.incoming.map fun x => x.1.digest)
    ++ digestBytes (c.boot.owner[0].map sha384)
    ++ leBytes 4 (seqs.toNat % 2 ^ 32) ++ leBytes 4 (seqs.toNat / 2 ^ 32)
    ++ leBytes 1 ((act.map fun r => r.repoch.toNat).getD 0) ++ leBytes 1 ((c.load.active.map fun x => x.wepoch.toNat).getD 0)
    ++ leBytes 1 ((c.load.incoming.map fun x => x.1.wepoch.toNat).getD 0) ++ leBytes 1 0
    ++ leBytes 4 c.evr.pcycle.toNat ++ leBytes 4 c.evr.hours.toNat ++ leBytes 4 0

/-- SV_ATTEST (R509, R510): the signature's value is free (log entry 8). -/
def execSvAttest (q : QueueIx) (ok : Bool) (s : State) : Result :=
  s.onChip fun c => c.withCommand q 0x0800 fun e =>
    if !c.boot.idOk then c.reject q 1
    else
      let report := c.attestBody (bytesAt e 8 32) ++ beBytes 96 (Config.freeSignature c.free).toNat
      c.tickFree.writeHost q (cmdField e 40 8) report ok report.length

/-- The record of a plane, judged against the epoch table (R263): `bad`, its record or a row is uncorrectable. -/
def Chip.judgePlane (c : Chip) (e : Epoch) (t : TileIx) (n : Fin 17) (p : BitVec 2) (bad : Bool) : Chip :=
  let r := c.planeRec t n p
  let own := e.buddyOff || decide ((bankPlane e.bank p).toNat < 2)
  let fits := !bad && r.wepoch == e.wepoch && r.digest == BitVec.ofNat 64 (beNat (e.digest.drop 40))
  if own then
    if fits && (r.kind == 0x01 || r.kind == 0x03) then c
    else (c.modLoad fun l => { l with rewrite := l.rewrite ++ [(t, n, p)] }).tally Src.startVerify (physDetail t n p 0)
  else if fits && r.kind == 0x02 then c
  else c.modLoad fun l => { l with rebuildPending := true }

/-- What the check's reads found of an array's plane: the flipped cells by row, and whether margin read marks a column
(R78). -/
def Chip.startFindings (c : Chip) (reads : List RowSense) (t : TileIx) (n : Fin 17) : List (Nat × BitVec 1024) × Bool :=
  let mine := reads.filter fun x => x.tile == t && x.array == n
  (mine.map fun x => (x.row.toNat, colBits x.wrong), mine.any fun x => !(c.weakCols x.weak).isEmpty)

/-- The check of one array that is not retired (R263): plane C mod 4 is scrubbed with the outcomes of R93, and the records of
an array that serves are judged. -/
def Chip.startArray (c : Chip) (reads : List RowSense) (badRecs : List (TileIx × Fin 17 × BitVec 2)) (t : TileIx)
    (n : Fin 17) : Chip :=
  let p0 : BitVec 2 := BitVec.ofNat 2 c.evr.pcycle.toNat
  let f := c.startFindings reads t n
  let d := (c.planeFindings t n p0 f.1).2
  let judged := match c.load.active with
    | some e =>
      if ((c.tileMap t).logical n).isNone then c
      else ([0, 1, 2, 3] : List (BitVec 2)).foldl (fun (c : Chip) p =>
        c.judgePlane e t n p (badRecs.contains (t, n, p) || (p == p0 && d))) c
    | none => c
  judged.scrubOutcome t n p0 f.2 f.1

/-- A stand-in that had FAILED before the power cycle is free again when its check passes (R103; which check that is, the spec
does not say: DESIGN CHOICE, log entry 33). -/
def Chip.startStandin (c : Chip) (bad : Bool) (t : TileIx) : Chip :=
  let a := c.tileArr t
  if a.standin.state = .failed && a.recheck && !bad then (c.modTileArr t fun x => { x with recheck := false }).freeStandin t else c

/-- The check of one tile (R102, R103, R263): its arrays, its stand-in, and the reload of a stand-in that serves for good. -/
def Chip.startTile (c : Chip) (reads : List RowSense) (badRecs : List (TileIx × Fin 17 × BitVec 2)) (badStandins : List TileIx)
    (t : TileIx) : Chip :=
  let c := (List.finRange 17).foldl (fun (c : Chip) n =>
    if (c.tileMap t).isRetired n then c else c.startArray reads badRecs t n) (c.startStandin (badStandins.contains t) t)
  match (c.tileMap t).served with
  | some tg => if (c.tileArr t).standin.target = some tg then c else c.orderStandin t tg false
  | none => c

/-- START_UP_CHECK, boot step 7 (R263, R499). -/
def execStartUpCheck (reads : List RowSense) (badRecs : List (TileIx × Fin 17 × BitVec 2)) (badStandins : List TileIx)
    (s : State) : Result :=
  s.onDeviceBoth fun x =>
    if x.1.sys.bootStep ≠ 6 then x
    else
      let c := ((List.range 1024).map (BitVec.ofNat 10)).foldl (fun (c : Chip) t => c.startTile reads badRecs badStandins t) x.1
      settleRequests (({ c with sys := { c.sys with bootStep := 7 } } : Chip), x.2)

/-- A debug token verifies under the owner key over serial, scope and nonce (R514). -/
def Chip.tokenGood (c : Chip) (token : List Byte) : Bool :=
  match c.boot.owner[0], c.boot.dbgNonce with
  | some key, some n =>
    token.length == 105 && leAt token 0 8 == Config.serial.toNat
      && ecdsaVerify key (sha384 (ascii "FQP2-DEBUG" ++ token.take 9 ++ leBytes 16 n.toNat)) (token.drop 9)
  | _, _ => false

/-- Before debug opens the content keys and the prefix key are cleared and key transport is disabled (R514). -/
def Chip.openDebug (c : Chip) : Chip :=
  { c with
    load := { c.load with keyActive := none, keyIncoming := none, old := c.load.old.map fun x => (x.1, x.2.1, none) }
    serve := { c.serve with prefixKey := none }
    boot := { c.boot with ktEnabled := false, debugOpen := true } }

/-- DBG_TOKEN (R479, R514): either way the nonce has served. -/
def execDbgToken (token : List Byte) (s : State) : Result :=
  s.onDevice fun c =>
    if c.sys.bootStep = 0 then c
    else
      let lapsed : Chip := { c with boot := { c.boot with dbgNonce := none } }
      if c.tokenGood token then lapsed.openDebug.tally Src.debugUnlock 0 else lapsed.tally Src.debugReject 0

end Sys2Proof.Machine
end

