-- ==== Sys2Proof/Machine/ServeCmds.lean ====
section
/-! DEFINITION. Request, sampling-parameter and prefix commands (R272 to R290, R296, R306, R308, R313): meanings. -/

namespace Sys2Proof.Machine

/-- A serving command is rejected with a code of R313, which SYS_SERVE_STAT keeps. -/
def Chip.rejectServe (c : Chip) (q : QueueIx) (code : Nat) : Chip :=
  (c.modServe fun s => { s with lastReject := BitVec.ofNat 5 code }).reject q code

/-- Complete a command over chip and far memory. -/
def finish (x : Both) (f : Chip → Chip) : Both := (f x.1, x.2)

/-- Run a command in progress over chip and far memory, or change nothing. -/
def State.command (s : State) (q : QueueIx) (code : Nat) (f : List Byte → Both → Both) : Result :=
  s.onBoth fun c m => match c.command q code with
    | some e => f e (c, m)
    | none => (c, m)

/-- Zero a run of far-memory bytes. -/
def farClear (m : List Host.Cell) (a n : Nat) : List Host.Cell := m.filter fun p => !(decide (a ≤ p.1) && decide (p.1 < a + n))

/-- The regions of a serving area as intervals (R272). -/
def Area.regions (a : Area) : List (Nat × Nat) :=
  [(a.table, 512 * 1024), (a.pages, 128 * mib), (a.frames, a.frameCount * frameBytes), (a.prompt, a.promptUnits * 4096),
   (a.ring, a.ringSize * 16),
   (a.nodes, (a.nodeCount * 64 + mib - 1) / mib * mib + 512 * (2048 + a.nodeCount))].map fun r => (r.1, r.1 + r.2)

/-- The mirror region, once it is placed (R340). -/
def Chip.mirrorRegion (c : Chip) (frames : Nat) : List (Nat × Nat) :=
  match c.opt.mirrorBase with
  | some b =>
    let pairs := (c.servingRecipe.map fun r => r.placement.pairs.length).getD 0
    [(b, b + 128 * mib + (pairs + frames) * frameBytes)]
  | none => []

/-- The layout a configure command names (R272; log entry 11). -/
def areaOf (e : List Byte) : Area :=
  { table := cmdField e 8 8, pages := cmdField e 16 8, frames := cmdField e 24 8, prompt := cmdField e 32 8, ring := cmdField e 40 8
    frameCount := cmdField e 48 4, promptUnits := cmdField e 52 4, ringSize := cmdField e 56 4, nodes := cmdField e 60 2 * mib
    nodeCount := cmdField e 62 2 * 64 }

/-- A serving area obeys R272. -/
def Chip.areaValid (c : Chip) (a : Area) : Bool :=
  let rs := a.regions
  (rs.all fun r => r.1 % mib == 0 && decide (r.2 ≤ farSize)) && disjoint (rs ++ c.mirrorRegion a.frameCount)
    && rs.all fun r => !c.inImage r.1 (r.2 - r.1)

/-- No prefix node is left, and no page in use. -/
def Chip.clearPrefixes (c : Chip) : Chip :=
  let c := (List.range 2048).foldl (fun c n => c.bufPut (BitVec.ofNat 10 (16 + n / 128)) (BitVec.ofNat 11 (1920 + n % 128)) 0 false) c
  c.modServe fun s => { s with pairsUsed := [], framesUsed := [], owned := [], refs := [], promptUsed := [] }

/-- SV_SERVE_CONFIG (R272, R311): every entry FREE, no prefix node, an empty token ring. -/
def execSvServeConfig (q : QueueIx) (s : State) : Result :=
  s.command q 0x0300 fun e x =>
    let a := areaOf e
    if x.1.serve.used ≠ 0 || !x.1.areaValid a then finish x fun c => c.rejectServe q 8
    else
      let c := x.1.clearPrefixes.modServe fun s => { s with area := some a, head := 0, tail := 0 }
      (c.succeed q 0, farClear (farClear x.2 a.table (512 * 1024)) a.nodes (64 * a.nodeCount))

/-- The lowest run of `n` prompt-store units that is free. -/
def freeRun (used : List (Nat × Nat)) (total n : Nat) : Option Nat :=
  (List.range (total + 1 - n)).find? fun i => used.all fun u => !overlaps i (i + n) u.1 (u.1 + u.2)

/-- The entry a submission describes (R273, R478). -/
def submitted (e : List Byte) : Entry :=
  let v := cmdField e
  { state := stQueued, prio := BitVec.ofNat 8 (v 10 1), variant := BitVec.ofNat 8 (v 11 1), spidx := BitVec.ofNat 8 (v 12 1)
    flags := BitVec.ofNat 8 (v 13 1), draftMax := BitVec.ofNat 8 (v 14 1), promptLen := BitVec.ofNat 32 (v 16 4)
    maxLen := BitVec.ofNat 32 (v 20 4), shared := BitVec.ofNat 32 (v 24 4), prefixRef := BitVec.ofNat 32 (v 28 4)
    deadline := BitVec.ofNat 64 (v 32 8), seed := BitVec.ofNat 64 (v 40 8) }

/-- The first check of R275 that a submission fails, by its code of R313. -/
def submitFails (x : Both) (req : Nat) (n : Entry) : Option Nat :=
  let r := x.1.servingRecipe
  let maxLimit := (r.map (·.maxLimit)).getD 0
  if x.1.serve.area.isNone then some 8
  else if 4096 ≤ req || (getEntry x (BitVec.ofNat 12 req)).state != stFree then some 1
  else if !(r.any fun r => r.hasVariant n.variant.toNat) then some 2
  else if (sget (fun _ => none) x.1.serve.sparams n.spidx.toNat).isNone then some 3
  else if n.promptLen = 0 || decide (n.maxLen.toNat < n.promptLen.toNat) || decide (maxLimit < n.maxLen.toNat) then some 4
  else if decide (n.promptLen.toNat ≤ n.shared.toNat) || !prefixOk x n.prefixRef.toNat n.shared.toNat n.variant.toNat then some 5
  else none

/-- A queued entry counts in the REFS of the nodes it shares (R286). -/
def takeRefs (x : Both) (req : BitVec 12) (ns : List Nat) : Both :=
  let new := ns.filter fun n => !x.1.serve.refs.contains (req, n)
  new.foldl (fun x n => addRefs x n 1) (x.1.modServe fun s => { s with refs := s.refs ++ new.map fun n => (req, n) }, x.2)

/-- The entry is stored cold (R272, R275). -/
def storeNew (x : Both) (req : BitVec 12) (n : Entry) : Both :=
  let x := putEntry x req n
  takeRefs (x.1.modServe fun s => { s with used := s.used + 1 }, x.2) req (sharedNodes x n)

/-- SV_REQ_SUBMIT (R275): an entry-group device copies the prompt into its prompt store. -/
def execSvReqSubmit (q : QueueIx) (prompt : Option (List Byte)) (s : State) : Result :=
  s.command q 0x0301 fun e x =>
    let req := cmdField e 8 2
    let n := submitted e
    match submitFails x req n, x.1.serve.area with
    | some code, _ => finish x fun c => c.rejectServe q code
    | none, none => x
    | none, some a =>
      let ix : BitVec 12 := BitVec.ofNat 12 req
      if !x.1.isEntry then finish (storeNew x ix n) fun c => c.succeed q 0
      else match prompt with
        | none => finish x fun c => c.hostFetchFailed q
        | some bytes =>
          let units := (n.promptLen.toNat + 1023) / 1024
          match freeRun x.1.serve.promptUsed a.promptUnits units with
          | none => finish x fun c => c.rejectServe q 13
          | some u =>
            let far := farWrite x.2 (a.prompt + 4096 * u) (bytes.take (4 * n.promptLen.toNat))
            let c := x.1.modServe fun s => { s with promptUsed := s.promptUsed ++ [(u, units)] }
            finish (storeNew (c, far) ix { n with promptUnit := BitVec.ofNat 32 u }) fun c => c.succeed q 0

/-- The pages an admission reserves (R276, R282): pairs below page 64, frames from it on; `none` when they do not suffice. -/
def reservePages : List Nat → List Nat → List Nat → Nat → Nat → Option (List (Nat × Nat) × List Nat × List Nat)
  | [], ps, fs, _, _ => some ([], ps, fs)
  | p :: rest, ps, fs, nPairs, nFrames =>
    if p < 64 then
      match lowestFree ps nPairs with
      | some i => (reservePages rest (ps ++ [i]) fs nPairs nFrames).map fun r => ((p, i) :: r.1, r.2)
      | none => none
    else
      match lowestFree fs nFrames with
      | some i => (reservePages rest ps (fs ++ [i]) nPairs nFrames).map fun r => ((p, 2 ^ 31 + i) :: r.1, r.2)
      | none => none

/-- A page-table change is written, and goes to the buddy while protection is on (R338). -/
def setPage (x : Both) (req : BitVec 12) (page d : Nat) : Both :=
  finish (putPage x req page d) fun c => c.mirrorPage req d

/-- The four steps of an admission (R276, R288): `none` when pairs or frames do not suffice. -/
def admitEntry (x : Both) (a : Area) (req : BitVec 12) (e : Entry) : Option Both :=
  let first := e.shared.toNat / 128
  let last := (e.maxLen.toNat + 127) / 128
  let nPairs := (x.1.servingRecipe.map fun r => r.placement.pairs.length).getD 0
  let s := x.1.serve
  match reservePages ((List.range (last - first)).map (first + ·)) s.pairsUsed s.framesUsed nPairs a.frameCount with
  | none => none
  | some (pages, ps, fs) =>
    let chain := sharedNodes x e
    let x : Both := (x.1.modServe fun s => { s with
      pairsUsed := ps, framesUsed := fs, owned := s.owned ++ pages.map fun p => (req, p.1, p.2) }, x.2)
    let x := pages.foldl (fun x p => setPage x req p.1 p.2) x
    let x := chain.foldl (fun x n =>
      let b := nodeBytes x n
      if nodeDepth b < first then setPage x req (nodeDepth b) (nodePage b)
      else if nodeDepth b = first then
        -- the partly shared page is copied into the first private one
        match pages.head? with
        | some p => putPageRows x p.2 (pageRows x (nodePage b))
        | none => x
      else x) x
    let spec := e.flag 0 && x.1.isEntry
    some (makeHot x req { e with
      state := stReady, len := e.shared, wepoch := x.1.activeWepoch, repoch := x.1.activeRepoch
      draftCur := if spec then 1 else e.draftCur })

/-- SV_REQ_ADMIT (R276): on the scheduling authority the request becomes eligible from pass S, and its partners are told
(R271). -/
def execSvReqAdmit (q : QueueIx) (s : State) : Result :=
  s.command q 0x0302 fun e x =>
    let n := cmdField e 8 2
    let req : BitVec 12 := BitVec.ofNat 12 n
    match x.1.serve.area with
    | none => finish x fun c => c.rejectServe q 8
    | some a =>
      let v := getEntry x req
      if 4096 ≤ n then finish x fun c => c.rejectServe q 1
      else if v.state ≠ stQueued then finish x fun c => c.rejectServe q 9
      else if 256 ≤ x.1.serve.hot.length then finish x fun c => c.rejectServe q 6
      else match admitEntry x a req v with
        | none => finish x fun c => c.rejectServe q 7
        | some x =>
          if x.1.isAuthority then
            let sp := x.1.nextNumber.getD 0 + 64
            let c := x.1.modServe fun s => { s with changes := s.changes ++ [{ at' := sp, notice := .admission req }] }
            ((c.tell [4, 5] (.schedule (.admission req) sp)).succeed q 0, x.2)
          else finish x fun c => c.succeed q 0

/-- SV_REQ_CANCEL (R306, R308, R470, R478): RESULT holds F and S. -/
def execSvReqCancel (q : QueueIx) (s : State) : Result :=
  s.command q 0x0303 fun e x =>
    let n := cmdField e 8 2
    let req : BitVec 12 := BitVec.ofNat 12 n
    let st := (getEntry x req).state
    if !x.1.isAuthority then finish x fun c => c.complete q 0x10 0 0
    else if 4096 ≤ n then finish x fun c => c.rejectServe q 1
    else if st = stFree then finish x fun c => c.complete q 0x0D 0 0
    else if st = stDone || st = stFailed then finish x fun c => c.complete q 0x0B 0 0
    else if st = stCancelling || st = stCancelled then finish x fun c => c.complete q 0x0C 0 0
    else
      let r := takeCancel x req 3
      finish r.1 fun c => c.succeed q (r.2.1.toNat + 2 ^ 32 * r.2.2.toNat)

/-- A page is in use by an entry or a node. -/
def pageUsed (x : Both) (d : Nat) : Bool :=
  (x.1.serve.owned.any fun o => o.2.2 == d)
    || (List.range x.1.nodeLimit).any fun n => let b := nodeBytes x n; nodeValid b && nodePage b == d

/-- Free a page that nothing uses any more. -/
def freePage (x : Both) (d : Nat) : Both :=
  if pageUsed x d then x
  else if isFrame d then (x.1.modServe fun s => { s with framesUsed := s.framesUsed.filter (· != frameNo d) }, x.2)
  else (x.1.modServe fun s => { s with pairsUsed := s.pairsUsed.filter (· != pairNo d) }, x.2)

/-- Release an ended entry's resources, once (R278, R289). -/
def releaseEntry (x : Both) (req : BitVec 12) (e : Entry) : Both :=
  let mine := x.1.serve.owned.filter fun o => o.1 == req
  let nodes := x.1.serve.refs.filter fun r => r.1 == req
  let x : Both := (x.1.modServe fun s => { s with
    owned := s.owned.filter fun o => o.1 != req, refs := s.refs.filter fun r => r.1 != req
    promptUsed := if x.1.isEntry then s.promptUsed.filter fun u => u.1 != e.promptUnit.toNat else s.promptUsed
    eligible := s.eligible.filter (· != req), drafts := s.drafts.filter (·.1 != req), used := s.used - 1
    cands := s.cands.filter fun k => k.1 != req }, x.2)
  let x := mine.foldl (fun x o => freePage (setPage x req o.2.1 0) o.2.2) x
  let x := nodes.foldl (fun x r => addRefs x r.2 (-1)) x
  putEntry (x.1.setHot req none, x.2) req {}

/-- SV_REQ_RELEASE (R278). -/
def execSvReqRelease (q : QueueIx) (s : State) : Result :=
  s.command q 0x0304 fun e x =>
    let n := cmdField e 8 2
    let req : BitVec 12 := BitVec.ofNat 12 n
    let v := getEntry x req
    if 4096 ≤ n then finish x fun c => c.rejectServe q 1
    else if v.state = stFree then finish x fun c => c.complete q 0x0D 0 0
    else if v.state = stDone || v.state = stCancelled || v.state = stFailed then
      finish (releaseEntry x req v) fun c => c.succeed q 0
    else finish x fun c => c.rejectServe q 10

/-- SV_REQ_QUERY (R273, R469). -/
def execSvReqQuery (q : QueueIx) (ok : Bool) (s : State) : Result :=
  s.command q 0x0305 fun e x =>
    let n := cmdField e 8 2
    let v := getEntry x (BitVec.ofNat 12 n)
    if 4096 ≤ n then finish x fun c => c.rejectServe q 1
    else if v.state = stFree then finish x fun c => c.complete q 0x0D 0 0
    else finish x fun c => c.writeHost q (cmdField e 16 8) v.bytes ok 0

/-- A non-FREE entry names a parameter set (R296). -/
def setInUse (x : Both) (i : Nat) : Bool :=
  match x.1.serve.area with
  | none => false
  | some a =>
    (x.1.serve.hot.any fun h => h.2.any fun e => e.spidx.toNat == i && e.state != stFree)
      || (x.1.serve.used != 0 && (List.range 4096).any fun r =>
        (x.1.hotEntry (BitVec.ofNat 12 r)).isNone && farByte x.2 (a.table + 128 * r) != 0
          && (farByte x.2 (a.table + 128 * r + 3)).toNat == i)

/-- SV_SPARAM_WRITE (R296): a set that breaks a rule has a value out of its stated range. -/
def execSvSparamWrite (q : QueueIx) (set : Option (List Byte)) (s : State) : Result :=
  s.command q 0x0310 fun e x =>
    let i := cmdField e 8 1
    match set with
    | none => finish x fun c => c.hostFetchFailed q
    | some b =>
      if !setOk b then finish x fun c => c.complete q 4 0 0
      else if setInUse x i then finish x fun c => c.rejectServe q 11
      else finish x fun c => (c.modServe fun v => { v with sparams := sset (fun _ => none) v.sparams i (some b) }).succeed q 0

/-- 16 zero bytes, the parent's key of a first page (R285). -/
def zeroKey : List Byte := List.replicate 16 0

/-- SV_PREFIX_WALK (R287): RESULT holds m and the deepest node. Without a prefix key nothing matches. -/
def execSvPrefixWalk (q : QueueIx) (tokens : Option (List (BitVec 32))) (s : State) : Result :=
  s.command q 0x0321 fun e x =>
    match tokens with
    | none => finish x fun c => c.hostFetchFailed q
    | some ts =>
      let ts := ts.take (cmdField e 12 4)
      let r := match x.1.serve.prefixKey with
        | some k => walk x k (BitVec.ofNat 8 (cmdField e 8 1)) x.1.activeWepoch x.1.activeRepoch (ts.length / 128) 0 noNode zeroKey ts
        | none => (0, noNode)
      finish x fun c => c.succeed q (r.1 + 2 ^ 32 * r.2)

/-- The lowest free index of the region that a depth needs (R286). -/
def freeNode (x : Both) (depth : Nat) : Option Nat :=
  let lo := if depth < 2 then 0 else 2048
  let hi := if depth < 2 then 2048 else x.1.nodeLimit
  (List.range (hi - lo)).findSome? fun i => if nodeValid (nodeBytes x (lo + i)) then none else some (lo + i)

/-- A node's 64 bytes (R286); REFS starts at 0, NEXT at none. -/
def nodeOf (key : List Byte) (parent page depth : Nat) (e : Entry) (n : Nat) : List Byte :=
  key ++ leBytes 4 parent ++ leBytes 4 0 ++ leBytes 4 page ++ leBytes 2 depth ++ [e.variant, e.wepoch, e.repoch, 1]
    ++ leBytes 2 0 ++ leBytes 4 noNode ++ leBytes 4 n ++ List.replicate 20 0

/-- Insert pages one by one (R289): pages inserted, and whether an index was wanting. -/
def insertPages (req : BitVec 12) (e : Entry) (secret : List Byte) (a : Area) :
    Nat → Nat → Nat → List Byte → List (BitVec 32) → Both → Both × Nat × Option Nat
  | 0, p, last, _, _, x => (x, p, some last)
  | f + 1, p, last, pk, ts, x =>
    let page := ts.take 128
    let key := pageKey secret pk e.variant e.wepoch e.repoch page
    match findNode x key page with
    | some n => insertPages req e secret a f (p + 1) n key (ts.drop 128) (takeRefs x req [n])
    | none => match freeNode x p with
      | none => (x, p, none)
      | some n =>
        let x := putNode x n (nodeOf key last (getPage x req p) p e n)
        let x : Both := (x.1, farWrite x.2 (a.blockAddr n) (page.flatMap fun t => leBytes 4 t.toNat))
        let x := if last = noNode then x else addRefs x last 1
        -- the entry's own page is the node's from here on
        let x : Both := (x.1.modServe fun s => { s with owned := s.owned.filter fun o => !(o.1 == req && o.2.1 == p) }, x.2)
        insertPages req e secret a f (p + 1) n key (ts.drop 128) (takeRefs x req [n])

/-- Pin a node: NFLAGS bit 1, with its count in REFS (R286). -/
def pinNode (x : Both) (n : Nat) : Both :=
  let b := nodeBytes x n
  if nodePinned b then x else addRefs (putNode x n (setBytes b 33 (leBytes 1 (leAt b 33 1 + 2)))) n 1

/-- SV_PREFIX_INSERT (R286, R289): parameters PIN, REQ, n and the tokens (log entry 11). -/
def execSvPrefixInsert (q : QueueIx) (tokens : Option (List (BitVec 32))) (s : State) : Result :=
  s.command q 0x0322 fun e x =>
    let r := cmdField e 10 2
    let req : BitVec 12 := BitVec.ofNat 12 r
    let n := cmdField e 12 4
    let v := getEntry x req
    if 4096 ≤ r then finish x fun c => c.rejectServe q 1
    else if v.state = stFree then finish x fun c => c.complete q 0x0D 0 0
    else match x.1.serve.area, x.1.serve.prefixKey, tokens with
      | none, _, _ => finish x fun c => c.rejectServe q 8
      | some _, none, _ => finish x fun c => c.rejectServe q 5
      | some _, some _, none => finish x fun c => c.hostFetchFailed q
      | some a, some k, some ts =>
        if !(v.state = stDone || v.state = stGenerating) || decide (v.len.toNat / 128 < n) || decide (ts.length < 128 * n) then
          finish x fun c => c.complete q 4 0 0
        else
          match insertPages req v k a n 0 noNode zeroKey ts x with
          | (x, _, none) => finish x fun c => c.rejectServe q 14
          | (x, p, some last) =>
            let x := if cmdField e 8 1 = 1 && last != noNode then pinNode x last else x
            finish x fun c => c.succeed q p

/-- SV_PREFIX_EVICT (R289): the node, its page and its token block are free. -/
def execSvPrefixEvict (q : QueueIx) (s : State) : Result :=
  s.command q 0x0323 fun e x =>
    let n := cmdField e 8 4
    let b := nodeBytes x n
    if x.1.nodeLimit ≤ n || !nodeValid b then finish x fun c => c.complete q 0x0D 0 0
    else if nodeRefs b ≠ 0 then finish x fun c => c.rejectServe q 12
    else
      let x := putNode x n (List.replicate 64 0)
      let x := if nodeParent b = noNode then x else addRefs x (nodeParent b) (-1)
      finish (freePage x (nodePage b)) fun c => c.succeed q 0

end Sys2Proof.Machine
end

