-- ==== Sys2Proof/Machine/TickCmds.lean ====
section
/-! DEFINITION. The pace gate and the rack tick's alignment (R180 to R187): meanings. -/

namespace Sys2Proof.Machine

/-- u_q4 of a count (R180); a count of 0 gives none. -/
def uQ4 (n : Nat) : Option Nat := if n = 0 then none else some (divHalfEven 1_600_000_000 (32 * n))

/-- One sector's measurement (R180, R181): a result that does not fit the register is not stated by the spec, and is free. -/
def Chip.notePace (c : Chip) (s n : Nat) : Chip :=
  let q := uQ4 n
  let tooSlow := match q with
    | some q => decide (8400 < q)
    | none => true
  let fits := match q with
    | some q => decide (q < 65536)
    | none => false
  let v : BitVec 16 := BitVec.ofNat 16 (if fits then q.getD 0 else Config.freeNat c.free)
  let c := if fits then c else c.tickFree
  let c := { c with fab := { c.fab with pace := smod (fun _ => {}) c.fab.pace s fun x =>
    { slow := x.slow || tooSlow, uMax := if x.uMax < v then v else x.uMax, u := v } } }
  if tooSlow then c.tally Src.paceSlow (BitVec.ofNat 32 s) else c

/-- PACE_GATE_CLOSE (R180, R181, R398): once in a round. -/
def execPaceGateClose (counts : Vector Nat 16) (s : State) : Result :=
  s.onDevice fun c =>
    if !c.hk.inRound || c.hk.paceDone then c
    else
      let c : Chip := { c with hk := { c.hk with paceDone := true } }
      counts.toList.zipIdx.foldl (fun (c : Chip) x => c.notePace x.2 x.1) c

/-- The root is absent: its position is declared lost (R183, R345). -/
def Chip.rootAbsent (c : Chip) : Bool := decide ((0 : Pos) ∈ c.opt.lost)

/-- This device's place in the tick tree (R183, R187): the root is aligned with itself; (0, 0, 1) acts as root while the root
is absent. -/
def Chip.settleParent (c : Chip) : Chip :=
  let pos := c.sys.position.extractLsb' 0 8
  let port := parentPort c.sys.position
  let acts := pos == 1 && c.rootAbsent
  { c with tick := { c.tick with
      actingRoot := acts
      parent := if acts then 0 else match port with
        | some p => BitVec.ofNat 4 (p.toNat + 1)
        | none => 0
      holdover := if acts then false else c.tick.holdover
      aligned := c.tick.aligned || port.isNone } }

/-- The device's time in 1/64 ns, `frac` past the tick. -/
def Chip.time (c : Chip) (frac : BitVec 6) : Int := 64 * c.tick.count.toNat + frac.toNat

/-- A stamp without the port's own path delay (R184): of a send, as the set leaves the port; of an arrival, as it reached it. -/
def sendStamp (p : PortIx) (t : Int) : Int := t + Config.txDelay p.toNat
def arrivalStamp (p : PortIx) (t : Int) : Int := t - Config.rxDelay p.toNat

/-- TICK_EXCHANGE (R183, R184): the child sends its timestamp on the port to its parent, and keeps t₁. -/
def execTickExchange (frac : BitVec 6) (s : State) : Result :=
  s.onDevice fun c =>
    if !c.sys.posValid then c
    else
      let c := c.settleParent
      if c.tick.actingRoot then c
      else match parentPort c.sys.position with
        | some p =>
          if (c.port p).isUp then
            let t1 := sendStamp p (c.time frac)
            ({ c with tick := { c.tick with sent := some t1 } } : Chip).emit (.link p (.tstamp [t1]))
          else c
        | none => c

/-- TSTAMP_BLOCK (R184): a parent replies with its stamps t₂ and t₃, `turn` 1/64 ns after the arrival; a child ends the exchange at
t₄. The time is `frac` past the tick. -/
def execTstampBlock (p : PortIx) (reply : Option (Int × Int)) (frac : BitVec 6) (turn : Nat) (s : State) : Result :=
  s.onDevice fun c =>
    if !(c.port p).isUp then c
    else match reply with
      | none => c.emit (.link p (.tstamp [arrivalStamp p (c.time frac), sendStamp p (c.time frac + turn)]))
      | some (t2, t3) =>
        if !c.sys.posValid || c.tick.actingRoot || parentPort c.sys.position != some p then c
        else match c.tick.sent with
          | none => c
          | some t1 =>
            let twice := (t2 - t1) - (arrivalStamp p (c.time frac) - t3)
            { c with tick := { c.tick with
              offs := (c.tick.offs ++ [twice]).drop (c.tick.offs.length - 15), lastEx := c.tick.count, sent := none } }

/-- OFFSET_PS of the sum of 16 doubled offsets (R187): the average in ps, rounded half to even (log entry 23), saturating. -/
def offsetPs (sum : Int) : BitVec 16 :=
  BitVec.ofInt 16 (max (-32767) (min 32767 (intDivHalfEven (sum * 1000) 2048)))

/-- TICK_CORRECTION (R184 to R186): after 16 exchanges the offset is averaged; the first alignment steps the count, every
later one slews the rate by at most 50 ppm, by how much the spec leaves open. -/
def execTickCorrection (s : State) : Result :=
  s.onDevice fun c =>
    if c.tick.offs.length < 16 then c
    else
      let sum := c.tick.offs.foldl (· + ·) 0
      let t := { c.tick with offs := [], offsetPs := offsetPs sum, holdover := false, aligned := true }
      if c.tick.stepped then
        let rate : Int := Int.ofNat (Config.freeNat c.free % 100001) - 50000
        ({ c with tick := { t with ratePpb := rate } } : Chip).tickFree
      else { c with tick := { t with stepped := true, count := c.tick.count + BitVec.ofInt 64 (intDivHalfEven sum 2048) } }

/-- TICK_ALIGN_LOST (R186): no exchange has completed for 100 µs. -/
def execTickAlignLost (s : State) : Result :=
  s.onDevice fun c =>
    let root := c.tick.actingRoot || (c.sys.posValid && (parentPort c.sys.position).isNone)
    if c.tick.aligned && !root && decide (100000 ≤ (c.tick.count - c.tick.lastEx).toNat) then
      { c with tick := { c.tick with aligned := false } }
    else c

/-- The rack tick runs: powered, out of reset, REFCLK present (R182, R498). -/
def Chip.tickRuns (c : Chip) : Bool := c.pins.powered && c.pins.resetN && c.pins.refclk

/-- One nanosecond of the rack tick: it advances by 1, by 2 where the slewed rate has gained a tick on it, and not at all where
it has lost one (R182, R184). -/
def Tick.advance (t : Tick) : Tick :=
  let s := t.slewed + t.ratePpb
  if 1000000000 ≤ s then { t with count := t.count + 2, slewed := s - 1000000000 }
  else if s ≤ -1000000000 then { t with slewed := s + 1000000000 }
  else { t with count := t.count + 1, slewed := s }

/-- What an empty queue does: the rack tick advances where it runs, and a message crosses each link of the control mesh that has
one waiting (DESIGN CHOICE, log entry 6). -/
def Chip.idle (c : Chip) : Chip :=
  let c := if c.on then c.ctlStep else c
  if c.tickRuns then { c with tick := c.tick.advance } else c

end Sys2Proof.Machine
end

