-- ==== Sys2Proof/Machine/VectorCmds.lean ====
section
/-! DEFINITION. The rows of the vector unit (R138 to R146, R212 to R218, R42 to R58): meanings. Each issues its operation, which
runs at once or waits for an operand (`Machine/VecRun.lean`). -/

namespace Sys2Proof.Machine

/-- VU_LOAD (R35, R58, R59, R111, R146). -/
def execVuLoad (t : TileIx) (form : VForm) (dst : BitVec 4) (word : WordIx) (slot : Nat) (last : Bool) (s : State) : Result :=
  s.onDevice fun c => c.offerVec t 0 (.vuLoad t form dst word slot last)

/-- VU_STORE (R44, R58, R59, R146). -/
def execVuStore (t : TileIx) (form : VForm) (src : BitVec 4) (word : WordIx) (slot : Nat) (layer : BitVec 14) (s : State) : Result :=
  s.onDevice fun c => c.offerVec t 0 (.vuStore t form src word slot layer)

/-- VU_ARITH (R138). -/
def execVuArith (t : TileIx) (op : VArith) (dst a b : VecRef) (s : State) : Result :=
  s.onDevice fun c => c.offerVec t 0 (.vuArith t op dst a b)

/-- VU_CONVERT (R58). -/
def execVuConvert (t : TileIx) (toBf16 : Bool) (dst a : VecRef) (layer : BitVec 14) (s : State) : Result :=
  s.onDevice fun c => c.offerVec t 0 (.vuConvert t toBf16 dst a layer)

/-- VU_FMA (R138). -/
def execVuFma (t : TileIx) (dst a b d : VecRef) (s : State) : Result := s.onDevice fun c => c.offerVec t 0 (.vuFma t dst a b d)

/-- VU_EXP2 (R139). -/
def execVuExp2 (t : TileIx) (dst a : VecRef) (s : State) : Result := s.onDevice fun c => c.offerVec t 0 (.vuExp2 t dst a)

/-- VU_RECIPROCAL (R139). -/
def execVuReciprocal (t : TileIx) (dst a : VecRef) (s : State) : Result :=
  s.onDevice fun c => c.offerVec t 0 (.vuReciprocal t dst a)

/-- VU_RSQRT (R139). -/
def execVuRsqrt (t : TileIx) (dst a : VecRef) (s : State) : Result := s.onDevice fun c => c.offerVec t 0 (.vuRsqrt t dst a)

/-- VU_TREE_SUM (R140). -/
def execVuTreeSum (t : TileIx) (dst : VecRef) (src : List VecRef) (s : State) : Result :=
  s.onDevice fun c => c.offerVec t 0 (.vuTreeSum t dst src)

/-- VU_TREE_MAX (R140). -/
def execVuTreeMax (t : TileIx) (dst : VecRef) (src : List VecRef) (s : State) : Result :=
  s.onDevice fun c => c.offerVec t 0 (.vuTreeMax t dst src)

/-- VU_SOFTMAX (R141, R213). -/
def execVuSoftmax (t : TileIx) (part : SoftPart) (dst src : List VecRef) (scale : BitVec 32) (gate : Bool) (layer : BitVec 14)
    (s : State) : Result :=
  s.onDevice fun c => c.offerVec t 0 (.vuSoftmax t part dst src scale gate layer)

/-- VU_RMSNORM (R142, R146). -/
def execVuRmsnorm (t : TileIx) (part : RmsPart) (dst src g : List VecRef) (invN eps : BitVec 32) (s : State) : Result :=
  s.onDevice fun c => c.offerVec t 0 (.vuRmsnorm t part dst src g invN eps)

/-- VU_ROTARY (R143). -/
def execVuRotary (t : TileIx) (x y : VecRef) (pos : BitVec 32) (freq : List (BitVec 32)) (s : State) : Result :=
  s.onDevice fun c => c.offerVec t 0 (.vuRotary t x y pos freq)

/-- VU_SILU (R144). -/
def execVuSilu (t : TileIx) (dst a : VecRef) (s : State) : Result := s.onDevice fun c => c.offerVec t 0 (.vuSilu t dst a)

/-- VU_SWIGLU (R144). -/
def execVuSwiglu (t : TileIx) (dst a b : VecRef) (s : State) : Result := s.onDevice fun c => c.offerVec t 0 (.vuSwiglu t dst a b)

/-- VU_ROUTER_TOPK (R145, R212 to R218). -/
def execVuRouterTopk (t : TileIx) (scores : List VecRef) (layer : BitVec 14) (variant : BitVec 6) (passKind : BitVec 2) (s : State) :
    Result :=
  s.onDeviceBoth fun x => settleRequests (x.1.offerVec t 0 (.vuRouterTopk t scores layer variant passKind), x.2)

/-- VU_CANDIDATE_SELECT (R145, R297). -/
def execVuCandidateSelect (t : TileIx) (logits : List VecRef) (m k : Nat) (firstToken : BitVec 32) (layer : BitVec 14) (s : State) :
    Result :=
  s.onDevice fun c => c.offerVec t 0 (.vuCandidateSelect t logits m k firstToken layer)

/-- VU_A8_PREPARE (R42 to R49, R57, R59). -/
def execVuA8Prepare (t : TileIx) (src : A8Source) (tensor chunk : Nat) (layer : BitVec 14) (dst scaleDst laneDst : WordIx)
    (slot : Nat) (s : State) : Result :=
  s.onDevice fun c => c.offerVec t 0 (.vuA8Prepare t src tensor chunk layer dst scaleDst laneDst slot)

/-- VU_OUTLIER_LANE_ENTRY (R35, R52, R55, R80). -/
def execVuOutlierLaneEntry (t : TileIx) (a : ArrRef) (fmt : WFmt) (row : BitVec 8) (value : BitVec 16) (acc : BitVec 11)
    (pass : Pass) (layer : BitVec 14) (s : State) : Result :=
  s.onDevice fun c => c.offerVec t 0 (.vuOutlierLaneEntry t a fmt row value acc pass layer)

/-- VU_OUTPUT_CONVERT (R54, R56, R362). -/
def execVuOutputConvert (t : TileIx) (acc : BitVec 11) (tensor : Nat) (layer : BitVec 14) (pass : Pass) (dst : VecRef) (s : State) :
    Result :=
  s.onDevice fun c => c.offerVec t 0 (.vuOutputConvert t acc tensor layer pass dst)

end Sys2Proof.Machine
end

