-- ==== Sys2Proof/Machine/Dispatch.lean ====
section
/-! DEFINITION. One arm per command: its meaning. -/

namespace Sys2Proof.Machine

/-- The effect of a command on everything but the queue. -/
def exec (i : Instr) (s : State) : Host.Outcome State Fault Refusal :=
  match i with
  | .hostRegWrite m addr w data => Sys2Proof.Machine.execHostRegWrite m addr w data s
  | .unmappedAccess m addr size write => Sys2Proof.Machine.execUnmappedAccess m addr size write s
  | .subwordRegAccess m addr size write => Sys2Proof.Machine.execSubwordRegAccess m addr size write s
  | .hostBufferAccess m addr size write slot upset => Sys2Proof.Machine.execHostBufferAccess m addr size write slot upset s
  | .hostFarMemoryAccess m addr size write => Sys2Proof.Machine.execHostFarMemoryAccess m addr size write s
  | .tickNowRead m w => Sys2Proof.Machine.execTickNowRead m w s
  | .tickClrWrite m clr => Sys2Proof.Machine.execTickClrWrite m clr s
  | .fltSummaryClr m => Sys2Proof.Machine.execFltSummaryClr m s
  | .fltCtlEnter m => Sys2Proof.Machine.execFltCtlEnter m s
  | .fltSrcSevereClear m src meets => Sys2Proof.Machine.execFltSrcSevereClear m src meets s
  | .fltSrcStickyClear m src meets => Sys2Proof.Machine.execFltSrcStickyClear m src meets s
  | .evrFlushWrite m => Sys2Proof.Machine.execEvrFlushWrite m s
  | .portRetrainWrite m p => Sys2Proof.Machine.execPortRetrainWrite m p s
  | .portEnableWrite m p en => Sys2Proof.Machine.execPortEnableWrite m p en s
  | .tokenRingTailWrite m tail => Sys2Proof.Machine.execTokenRingTailWrite m tail s
  | .mbxCtlWrite m w data => Sys2Proof.Machine.execMbxCtlWrite m w data s
  | .mbxSqDoorbell m q tail => Sys2Proof.Machine.execMbxSqDoorbell m q tail s
  | .mbxCqDoorbell m q head => Sys2Proof.Machine.execMbxCqDoorbell m q head s
  | .sidebandDoorbell m q cq value => Sys2Proof.Machine.execSidebandDoorbell m q cq value s
  | .bootLenWrite m w data => Sys2Proof.Machine.execBootLenWrite m w data s
  | .commandTake slot upset => Sys2Proof.Machine.execCommandTake slot upset s
  | .coalesceIntervalEnd q => Sys2Proof.Machine.execCoalesceIntervalEnd q s
  | .commandTimeout q => Sys2Proof.Machine.execCommandTimeout q s
  | .svHello q => Sys2Proof.Machine.execSvHello q s
  | .svIdentify q ok => Sys2Proof.Machine.execSvIdentify q ok s
  | .svRecipeLoad q => Sys2Proof.Machine.execSvRecipeLoad q s
  | .recipeLoadDone fetched => Sys2Proof.Machine.execRecipeLoadDone fetched s
  | .svRecipeArm q => Sys2Proof.Machine.execSvRecipeArm q s
  | .svRecipeDisarm q => Sys2Proof.Machine.execSvRecipeDisarm q s
  | .svRecipeDiscard q => Sys2Proof.Machine.execSvRecipeDiscard q s
  | .svRecipeQuery q ok => Sys2Proof.Machine.execSvRecipeQuery q ok s
  | .svKeyChallenge q ok => Sys2Proof.Machine.execSvKeyChallenge q ok s
  | .svKeyInstall q blob => Sys2Proof.Machine.execSvKeyInstall q blob s
  | .svOwnerInstall q record => Sys2Proof.Machine.execSvOwnerInstall q record s
  | .svWeightPlan q plan => Sys2Proof.Machine.execSvWeightPlan q plan s
  | .svPlanQuery q ok => Sys2Proof.Machine.execSvPlanQuery q ok s
  | .svEpochArm q => Sys2Proof.Machine.execSvEpochArm q s
  | .svEpochDisarm q => Sys2Proof.Machine.execSvEpochDisarm q s
  | .svServeConfig q => Sys2Proof.Machine.execSvServeConfig q s
  | .svReqSubmit q prompt => Sys2Proof.Machine.execSvReqSubmit q prompt s
  | .svReqAdmit q => Sys2Proof.Machine.execSvReqAdmit q s
  | .svReqCancel q => Sys2Proof.Machine.execSvReqCancel q s
  | .svReqRelease q => Sys2Proof.Machine.execSvReqRelease q s
  | .svReqQuery q ok => Sys2Proof.Machine.execSvReqQuery q ok s
  | .svSparamWrite q set => Sys2Proof.Machine.execSvSparamWrite q set s
  | .svPrefixKey q blob => Sys2Proof.Machine.execSvPrefixKey q blob s
  | .svPrefixWalk q tokens => Sys2Proof.Machine.execSvPrefixWalk q tokens s
  | .svPrefixInsert q tokens => Sys2Proof.Machine.execSvPrefixInsert q tokens s
  | .svPrefixEvict q => Sys2Proof.Machine.execSvPrefixEvict q s
  | .svPackInstall q => Sys2Proof.Machine.execSvPackInstall q s
  | .packLoadDone fetched => Sys2Proof.Machine.execPackLoadDone fetched s
  | .svFaultQuery q ok => Sys2Proof.Machine.execSvFaultQuery q ok s
  | .svFaultClear q meets => Sys2Proof.Machine.execSvFaultClear q meets s
  | .svEvrRead q ok => Sys2Proof.Machine.execSvEvrRead q ok s
  | .svEvrChallenge q ok => Sys2Proof.Machine.execSvEvrChallenge q ok s
  | .svEvrClear q sig => Sys2Proof.Machine.execSvEvrClear q sig s
  | .svCalRun q => Sys2Proof.Machine.execSvCalRun q s
  | .svCalConfig q => Sys2Proof.Machine.execSvCalConfig q s
  | .svThermConfig q => Sys2Proof.Machine.execSvThermConfig q s
  | .svHkConfig q => Sys2Proof.Machine.execSvHkConfig q s
  | .svHkRead q code engineBusy => Sys2Proof.Machine.execSvHkRead q code engineBusy s
  | .svAttest q ok => Sys2Proof.Machine.execSvAttest q ok s
  | .svCertRead q ok => Sys2Proof.Machine.execSvCertRead q ok s
  | .svFwUpdate q => Sys2Proof.Machine.execSvFwUpdate q s
  | .fwUpdateDone fetched => Sys2Proof.Machine.execFwUpdateDone fetched s
  | .svFwCommit q programmed => Sys2Proof.Machine.execSvFwCommit q programmed s
  | .svLinkQuery q ok => Sys2Proof.Machine.execSvLinkQuery q ok s
  | .svPosAssign q => Sys2Proof.Machine.execSvPosAssign q s
  | .svLinkConfig q => Sys2Proof.Machine.execSvLinkConfig q s
  | .svKvRestore q => Sys2Proof.Machine.execSvKvRestore q s
  | .kvRestoreComplete => Sys2Proof.Machine.execKvRestoreComplete s
  | .svReturnArm q => Sys2Proof.Machine.execSvReturnArm q s
  | .svReset q => Sys2Proof.Machine.execSvReset q s
  | .mgmtRestartComplete => Sys2Proof.Machine.execMgmtRestartComplete s
  | .arrayOpIssue t slot => Sys2Proof.Machine.execArrayOpIssue t slot s
  | .beatAdmit sector => Sys2Proof.Machine.execBeatAdmit sector s
  | .proofStart sector => Sys2Proof.Machine.execProofStart sector s
  | .proofEnd sector => Sys2Proof.Machine.execProofEnd sector s
  | .beatComplete t a wrong => Sys2Proof.Machine.execBeatComplete t a wrong s
  | .zeroBeatComplete t a => Sys2Proof.Machine.execZeroBeatComplete t a s
  | .planeSelectComplete t n => Sys2Proof.Machine.execPlaneSelectComplete t n s
  | .rowReadComplete t a wrong weak => Sys2Proof.Machine.execRowReadComplete t a wrong weak s
  | .sRowWriteComplete t a => Sys2Proof.Machine.execSRowWriteComplete t a s
  | .planeWriteSlotGrant => Sys2Proof.Machine.execPlaneWriteSlotGrant s
  | .planeWriteComplete t n plane trouble => Sys2Proof.Machine.execPlaneWriteComplete t n plane trouble s
  | .planeWriteFail t n plane trouble => Sys2Proof.Machine.execPlaneWriteFail t n plane trouble s
  | .scrubSlotRead t isS wrong weak => Sys2Proof.Machine.execScrubSlotRead t isS wrong weak s
  | .scrubLate t isS => Sys2Proof.Machine.execScrubLate t isS s
  | .refreshStart t => Sys2Proof.Machine.execRefreshStart t s
  | .standin t target => Sys2Proof.Machine.execStandin t target s
  | .bufferRead t w cls last slot upset mates => Sys2Proof.Machine.execBufferRead t w cls last slot upset mates s
  | .bufferWrite t w cls data poison slot mates => Sys2Proof.Machine.execBufferWrite t w cls data poison slot mates s
  | .bufferPartialWrite t w offset bytes slot upset mates => Sys2Proof.Machine.execBufferPartialWrite t w offset bytes slot upset mates s
  | .correctedWriteBack t w => Sys2Proof.Machine.execCorrectedWriteBack t w s
  | .fill t start length value so pass => Sys2Proof.Machine.execFill t start length value so pass s
  | .copy t src dst length so pass => Sys2Proof.Machine.execCopy t src dst length so pass s
  | .fillCopyDone t slot => Sys2Proof.Machine.execFillCopyDone t slot s
  | .soSet ix count limit tclass auto mates => Sys2Proof.Machine.execSoSet ix count limit tclass auto mates s
  | .soSignal ix n mates => Sys2Proof.Machine.execSoSignal ix n mates s
  | .soSignalErr ix code mates => Sys2Proof.Machine.execSoSignalErr ix code mates s
  | .soWait ix g => Sys2Proof.Machine.execSoWait ix g s
  | .soTimerExpiry ix mates => Sys2Proof.Machine.execSoTimerExpiry ix mates s
  | .strobe => Sys2Proof.Machine.execStrobe s
  | .vuLoad t form dst word slot last => Sys2Proof.Machine.execVuLoad t form dst word slot last s
  | .vuStore t form src word slot layer => Sys2Proof.Machine.execVuStore t form src word slot layer s
  | .vuArith t op dst a b => Sys2Proof.Machine.execVuArith t op dst a b s
  | .vuConvert t toBf16 dst a layer => Sys2Proof.Machine.execVuConvert t toBf16 dst a layer s
  | .vuFma t dst a b c => Sys2Proof.Machine.execVuFma t dst a b c s
  | .vuExp2 t dst a => Sys2Proof.Machine.execVuExp2 t dst a s
  | .vuReciprocal t dst a => Sys2Proof.Machine.execVuReciprocal t dst a s
  | .vuRsqrt t dst a => Sys2Proof.Machine.execVuRsqrt t dst a s
  | .vuTreeSum t dst src => Sys2Proof.Machine.execVuTreeSum t dst src s
  | .vuTreeMax t dst src => Sys2Proof.Machine.execVuTreeMax t dst src s
  | .vuSoftmax t part dst src c gate layer => Sys2Proof.Machine.execVuSoftmax t part dst src c gate layer s
  | .vuRmsnorm t part dst src g invN eps => Sys2Proof.Machine.execVuRmsnorm t part dst src g invN eps s
  | .vuRotary t x y pos freq => Sys2Proof.Machine.execVuRotary t x y pos freq s
  | .vuSilu t dst a => Sys2Proof.Machine.execVuSilu t dst a s
  | .vuSwiglu t dst a b => Sys2Proof.Machine.execVuSwiglu t dst a b s
  | .vuRouterTopk t scores layer variant passKind => Sys2Proof.Machine.execVuRouterTopk t scores layer variant passKind s
  | .vuCandidateSelect t logits m k firstToken layer => Sys2Proof.Machine.execVuCandidateSelect t logits m k firstToken layer s
  | .vuA8Prepare t src tensor chunk layer dst scaleDst laneDst slot => Sys2Proof.Machine.execVuA8Prepare t src tensor chunk layer dst scaleDst laneDst slot s
  | .vuOutlierLaneEntry t a fmt row value acc pass layer => Sys2Proof.Machine.execVuOutlierLaneEntry t a fmt row value acc pass layer s
  | .vuOutputConvert t acc tensor layer pass dst => Sys2Proof.Machine.execVuOutputConvert t acc tensor layer pass dst s
  | .meshCrumbAccept t from' c positions wrong => Sys2Proof.Machine.execMeshCrumbAccept t from' c positions wrong s
  | .meshHopTimeout t out => Sys2Proof.Machine.execMeshHopTimeout t out s
  | .activationCrumb t c positions last slot => Sys2Proof.Machine.execActivationCrumb t c positions last slot s
  | .kvRowCrumb t c slot => Sys2Proof.Machine.execKvRowCrumb t c slot s
  | .logitCandidateCrumb slice c => Sys2Proof.Machine.execLogitCandidateCrumb slice c s
  | .accumulatorCrumb t first c => Sys2Proof.Machine.execAccumulatorCrumb t first c s
  | .weightChunkCrumb t c => Sys2Proof.Machine.execWeightChunkCrumb t c s
  | .farMemoryTransferCrumb fm addr write c => Sys2Proof.Machine.execFarMemoryTransferCrumb fm addr write c s
  | .sprinkleCrumb t loop sent c => Sys2Proof.Machine.execSprinkleCrumb t loop sent c s
  | .windowOpen t w => Sys2Proof.Machine.execWindowOpen t w s
  | .windowClose t w => Sys2Proof.Machine.execWindowClose t w s
  | .windowWrite t c slot turns => Sys2Proof.Machine.execWindowWrite t c slot turns s
  | .windowAck t w count epoch status offset => Sys2Proof.Machine.execWindowAck t w count epoch status offset s
  | .custodyAck p pass position toBuddy => Sys2Proof.Machine.execCustodyAck p pass position toBuddy s
  | .hostTunnelCrumb p c => Sys2Proof.Machine.execHostTunnelCrumb p c s
  | .tunnelFrameSend queue frame => Sys2Proof.Machine.execTunnelFrameSend queue frame s
  | .halt scope => Sys2Proof.Machine.execHalt scope s
  | .cancel req pass variant => Sys2Proof.Machine.execCancel req pass variant s
  | .cancelCrumb p req pass variant => Sys2Proof.Machine.execCancelCrumb p req pass variant s
  | .signal ix n poison mates => Sys2Proof.Machine.execSignal ix n poison mates s
  | .signalErr ix code mates => Sys2Proof.Machine.execSignalErr ix code mates s
  | .set ix count limit tclass auto mates => Sys2Proof.Machine.execSet ix count limit tclass auto mates s
  | .fault t src info => Sys2Proof.Machine.execFault t src info s
  | .numeric t layer flags => Sys2Proof.Machine.execNumeric t layer flags s
  | .mgmtRd t offset => Sys2Proof.Machine.execMgmtRd t offset s
  | .mgmtWr t offset data => Sys2Proof.Machine.execMgmtWr t offset data s
  | .mgmtRsp t data => Sys2Proof.Machine.execMgmtRsp t data s
  | .paceGateClose counts => Sys2Proof.Machine.execPaceGateClose counts s
  | .tickExchange frac => Sys2Proof.Machine.execTickExchange frac s
  | .tstampBlock p reply frac turn => Sys2Proof.Machine.execTstampBlock p reply frac turn s
  | .tickCorrection => Sys2Proof.Machine.execTickCorrection s
  | .tickAlignLost => Sys2Proof.Machine.execTickAlignLost s
  | .recipeDrainTimeout => Sys2Proof.Machine.execRecipeDrainTimeout s
  | .passStart => Sys2Proof.Machine.execPassStart s
  | .schedulingNotice n start => Sys2Proof.Machine.execSchedulingNotice n start s
  | .kvFailureNotice req => Sys2Proof.Machine.execKvFailureNotice req s
  | .deadlineMiss req => Sys2Proof.Machine.execDeadlineMiss req s
  | .chunkFetchDone wepoch ix image => Sys2Proof.Machine.execChunkFetchDone wepoch ix image s
  | .chunkFetchTimeout wepoch ix => Sys2Proof.Machine.execChunkFetchTimeout wepoch ix s
  | .buddyProtectionClearNotice => Sys2Proof.Machine.execBuddyProtectionClearNotice s
  | .buddyRebuildNotice => Sys2Proof.Machine.execBuddyRebuildNotice s
  | .lightDetect p => Sys2Proof.Machine.execLightDetect p s
  | .trainBlock p b => Sys2Proof.Machine.execTrainBlock p b s
  | .trainingTimeout p => Sys2Proof.Machine.execTrainingTimeout p s
  | .trainingRetry p => Sys2Proof.Machine.execTrainingRetry p s
  | .crumbBlock p bytes => Sys2Proof.Machine.execCrumbBlock p bytes s
  | .retryBlock p lseq => Sys2Proof.Machine.execRetryBlock p lseq s
  | .retryRepeat p => Sys2Proof.Machine.execRetryRepeat p s
  | .idleBlock p b => Sys2Proof.Machine.execIdleBlock p b s
  | .idleTimeout p => Sys2Proof.Machine.execIdleTimeout p s
  | .haltBlock p reason => Sys2Proof.Machine.execHaltBlock p reason s
  | .lightLoss p => Sys2Proof.Machine.execLightLoss p s
  | .laneFault p lane => Sys2Proof.Machine.execLaneFault p lane s
  | .lanemapBlock p map phase lseq => Sys2Proof.Machine.execLanemapBlock p map phase lseq s
  | .lanemapRepeat p => Sys2Proof.Machine.execLanemapRepeat p s
  | .laneReinstate p lane => Sys2Proof.Machine.execLaneReinstate p lane s
  | .portDownNotice p position reporter => Sys2Proof.Machine.execPortDownNotice p position reporter s
  | .lossReportWindow position => Sys2Proof.Machine.execLossReportWindow position s
  | .buddySectionLoaded => Sys2Proof.Machine.execBuddySectionLoaded s
  | .takeoverAnnounce position t => Sys2Proof.Machine.execTakeoverAnnounce position t s
  | .takeoverLate => Sys2Proof.Machine.execTakeoverLate s
  | .mirrorRequest oldest count => Sys2Proof.Machine.execMirrorRequest oldest count s
  | .custodyReplayRequest p m => Sys2Proof.Machine.execCustodyReplayRequest p m s
  | .sprinkleRun t entry bound wrong => Sys2Proof.Machine.execSprinkleRun t entry bound wrong s
  | .sprinkleCoverage t target => Sys2Proof.Machine.execSprinkleCoverage t target s
  | .statWindowClose t target layer => Sys2Proof.Machine.execStatWindowClose t target layer s
  | .faultEvent src info => Sys2Proof.Machine.execFaultEvent src info s
  | .reactionEnd => Sys2Proof.Machine.execReactionEnd s
  | .standinHoldTimeout t target => Sys2Proof.Machine.execStandinHoldTimeout t target s
  | .beatHandshakeTimeout t a => Sys2Proof.Machine.execBeatHandshakeTimeout t a s
  | .mgmtWatchdog measured => Sys2Proof.Machine.execMgmtWatchdog measured s
  | .mgmtEccError corrected measured => Sys2Proof.Machine.execMgmtEccError corrected measured s
  | .aliveToggle => Sys2Proof.Machine.execAliveToggle s
  | .selfReset => Sys2Proof.Machine.execSelfReset s
  | .hkRoundStart => Sys2Proof.Machine.execHkRoundStart s
  | .hkConversion b channel codes => Sys2Proof.Machine.execHkConversion b channel codes s
  | .thermalGateClose counts => Sys2Proof.Machine.execThermalGateClose counts s
  | .thermalLevelEvaluate => Sys2Proof.Machine.execThermalLevelEvaluate s
  | .hkScanEnd => Sys2Proof.Machine.execHkScanEnd s
  | .openWireTest b pullUp pullDown => Sys2Proof.Machine.execOpenWireTest b pullUp pullDown s
  | .hkRoundEnd => Sys2Proof.Machine.execHkRoundEnd s
  | .urgentConversion b channel code calibration other => Sys2Proof.Machine.execUrgentConversion b channel code calibration other s
  | .calItemMeasure region item ms codes => Sys2Proof.Machine.execCalItemMeasure region item ms codes s
  | .calTrimStep p => Sys2Proof.Machine.execCalTrimStep p s
  | .eyeSweep p lane mui => Sys2Proof.Machine.execEyeSweep p lane mui s
  | .thermtripComparatorTrip => Sys2Proof.Machine.execThermtripComparatorTrip s
  | .evrSlotWriteDone bank ok => Sys2Proof.Machine.execEvrSlotWriteDone bank ok s
  | .evrClearDone => Sys2Proof.Machine.execEvrClearDone s
  | .evrScanComplete => Sys2Proof.Machine.execEvrScanComplete s
  | .evrPwrfailCutoff => Sys2Proof.Machine.execEvrPwrfailCutoff s
  | .hoursAdvance => Sys2Proof.Machine.execHoursAdvance s
  | .resetNAssert => Sys2Proof.Machine.execResetNAssert s
  | .resetNRelease => Sys2Proof.Machine.execResetNRelease s
  | .pwrfailNAssert => Sys2Proof.Machine.execPwrfailNAssert s
  | .pwrfailNRelease => Sys2Proof.Machine.execPwrfailNRelease s
  | .refclkLoss => Sys2Proof.Machine.execRefclkLoss s
  | .bootFuseLoad corrected uncorrectable => Sys2Proof.Machine.execBootFuseLoad corrected uncorrectable s
  | .bootRomInit selfTestOk modules => Sys2Proof.Machine.execBootRomInit selfTestOk modules s
  | .firmwareFetchDone image => Sys2Proof.Machine.execFirmwareFetchDone image s
  | .bootPortStepEnd => Sys2Proof.Machine.execBootPortStepEnd s
  | .startUpCheck reads badRecs badStandins => Sys2Proof.Machine.execStartUpCheck reads badRecs badStandins s
  | .keyDerivation => Sys2Proof.Machine.execKeyDerivation s
  | .bootComplete => Sys2Proof.Machine.execBootComplete s
  | .i3cDynamicAddress setdasa addr => Sys2Proof.Machine.execI3cDynamicAddress setdasa addr s
  | .i3cPrivateWrite selector => Sys2Proof.Machine.execI3cPrivateWrite selector s
  | .i3cPrivateRead => Sys2Proof.Machine.execI3cPrivateRead s
  | .i3cResetRequest => Sys2Proof.Machine.execI3cResetRequest s
  | .jtagBypass tdi => Sys2Proof.Machine.execJtagBypass tdi s
  | .jtagIdcode => Sys2Proof.Machine.execJtagIdcode s
  | .jtagSamplePreload preload => Sys2Proof.Machine.execJtagSamplePreload preload s
  | .jtagExtest drive => Sys2Proof.Machine.execJtagExtest drive s
  | .dbgChallenge => Sys2Proof.Machine.execDbgChallenge s
  | .dbgToken token => Sys2Proof.Machine.execDbgToken token s
  | .refclkReturn => Sys2Proof.Machine.execRefclkReturn s
  | .powerRemoved => Sys2Proof.Machine.execPowerRemoved s
  | .powerApplied => Sys2Proof.Machine.execPowerApplied s
  | .ucieModuleDown m => Sys2Proof.Machine.execUcieModuleDown m s
  | .ucieModuleUp m => Sys2Proof.Machine.execUcieModuleUp m s

end Sys2Proof.Machine
end

