-- ==== Sys2Proof/Safety.lean ====
section
/-! DEFINITION. What a safe run is, and what a command may change, in the terms the claims use. -/

namespace Sys2Proof.Machine

/-- A step answers a next state. -/
def Completes (r : Result) : Prop := ∃ t, r = .next t

/-- Far memory is in its one canonical form. -/
def FarWf (s : State) : Prop := Memory.wf s.far = true

/-- A run of `n` steps from a state ends neither in a fault nor in a refusal. -/
def SafeRun (n : Nat) (s : State) : Prop := Completes (Host.Core.run ⟨State, Fault, Refusal, step, State.reset⟩ n s)

/-- The parts of the block that a frame names: the fields of `Chip`. -/
inductive Part where
  | sys | flt | hk | cal | evr | mbx | boot | pins | side | tick | arr | buf | so | vu | fab | rcp | load | serve | spk | opt
  | out | free
  deriving DecidableEq, Repr

/-- A part of the block is the same in two states. -/
def Part.same (p : Part) (a b : Chip) : Prop :=
  match p with
  | .sys => b.sys = a.sys
  | .flt => b.flt = a.flt
  | .hk => b.hk = a.hk
  | .cal => b.cal = a.cal
  | .evr => b.evr = a.evr
  | .mbx => b.mbx = a.mbx
  | .boot => b.boot = a.boot
  | .pins => b.pins = a.pins
  | .side => b.side = a.side
  | .tick => b.tick = a.tick
  | .arr => b.arr = a.arr
  | .buf => b.buf = a.buf
  | .so => b.so = a.so
  | .vu => b.vu = a.vu
  | .fab => b.fab = a.fab
  | .rcp => b.rcp = a.rcp
  | .load => b.load = a.load
  | .serve => b.serve = a.serve
  | .spk => b.spk = a.spk
  | .opt => b.opt = a.opt
  | .out => b.out = a.out
  | .free => b.free = a.free

/-- Nothing of the block changes but the parts listed. -/
def Chip.Only (ps : List Part) (a b : Chip) : Prop := ∀ p, p ∉ ps → p.same a b

/-- Nothing changes but the listed parts of the block: neither another part, nor a byte of far memory, nor the queue. -/
def Only (ps : List Part) (s t : State) : Prop :=
  t.far = s.far ∧ t.pending = s.pending ∧ s.chip.Only ps t.chip

/-- The parts that a report to the fault collector may change, whatever action its source is set to (R376 to R387): the
collector, the recorder, stand-ins and their requests, halts, the ports' light, runs of calibration, ALIVE and a pending
self-reset. -/
def reportParts : List Part := [.flt, .evr, .arr, .load, .fab, .opt, .cal, .pins, .boot, .out]

/-- A source of the collector has taken one event (R376, R378): TOTAL counts it, STICKY is set, and the first event since
STICKY was last cleared keeps its detail. -/
def Counted (a b : Chip) (src : BitVec 8) (detail : BitVec 32) : Prop :=
  (b.fltSrc src.toNat).total = satAdd (a.fltSrc src.toNat).total 1 ∧ (b.fltSrc src.toNat).sticky = true
    ∧ ((a.fltSrc src.toNat).sticky = false → (b.fltSrc src.toNat).detail = detail)
    ∧ ((a.fltSrc src.toNat).sticky = true → (b.fltSrc src.toNat).detail = (a.fltSrc src.toNat).detail)

/-- After a chip's event, all of the mesh that can go on does, and rows that stand-ins wait for are served (R100, R155). -/
def State.goesOn (s : State) (v : Chip) : State :=
  let r := settleRequests (v.advanceMesh, s.far)
  { s with chip := r.1, far := r.2 }

/-- After a chip's event, stand-ins and plane writes that ask for rows are served as far as the load engine can (R100, R249). -/
def State.settled (s : State) (v : Chip) : State :=
  let r := settleRequests (v, s.far)
  { s with chip := r.1, far := r.2 }

/-- The sources whose events other events bring about: records dropped (R441) and stand-ins that are taken (R101). -/
def secondary (src : BitVec 8) : Bool := src == Src.evrDrop || src == Src.standinExhausted

/-- The 16 bytes of a completion entry (R460). -/
def cqEntry (cid status sqHead reason flags result : Nat) : List Byte :=
  leBytes 2 cid ++ leBytes 2 status ++ leBytes 1 sqHead ++ leBytes 1 reason ++ leBytes 1 flags ++ [0#8] ++ leBytes 8 result

/-- The word of queue q's completion ring with an entry put at the tail: the other three entries as the management complex has
them (R460). -/
def cqImage (m : MbxQueue) (entry : List Byte) : BitVec 512 :=
  wordOfBytes (setBytes m.cqBytes (16 * (m.cqTail.toNat % 4)) entry)

/-- The entry that ends the command `e` on a queue, with status, reason, commit mark and result (R460). -/
def finalEntry (m : MbxQueue) (e : List Byte) (status reason : Nat) (committed : Bool) (result : Nat) : List Byte :=
  cqEntry (cmdCid e) status m.sqHead.toNat reason (bit m.phase + 2 * bit committed) result

/-- The command in progress on a queue has completed (R460, R461): one entry stands at the old tail with its status,
reason, result and phase, the tail and counts advance, no command is in progress; no other queue and no other buffer word
changes. -/
def Completed (a b : Chip) (q : QueueIx) (e : List Byte) (status reason : Nat) (committed : Bool) (result : Nat) : Prop :=
  let m := a.mq q
  let n := b.mq q
  let word := cqImage m (finalEntry m e status reason committed result)
  n.cmd = none ∧ n.commit = false ∧ n.cqTail = m.cqTail + 1 ∧ n.used = m.used + 1 ∧ n.completed = m.completed + 1
    ∧ n.phase = (if m.cqTail = 255 then !m.phase else m.phase)
    ∧ n.sqHead = m.sqHead ∧ n.sqTail = m.sqTail ∧ n.cqHead = m.cqHead
    ∧ n.ring = sset (fun _ => 0) m.ring (m.cqTail.toNat / 4) word
    ∧ b.bufWord (q.setWidth 10) m.cqWord = { data := word, check := check512 word, poison := false }
    ∧ (∀ t w, ¬ (t = q.setWidth 10 ∧ w = m.cqWord) → b.bufWord t w = a.bufWord t w)
    ∧ (∀ k, k ≠ q → b.mq k = a.mq k)

/-- The parts every completion changes. -/
def mailParts : List Part := [.mbx, .buf, .out]

/-- What a reset leaves of the block (R492, R493): everything volatile at its reset value, the nonvolatile stores as they
were, a stand-in that has FAILED stays so (R103); counters of free values and the log of outputs are the model's own. -/
def WipedByReset (power : Bool) (s u : State) : Prop :=
  u.far = [] ∧ u.pending = s.pending
    ∧ u.chip.sys = {} ∧ u.chip.flt = {} ∧ u.chip.hk = {} ∧ u.chip.cal = {} ∧ u.chip.mbx = {} ∧ u.chip.side = {}
    ∧ u.chip.tick = {} ∧ u.chip.buf = {} ∧ u.chip.so = {} ∧ u.chip.vu = {} ∧ u.chip.fab = {} ∧ u.chip.rcp = {}
    ∧ u.chip.serve = {} ∧ u.chip.spk = {} ∧ u.chip.opt = {}
    ∧ u.chip.arr = { cells := s.chip.arr.cells, maps := s.chip.arr.maps, tile := u.chip.arr.tile }
    ∧ (swf (fun _ => ({} : TileArr)) s.chip.arr.tile = true → ∀ t, u.chip.tileArr t = (s.chip.tileArr t).atReset power)
    ∧ u.chip.boot = { owner := s.chip.boot.owner, blown := s.chip.boot.blown }
    ∧ u.chip.load = { active := s.chip.load.active, rebuildPending := s.chip.load.rebuildPending }
    ∧ u.chip.evr.hours = s.chip.evr.hours ∧ u.chip.evr.pcycle = s.chip.evr.pcycle ∧ u.chip.evr.bad = s.chip.evr.bad
    ∧ u.chip.evr.ready = false ∧ u.chip.evr.buffer = []

/-- A buffer word that no slot guards and in which the code finds nothing (R119, R136). -/
def Sound (c : Chip) (t : TileIx) (w : WordIx) : Prop :=
  c.slotOf t w = none ∧ decode512 (c.bufWord t w).data (c.bufWord t w).check = ((c.bufWord t w).data, false, false)

/-- A vector operand that is read at once: a register, or four sound words (R136, R146). -/
def Readable (c : Chip) (t : TileIx) (x : VecRef) : Prop := ∀ w ∈ VecRef.words x, Sound c t w

/-- A destination of a vector operation that no slot guards (R136). -/
def Unguarded (c : Chip) (t : TileIx) (x : VecRef) : Prop := ∀ w ∈ VecRef.words x, c.slotOf t w = none

/-- The value that a vector operand holds: 16 lanes in each word, the lowest first (R138). -/
def valueAt (c : Chip) (t : TileIx) : VecRef → VecVal
  | .reg r => c.vreg t r
  | .buf w _ _ =>
    let ws := (List.range 4).map fun i => c.bufWord t (w + BitVec.ofNat 11 i)
    { lanes := lanesOf (ws.flatMap fun x => wordLanes x.data), poison := ws.any (·.poison) }

/-- The vector unit of a tile takes an operation at once: the device runs, nothing of the tile waits before it, and the pass the
tile works on is not halted (R110, R171). -/
def VecFree (c : Chip) (t : TileIx) : Prop :=
  c.on = true ∧ (∀ x ∈ c.arr.vecQ, x.1 ≠ t) ∧ ∀ chunk, c.vecHalted t (c.tileRun t chunk).pass = false

/-- What a tile produces for its pass is POISON, since an operation of the pass went on after a timeout outcome (R133). -/
def spoiled (c : Chip) (t : TileIx) (chunk : Bool) : Bool := (c.tileRun t chunk).spoiled

/-- Of the buffers only the banks' timing and the counts of stalls have changed (R117, R151). -/
def OnlyTiming (a b : Chip) : Prop :=
  b.buf = { a.buf with bank := b.buf.bank, tile := b.buf.tile, stalls := b.buf.stalls }
    ∧ ∀ t, b.tileBuf t = { a.tileBuf t with stalls := (b.tileBuf t).stalls }

/-- A vector operation has left its result at its destination, a register or four words of the buffer, and taken its cost
(R138, R146); nothing else has changed but the timing of banks that it read. -/
def VecPut (s u : State) (t : TileIx) (dst : VecRef) (v : VecVal) (cost : Nat) : Prop :=
  u.chip.out = s.chip.out ++ [.duration cost] ∧ Only [.vu, .buf, .out] s u ∧ u.chip.vu.acc = s.chip.vu.acc ∧
  match dst with
  | .reg r => u.chip.vreg t r = v ∧ (∀ k x, ¬ (k = t ∧ x = r) → u.chip.vreg k x = s.chip.vreg k x) ∧ OnlyTiming s.chip u.chip
  | .buf w _ _ =>
    (∀ i : Fin 4, u.chip.bufWord t (w + BitVec.ofNat 11 i.val) =
      let d := lanesWord ((v.lanes.toList.drop (16 * i.val)).take 16)
      { data := d, check := check512 d, poison := v.poison })
    ∧ (∀ k x, ¬ (k = t ∧ x ∈ VecRef.words dst) → u.chip.bufWord k x = s.chip.bufWord k x) ∧ u.chip.vu = s.chip.vu

/-- What a tile's vector unit produces: POISON too when an operation of the pass went on after a timeout outcome (R133, R179). -/
def tainted (c : Chip) (t : TileIx) (v : VecVal) : VecVal := { v with poison := v.poison || spoiled c t false }

/-- Two vector operands that share no register and no buffer word. -/
def Apart (x y : VecRef) : Prop := x ≠ y ∧ ∀ w ∈ VecRef.words x, w ∉ VecRef.words y

/-- A vector operation has left its results at their destinations, in their order, and taken its cost; no other register and no
other buffer word has changed (R138, R146). -/
def VecsPut (s u : State) (t : TileIx) (dst : List VecRef) (vs : List VecVal) (cost : Nat) : Prop :=
  u.chip.out = s.chip.out ++ [.duration cost] ∧ Only [.vu, .buf, .out] s u ∧ u.chip.vu.acc = s.chip.vu.acc
    ∧ dst.map (valueAt u.chip t) = vs
    ∧ (∀ k r, ¬ (k = t ∧ VecRef.reg r ∈ dst) → u.chip.vreg k r = s.chip.vreg k r)
    ∧ (∀ k w, ¬ (k = t ∧ ∃ d ∈ dst, w ∈ VecRef.words d) → u.chip.bufWord k w = s.chip.bufWord k w)

/-- The operands of an A8 preparation can be read at once. -/
def A8Ready (c : Chip) (t : TileIx) : A8Source → Prop
  | .vecs xs => ∀ x ∈ xs, Readable c t x
  | .accs _ _ _ _ => True

/-- The values that A8 preparation takes (R42, R57): elements of vectors, or accumulators of a pass times their tensor's scale. -/
def a8Of (c : Chip) (t : TileIx) : A8Source → List (Option Dy)
  | .vecs xs => (elements (xs.map (valueAt c t))).map dyOf32
  | .accs first blocks tensor p =>
    (c.heldAccs t first.toNat (64 * blocks) p).map fun a => accTimes a.value (((c.tensor tensor).map (·.scale)).getD 0)

/-- Some of them is POISON. -/
def a8Poison (c : Chip) (t : TileIx) : A8Source → Bool
  | .vecs xs => anyPoison (xs.map (valueAt c t))
  | .accs first blocks _ p => (c.heldAccs t first.toNat (64 * blocks) p).any (·.poison)

/-- A crumb that the checks on crumbs of passes find nothing on: its recipe and weight epochs are those of its pass, its request
is served and its variant is of the recipe; crumbs of other kinds have no such checks (R205, R256, R277). -/
def Accepted (c : Chip) (k : Crumb) : Prop :=
  custodyKind k.hdr.kind = true → c.repochOf k.hdr.pass = some k.hdr.repoch ∧ c.wepochOf k.hdr.pass = some k.hdr.wepoch
    ∧ (c.hotEntry k.hdr.req).isSome = true ∧ (c.rcp.active.any fun r => r.hasVariant k.hdr.variant.toNat) = true

/-- A node at which no crumb waits and none comes without an operation behind it, with a list at one output alone (R155). -/
def QuietNode (c : Chip) (t : TileIx) (out : NodePort) : Prop :=
  (∀ p, c.inputReg t p = [] ∧ c.fifoIn (portKey t p) = []) ∧ (∀ l ∈ c.orders.2, l.tile = t → l.out = out)
    ∧ ∀ r ∈ c.rcp.passes, ∀ p x, c.dueWithout t p x r = none

/-- A crumb has gone out on a port: it has taken the next LSEQ and stands last among those kept (R318, R323). -/
def Sends (a b : Chip) (q : PortIx) (route : Byte) (k : Crumb) : Prop :=
  (b.port q).txSeq = (a.port q).txSeq + 1 ∧ (b.port q).sent.getLast? = some ((a.port q).txSeq, route :: crumbBytes k)
    ∧ ∀ r, r ≠ q → b.port r = a.port r

/-- ROUTE of a control-class crumb on a port: over Z it names the slice of the peer and its region (R321). -/
def controlRoute (c : Chip) (q : PortIx) : Byte :=
  if q.toNat < 4 ∨ (c.port q).version = 1 then 0
  else if isZ q then zRoute (field (stepPos c.sys.position q).toNat 0 2) (otherZ q).toNat false false else 0

/-- No sync object is to be re-initialised at once: a pass has begun on the device, or none is in TIMEOUT or ERROR (R131, R208). -/
def SoSettled (c : Chip) : Prop := c.rcp.begun = true ∨ ∀ p ∈ c.so.obj, p.2.state ≠ .timeout ∧ p.2.state ≠ .error

/-- An object that a signal of `n` only counts on: in WAIT below its limit after it, nothing waiting, guarding no slot
(R125, R132). -/
def Countable (c : Chip) (i : SoIx) (n : Nat) : Prop :=
  (c.soObj i).state = .wait ∧ (c.soObj i).auto = false ∧ (c.soObj i).waiters = [] ∧ c.slotPartner i = none
    ∧ (c.soObj i).count.toNat + n < 2 ^ 24

/-- A signal of `n` has been counted on one object. -/
def SignalCounted (a b : Chip) (i : SoIx) (n : Nat) : Prop :=
  (b.soObj i).count.toNat = (a.soObj i).count.toNat + n ∧ ∀ j, j ≠ i → b.soObj j = a.soObj j

/-- A command in progress on a queue has been answered (R460, R461), where other buffer words may have changed too: its entry
stands at the old tail, and no command is in progress. -/
def Answered (a b : Chip) (q : QueueIx) (e : List Byte) (status reason : Nat) (committed : Bool) (result : Nat) : Prop :=
  let m := a.mq q
  let word := cqImage m (finalEntry m e status reason committed result)
  (b.mq q).cmd = none ∧ (b.mq q).cqTail = m.cqTail + 1
    ∧ b.bufWord (q.setWidth 10) m.cqWord = { data := word, check := check512 word, poison := false }
    ∧ (∀ k, k ≠ q → b.mq k = a.mq k)

/-- A block that is no CRUMB, as a port sends it (R318, R319): it shows the LSEQ that the next CRUMB block will carry, and that of a
virtual port goes out on its spine port under the virtual-link number (R352). -/
def portBlock (c : Chip) (p : PortIx) (type : Byte) (content : List Byte) : Output :=
  let x := c.port p
  let route := x.vlink.getD (p, 0)
  .link route.1 (.block (linkBlock type route.2 x.txSeq content))

/-- The TRAIN block of a phase (R325): PART 2, versions 1 to 2, the lanes locked, the position, the port, the agreed version. -/
def trainSent (c : Chip) (p : PortIx) (phase : Nat) : Output :=
  portBlock c p trainType ([0x02, 0x01, 0x02, if (c.port p).light then 0xFF else 0] ++ leBytes 2 (wireOfPos c.sys.position).toNat
    ++ leBytes 1 p.toNat ++ leBytes 1 phase ++ leBytes 1 (if 2 ≤ phase then (c.port p).version.toNat else 0))

/-- The LANEMAP block of a phase (R319, R330). -/
def lanemapSent (c : Chip) (p : PortIx) (map : BitVec 8) (phase : Byte) : Output :=
  portBlock c p lanemapType ([map, phase] ++ leBytes 2 (c.port p).txSeq.toNat)

/-- The RETRY block that asks for the LSEQ due (R319, R323). -/
def retrySent (c : Chip) (p : PortIx) : Output := portBlock c p retryType (leBytes 2 (c.port p).rxSeq.toNat)

/-- The IDLE block (R319): STATUS, the link version, PART, the lane map, the position. -/
def idleSent (c : Chip) (p : PortIx) : Output :=
  let x := c.port p
  portBlock c p idleType (leBytes 1 (natOfBits [!c.flt.faultState, x.isUp, c.rcp.fallback != 0, c.opt.tkState != 0, x.state == .degraded])
    ++ leBytes 1 x.version.toNat ++ [0x02, x.laneMap] ++ leBytes 2 (wireOfPos c.sys.position).toNat)

/-- No virtual link runs over a port. -/
def NoVirtual (c : Chip) (p : PortIx) : Prop := ∀ q, ((c.port q).vlink.any fun v => v.1 == p) = false

/-- A field of a register: its place, and the values a write may give it (R5). -/
structure RegField where
  lo : Nat
  width : Nat
  ok : Nat → Bool := fun _ => true

/-- What a write leaves in a field (R4, R5): the driven bits, the others kept, where the access drives one of its bits and the value
so merged is in range. -/
def fieldAfter (d : RegData) (f : RegField) (old : Nat) : Nat :=
  let mask := field d.mask.toNat f.lo f.width
  let new := (field d.data.toNat f.lo f.width &&& mask) ||| (old &&& (mask ^^^ (2 ^ f.width - 1)))
  if mask ≠ 0 ∧ f.ok new = true then new else old

/-- The plain registers that the host writes, by block and offset, with their fields (R25, R26, R104, R105, R149, R228, R358,
R390, R453, R500); FLT_SRC_CFG stands by itself. -/
def plainRegs : List (Nat × Nat × List RegField) :=
  [(0, 0x0100, [⟨0, 14, inRange 1024 8192⟩]),
   (0, 0x0110, [⟨0, 11, inRange 600 1050⟩, ⟨24, 8, anyVal⟩, ⟨32, 8, anyVal⟩]),
   (0, 0x0200, [⟨0, 12, inRange 1 2048⟩, ⟨16, 14, inRange 1 10000⟩]),
   (0, 0x0208, [⟨0, 1, anyVal⟩, ⟨1, 1, anyVal⟩, ⟨20, 4, anyVal⟩, ⟨24, 4, anyVal⟩, ⟨30, 10, inRange 1 1000⟩, ⟨40, 8, inRange 1 168⟩]),
   (0, 0x0418, [⟨0, 14, inRange 1 10000⟩]),
   (0, 0x0700, [⟨0, 64, anyVal⟩]),
   (5, 0x0200, [⟨0, 1, anyVal⟩, ⟨8, 1, anyVal⟩])]
  ++ ([0, 3, 4, 5, 6, 7] : List Nat).map (fun n => (0, 0x0310 + 8 * n, [⟨0, 24, inRange 2 1000000⟩]))
  ++ (List.range 48).map (fun n => (4, 0x0100 + 8 * n, [⟨0, 1, anyVal⟩, ⟨3, 13, anyVal⟩, ⟨16, 3, anyVal⟩, ⟨19, 1, anyVal⟩]))

/-- The byte at an offset of a register block, of its register's value (R9, R520). -/
def regByte (c : Chip) (block off : Nat) : Byte := (leBytes 8 (regRead c block (off - off % 8)).toNat).getD (off % 8) 0

/-- A buffer word in which the code finds no error and that is not poisoned (R119). -/
def CleanWord (c : Chip) (t : TileIx) (w : WordIx) : Prop :=
  (c.bufWord t w).poison = false ∧ decode512 (c.bufWord t w).data (c.bufWord t w).check = ((c.bufWord t w).data, false, false)

/-- A byte of a tile's buffer (R112). -/
def bufByte (c : Chip) (t : TileIx) (off : Nat) : Byte := (leBytes 64 (c.bufWord t (BitVec.ofNat 11 (off / 64))).data.toNat).getD (off % 64) 0

end Sys2Proof.Machine
end

