-- ==== Sys2Proof/Certificates/Slice0/Obligations.lean ====
section
/-! DEFINITION. The statements for the provers. Each docstring names the rules of spec/ it rests on; a statement that rests
on a choice of the model names the log entry. "For every state" includes states that no run reaches. -/

open Sys2Proof Sys2Proof.Machine

/-! ## The machine as a whole -/

/-- One step runs the command at the front of the queue on the queue's rest. -/
def Obligations.StepRunsFront : Prop :=
  ∀ (i : Instr) (rest : List Instr) (s : State),
    step { s with pending := i :: rest } = exec i { s with pending := rest }

/-- An empty queue, nothing waiting in the control mesh: the rack tick advances where it runs (R182), by 1, or by 2 or 0 where the
slewed rate has gained or lost one tick (R184), and nothing else changes; it stands where REFCLK (R498), the supplies or RESET_N
are missing. That an empty queue is one tick is the model's choice (log entry 6). -/
def Obligations.StepIdlesTick : Prop :=
  ∀ s : State, s.pending = [] → s.chip.fab.ctl = [] →
    (s.chip.pins.powered = true → s.chip.pins.resetN = true → s.chip.pins.refclk = true →
      ∃ n : Nat, ∃ d : Int, (n : Int) * 1000000000 + d = 1000000000 + s.chip.tick.slewed + s.chip.tick.ratePpb ∧
        (-50000 ≤ s.chip.tick.ratePpb → s.chip.tick.ratePpb ≤ 50000 → s.chip.tick.slewed.natAbs < 1000000000 →
          d.natAbs < 1000000000) ∧
        step s = .next { s with chip := { s.chip with tick := { s.chip.tick with
          count := s.chip.tick.count + BitVec.ofNat 64 n, slewed := d } } }) ∧
    (s.chip.pins.powered = false ∨ s.chip.pins.resetN = false ∨ s.chip.pins.refclk = false → step s = .next s)

/-- Every step, of every command, keeps far memory in its canonical form. -/
def Obligations.StepKeepsFarForm : Prop :=
  ∀ s t : State, FarWf s → step s = .next t → FarWf t

/-- The state after reset has far memory in its canonical form and no command waiting. -/
def Obligations.ResetFarForm : Prop := FarWf State.reset ∧ State.reset.pending = []

/-- No command changes the queue, none is refused, and only a transfer crumb that names bytes beyond the end of its stack
stops the machine. -/
def Obligations.EveryCommandAnswers : Prop :=
  ∀ (i : Instr) (s : State),
    (∃ t, exec i s = .next t ∧ t.pending = s.pending)
      ∨ ((∃ f a w c, i = .farMemoryTransferCrumb f a w c ∧ farSize < 2 * (a.toNat + 64)) ∧ exec i s = .fault .farMemoryHole)

/-- A read of far memory after a write: the byte written inside, what was there outside (R8). -/
def Obligations.FarReadAfterWrite : Prop :=
  ∀ (m : List Host.Cell) (a : Nat) (bs : List Byte) (x : Nat),
    farByte (farWrite m a bs) x =
      if a ≤ x ∧ x < a + bs.length ∧ x < farSize then bs.getD (x - a) 0 else farByte m x

/-- Sectors, buffers, groups and hops (R17, R30, R31): a tile's sector and the host address of its buffer; a group is the
four devices of one (x, y); a buddy shares it and is its buddy's buddy; a pass leaves a device by the one X or Y port that
leads to the next group at the same z, from group 63 at (0, 7) over Y to group 0 at (0, 0). -/
def Obligations.SectorsGroupsAndHops : Prop :=
  (∀ t : TileIx,
    let x := t.toNat % 32
    let y := t.toNat / 32
    sectorOf t = 4 * (y >>> 3) + (x >>> 3) ∧ sectorOf t < 16 ∧ (sectorOf t = 0 ↔ x < 8 ∧ y < 8) ∧
      (sectorOf t = 15 ↔ 24 ≤ x ∧ 24 ≤ y) ∧
      ∀ o : Nat, o < 0x2_0000 → hostMap (BitVec.ofNat 40 (0x1000_0000 + t.toNat * 0x2_0000 + o)) = .buffer t o) ∧
  (∀ p : Pos, p.toNat < 256 →
    let x := field p.toNat 5 3
    let y := field p.toNat 2 3
    let z := field p.toNat 0 2
    groupOf p = (if y % 2 = 0 then 8 * y + x else 8 * y + 7 - x) ∧
    (∀ r : Pos, r.toNat < 256 → (groupOf r = groupOf p ↔ field r.toNat 5 3 = x ∧ field r.toNat 2 3 = y)) ∧
    groupOf (buddyPos p) = groupOf p ∧ field (buddyPos p).toNat 0 2 = z ^^^ 1 ∧ buddyPos (buddyPos p) = p ∧
    (∃ q ∈ [(0 : PortIx), 1, 2, 3], exitPort p = some q ∧ groupOf (stepPos p q) = (groupOf p + 1) % 64
      ∧ field (stepPos p q).toNat 0 2 = z ∧ entryPort (stepPos p q) = some (q ^^^ 1)) ∧
    (groupOf p = 63 ↔ x = 0 ∧ y = 7) ∧ (groupOf p = 0 ↔ x = 0 ∧ y = 0) ∧ (groupOf p = 63 → exitPort p = some 2))

/-! ## Host accesses (chapter 00, chapters 05, 10, 12 to 14) -/

/-- Over a module that is down no host access arrives: nothing changes (R14). -/
def Obligations.DownModuleCarriesNothing : Prop :=
  ∀ (s : State) (m : UcieIx), s.chip.sys.ucieUp.getLsbD m.toNat = false →
    (∀ addr w data, exec (.hostRegWrite m addr w data) s = .next s) ∧
    (∀ addr n wr, exec (.unmappedAccess m addr n wr) s = .next s) ∧
    (∀ addr n wr, exec (.subwordRegAccess m addr n wr) s = .next s) ∧
    (∀ addr n wr sl up, exec (.hostBufferAccess m addr n wr sl up) s = .next s) ∧
    (∀ addr n wr, exec (.hostFarMemoryAccess m addr n wr) s = .next s) ∧
    (∀ w, exec (.tickNowRead m w) s = .next s) ∧
    (∀ c, exec (.tickClrWrite m c) s = .next s) ∧
    exec (.fltSummaryClr m) s = .next s ∧ exec (.fltCtlEnter m) s = .next s ∧
    (∀ src x, exec (.fltSrcSevereClear m src x) s = .next s) ∧
    (∀ src x, exec (.fltSrcStickyClear m src x) s = .next s) ∧
    exec (.evrFlushWrite m) s = .next s ∧
    (∀ p, exec (.portRetrainWrite m p) s = .next s) ∧ (∀ p en, exec (.portEnableWrite m p en) s = .next s) ∧
    (∀ tail, exec (.tokenRingTailWrite m tail) s = .next s) ∧
    (∀ w d, exec (.mbxCtlWrite m w d) s = .next s) ∧
    (∀ q tail, exec (.mbxSqDoorbell m q tail) s = .next s) ∧ (∀ q h, exec (.mbxCqDoorbell m q h) s = .next s) ∧
    (∀ q cq v, exec (.sidebandDoorbell m q cq v) s = .next s) ∧ (∀ w d, exec (.bootLenWrite m w d) s = .next s)

/-- Host register writes by access code (R4 to R7, R9, R10, R25, R26, R104, R105, R149, R358, R390, R394): each field of a plain
register takes the driven bits when the access drives one of its bits and the merged value is in range, else keeps its value, and
no other register reads otherwise; a locked RWL register keeps its value and is reported; a write to an acting register is
the command of that register; an unassigned offset and the HK block change nothing; an address outside the map is counted,
at the half's own address.

Accesses outside the map and accesses other than of a register or half (R9, R10, R520): a read outside every range returns
all ones, as many bytes as it asks for, and is counted; a write is counted; in a block a write is ignored and a read
returns each byte of its half's 32-bit read, and changes nothing but the latch that a read of TICK_NOW's low half takes. -/
def Obligations.RegisterAndStrayAccesses : Prop :=
  (∀ (s : State) (m : UcieIx) (w : RegWidth) (d : Word64), s.chip.sys.ucieUp.getLsbD m.toNat = true →
     (∀ r ∈ plainRegs, s.chip.sys.armLocked = false → s.chip.boot.locked = false →
       ∃ u, exec (.hostRegWrite m (BitVec.ofNat 40 (r.1 * 0x1_0000 + r.2.1)) w d) s = .next u
         ∧ (∀ f ∈ r.2.2, field (regRead u.chip r.1 r.2.1).toNat f.lo f.width =
           fieldAfter (RegData.of w d) f (field (regRead s.chip r.1 r.2.1).toNat f.lo f.width))
         ∧ (∀ k, (∀ f ∈ r.2.2, ¬ (f.lo ≤ k ∧ k < f.lo + f.width)) →
           (regRead u.chip r.1 r.2.1).getLsbD k = (regRead s.chip r.1 r.2.1).getLsbD k)
         ∧ (∀ b o, ¬ (b = r.1 ∧ o = r.2.1) → regRead u.chip b o = regRead s.chip b o)
         ∧ u.far = s.far ∧ u.pending = s.pending ∧ u.chip.out = s.chip.out) ∧
     (∀ n < 192, (defaultTally n).isSome = true →
       ∃ u, exec (.hostRegWrite m (BitVec.ofNat 40 (0x2_1000 + 8 * n)) w d) s = .next u
         ∧ u.chip.fltSrc n = cfgSource n (RegData.of w d) (s.chip.fltSrc n)
         ∧ (∀ k, k ≠ n → u.chip.fltSrc k = s.chip.fltSrc k) ∧ Only [.flt] s u) ∧
     (s.chip.sys.armLocked = true → w ≠ .high → ∃ u, exec (.hostRegWrite m 0x00100 w d) s = .next u
       ∧ u.chip.sys = s.chip.sys ∧ Counted s.chip u.chip Src.lockedRegWrite 0x100 ∧ Only reportParts s u) ∧
     -- registers whose write is a command
     exec (.hostRegWrite m 0x10000 w d) s = exec (.mbxCtlWrite m w d) s ∧
     exec (.hostRegWrite m 0x00708 w d) s = exec (.bootLenWrite m w d) s ∧
     exec (.hostRegWrite m 0x00608 .high d) s = exec (.tokenRingTailWrite m (d.setWidth 32)) s ∧
     (w ≠ .high → exec (.hostRegWrite m 0x60020 w d) s = exec (.tickClrWrite m (d.getLsbD 0)) s) ∧
     (w ≠ .high → d.getLsbD 0 = true → exec (.hostRegWrite m 0x40018 w d) s = exec (.evrFlushWrite m) s) ∧
     (w ≠ .high → d.getLsbD 1 = false → ∀ p : PortIx, exec (.hostRegWrite m (BitVec.ofNat 40 (0x5_0010 + 0x40 * p.toNat)) w d) s
       = exec (.portEnableWrite m p (d.getLsbD 0)) s) ∧
     (w ≠ .high → ∀ q : QueueIx,
       exec (.hostRegWrite m (BitVec.ofNat 40 (0x1_0100 + 16 * q.toNat)) w d) s = exec (.mbxSqDoorbell m q (d.setWidth 6)) s ∧
       exec (.hostRegWrite m (BitVec.ofNat 40 (0x1_0108 + 16 * q.toNat)) w d) s = exec (.mbxCqDoorbell m q (d.setWidth 8)) s) ∧
     (w ≠ .high → d.getLsbD 8 = true → d.getLsbD 1 = false → exec (.hostRegWrite m 0x20000 w d) s = exec (.fltSummaryClr m) s) ∧
     exec (.hostRegWrite m 0x20008 .low 1) s = exec (.fltCtlEnter m) s ∧
     (w ≠ .high → ∀ n < 192,
       (d.getLsbD 0 = false → d.getLsbD 1 = true →
         exec (.hostRegWrite m (BitVec.ofNat 40 (0x2_2000 + 8 * n)) w d) s = exec (.fltSrcSevereClear m (BitVec.ofNat 8 n) none) s) ∧
       (d.getLsbD 0 = true → d.getLsbD 1 = false →
         exec (.hostRegWrite m (BitVec.ofNat 40 (0x2_2000 + 8 * n)) w d) s = exec (.fltSrcStickyClear m (BitVec.ofNat 8 n) none) s)) ∧
     -- registers that ignore writes, and addresses outside the map
     (∀ a : BitVec 40, 0x3_0000 ≤ a.toNat → a.toNat < 0x4_0000 → exec (.hostRegWrite m a w d) s = .next s) ∧
     (∀ o ∈ [0x0000, 0x0008, 0x0010, 0x0018, 0x0108, 0x0210, 0x0218, 0x0300, 0x0308, 0x0400, 0x0500, 0x0600, 0x0FF8, 0xFFF8],
       exec (.hostRegWrite m (BitVec.ofNat 40 o) w d) s = .next s) ∧
     (∀ a : BitVec 40, hostMap a = .outside → exec (.hostRegWrite m a w d) s = .next { s with chip := { s.chip with
       sys := { s.chip.sys with
         lastAddr := if w = .high then a + 4 else a, lastWrite := true, unmapped := satAdd s.chip.sys.unmapped 1 } } })) ∧
  (∀ (s : State) (m : UcieIx) (addr : BitVec 40) (n : Nat), s.chip.sys.ucieUp.getLsbD m.toNat = true → 1 ≤ n →
     (hostMap addr = .outside →
       exec (.unmappedAccess m addr n false) s = .next { s with chip := { s.chip with
         sys := { s.chip.sys with lastAddr := addr, lastWrite := false, unmapped := satAdd s.chip.sys.unmapped 1 }
         out := s.chip.out ++ [.readDone m (List.replicate n 0xFF#8)] } } ∧
       exec (.unmappedAccess m addr n true) s = .next { s with chip := { s.chip with
         sys := { s.chip.sys with lastAddr := addr, lastWrite := true, unmapped := satAdd s.chip.sys.unmapped 1 } } }) ∧
     (∀ b o, hostMap addr = .reg b o → o + n ≤ 0x1_0000 → ∀ i ∈ [Instr.unmappedAccess m addr n true, .subwordRegAccess m addr n true],
       exec i s = .next s) ∧
     (∀ b o, hostMap addr = .reg b o → o + n ≤ 0x1_0000 → (b = 6 → 8 ≤ o) →
       ∀ i ∈ [Instr.unmappedAccess m addr n false, .subwordRegAccess m addr n false],
       exec i s = .next { s with chip := { s.chip with
         out := s.chip.out ++ [.readDone m ((List.range n).map fun k => regByte s.chip b (o + k))] } }) ∧
     (∀ o, hostMap addr = .reg 6 o → o + n ≤ 4 → exec (.subwordRegAccess m addr n false) s = .next { s with chip := { s.chip with
       tick := { s.chip.tick with latch := s.chip.tick.count.extractLsb' 32 32 }
       out := s.chip.out ++ [.readDone m ((List.range n).map fun k => regByte s.chip 6 (o + k))] } }) ∧
     (∀ b o, hostMap addr = .reg b o → hostMap (addr + BitVec.ofNat 40 (n - 1)) = .outside → n ≤ 64 →
       exec (.subwordRegAccess m addr n true) s = .next { s with chip := { s.chip with
         sys := { s.chip.sys with lastAddr := addr, lastWrite := true, unmapped := satAdd s.chip.sys.unmapped 1 } } }))

/-- Host reads and writes of a tile's buffer (R8, R114, R115): a write of 1 to 64 bytes stores them, with the check bytes of the
words they lie in, and no other byte; a whole word is written whatever it held; a read of words in which the code finds no error
returns their bytes and changes no word. The parts of the map between its ranges answer as R9 says.

Host accesses to far memory (R8, R9, R246): a write outside every held image area stores its bytes and no other; one that
meets a held image area stores nothing and is reported; a read returns the bytes and changes nothing else; of a read that
reaches past the end the bytes beyond it are ones, and the access is counted. -/
def Obligations.HostMemoryAccesses : Prop :=
  (∀ (s : State) (m : UcieIx) (addr : BitVec 40) (t : TileIx) (off slot : Nat) (n : BitVec 8), s.chip.sys.ucieUp.getLsbD m.toNat = true →
     hostMap addr = .buffer t off → 1 ≤ n.toNat → n.toNat ≤ 64 →
     (∀ bs upset, n = 64 → off % 64 = 0 → bs.length = 64 → ∃ u, exec (.hostBufferAccess m addr n (some bs) slot upset) s = .next u
       ∧ u.chip.bufWord t (BitVec.ofNat 11 (off / 64)) = { data := wordOfBytes bs, check := check512 (wordOfBytes bs), poison := false }
       ∧ (∀ v w, ¬ (v = t ∧ w = BitVec.ofNat 11 (off / 64)) → u.chip.bufWord v w = s.chip.bufWord v w)
       ∧ Only [.buf] s u) ∧
     (off + n.toNat ≤ 0x2_0000 → (∀ k < n.toNat, CleanWord s.chip t (BitVec.ofNat 11 ((off + k) / 64))) →
       (∀ bs, bs.length = n.toNat → ∃ u, exec (.hostBufferAccess m addr n (some bs) slot 0) s = .next u
         ∧ (∀ o < 0x2_0000, bufByte u.chip t o = if off ≤ o ∧ o < off + n.toNat then bs.getD (o - off) 0 else bufByte s.chip t o)
         ∧ (∀ k < n.toNat, CleanWord u.chip t (BitVec.ofNat 11 ((off + k) / 64)))
         ∧ (∀ v w, v ≠ t → u.chip.bufWord v w = s.chip.bufWord v w) ∧ Only [.buf] s u) ∧
       (∃ u, exec (.hostBufferAccess m addr n none slot 0) s = .next u
         ∧ u.chip.out.getLast? = some (.readDone m ((List.range n.toNat).map fun k => bufByte s.chip t (off + k)))
         ∧ (∀ v w, u.chip.bufWord v w = s.chip.bufWord v w) ∧ Only [.buf, .out] s u)) ∧
     -- past the last tile's buffer a read finds ones, and the access is counted
     (t = 1023 → off = 0x1_FFC0 + 60 → 8 ≤ n.toNat → CleanWord s.chip t 2047 →
       ∃ u, exec (.hostBufferAccess m addr n none slot 0) s = .next u
         ∧ u.chip.out.getLast? = some (.readDone m ((List.range 4).map (fun k => bufByte s.chip t (off + k))
           ++ List.replicate (n.toNat - 4) 0xFF#8))
         ∧ u.chip.sys = { s.chip.sys with lastAddr := addr, lastWrite := false, unmapped := satAdd s.chip.sys.unmapped 1 }
         ∧ Only [.sys, .buf, .out] s u)) ∧
  (∀ (s : State) (m : UcieIx) (addr : BitVec 40) (off n : Nat), s.chip.sys.ucieUp.getLsbD m.toNat = true →
     hostMap addr = .far off →
     (off + n ≤ farSize →
       (∀ bs, bs.length = n → s.chip.inImage off n = false →
         ∃ u, exec (.hostFarMemoryAccess m addr n (some bs)) s = .next u ∧ u.chip = s.chip ∧ u.pending = s.pending
           ∧ (∀ x, x < n → farByte u.far (off + x) = bs.getD x 0)
           ∧ (∀ x, (x < off ∨ off + n ≤ x) → farByte u.far x = farByte s.far x)) ∧
       (∀ bs, bs.length = n → s.chip.inImage off n = true →
         ∃ u, exec (.hostFarMemoryAccess m addr n (some bs)) s = .next u
           ∧ Counted s.chip u.chip Src.imageWrite 0 ∧ Only reportParts s u) ∧
       exec (.hostFarMemoryAccess m addr n none) s = .next { s with chip := { s.chip with
         out := s.chip.out ++ [.readDone m (farRead s.far off n)] } }) ∧
     (farSize < off + n → exec (.hostFarMemoryAccess m addr n none) s = .next { s with chip := { s.chip with
       sys := { s.chip.sys with lastAddr := addr, lastWrite := false, unmapped := satAdd s.chip.sys.unmapped 1 }
       out := s.chip.out ++ [.readDone m (farRead s.far off (farSize - off) ++ List.replicate (n - (farSize - off)) 0xFF#8)] } }))

/-- TICK_NOW (R182) and TICK_CLR (R187): a 64-bit read returns the whole tick; a read of the low half returns it and latches
the high half, which a read of the high half returns; CLR_MAX puts GROUP_MAX to 0.

The collector's own registers (R387, R389, R395, R378, R381): CLR frees FIRST_SRC; ENTER reports FAULT_ENTER_CMD and the
device is in the fault state; a SEVERE clear closes the window; a STICKY clear releases the capture; a clear that meets an
event of its source counts the event, SEVERE staying set where it was. -/
def Obligations.TickAndCollectorAccesses : Prop :=
  (∀ (s : State) (m : UcieIx), s.chip.sys.ucieUp.getLsbD m.toNat = true →
     (exec (.tickNowRead m .full) s = .next { s with chip := { s.chip with
       tick := { s.chip.tick with latch := s.chip.tick.count.extractLsb' 32 32 }
       out := s.chip.out ++ [.readDone m (leBytes 8 s.chip.tick.count.toNat)] } }) ∧
     (exec (.tickNowRead m .low) s = .next { s with chip := { s.chip with
       tick := { s.chip.tick with latch := s.chip.tick.count.extractLsb' 32 32 }
       out := s.chip.out ++ [.readDone m (leBytes 4 s.chip.tick.count.toNat)] } }) ∧
     (exec (.tickNowRead m .high) s = .next { s with chip := { s.chip with
       out := s.chip.out ++ [.readDone m (leBytes 4 s.chip.tick.latch.toNat)] } }) ∧
     (exec (.tickClrWrite m true) s = .next { s with chip := { s.chip with tick := { s.chip.tick with groupMax := 0 } } }) ∧
     exec (.tickClrWrite m false) s = .next s) ∧
  (∀ (s : State) (m : UcieIx), s.chip.sys.ucieUp.getLsbD m.toNat = true →
     (exec (.fltSummaryClr m) s = .next { s with chip := { s.chip with flt := { s.chip.flt with firstSrc := 0xFF } } }) ∧
     ((s.chip.fltSrc Src.faultEnterCmd.toNat).sevAction = 4 → (s.chip.fltSrc Src.faultEnterCmd.toNat).tallyAction = 4 →
       ∃ u, exec (.fltCtlEnter m) s = .next u ∧ u.chip.flt.faultState = true
         ∧ Counted s.chip u.chip Src.faultEnterCmd 0 ∧ Only reportParts s u) ∧
     (∀ src : BitVec 8, src.toNat < 192 → ∃ u, exec (.fltSrcSevereClear m src none) s = .next u
         ∧ u.chip.fltSrc src.toNat = { s.chip.fltSrc src.toNat with severe := false, window := none, wcount := 0 }
         ∧ (∀ n, n ≠ src.toNat → u.chip.fltSrc n = s.chip.fltSrc n) ∧ Only [.flt] s u) ∧
     (∀ src : BitVec 8, src.toNat < 192 → ∃ u, exec (.fltSrcStickyClear m src none) s = .next u
         ∧ u.chip.fltSrc src.toNat = { s.chip.fltSrc src.toNat with sticky := false, firstTick := 0, detail := 0, firstClass := none }
         ∧ (∀ n, n ≠ src.toNat → u.chip.fltSrc n = s.chip.fltSrc n) ∧ Only [.flt] s u) ∧
     (∀ (src : BitVec 8) (i : EventInfo), (defaultTally src.toNat).isSome = true → secondary src = false →
       (∃ u, exec (.fltSrcSevereClear m src (some i)) s = .next u ∧ Counted s.chip u.chip src i.detail
         ∧ ((s.chip.fltSrc src.toNat).severe = true → (u.chip.fltSrc src.toNat).severe = true) ∧ Only reportParts s u) ∧
       (src.toNat < 192 → ∃ u, exec (.fltSrcStickyClear m src (some i)) s = .next u
         ∧ (u.chip.fltSrc src.toNat).sticky = true ∧ (u.chip.fltSrc src.toNat).detail = i.detail
         ∧ (u.chip.fltSrc src.toNat).total = satAdd (s.chip.fltSrc src.toNat).total 1 ∧ Only reportParts s u)))

/-- Doorbells (R462): a tail inside the range from the present tail to the head is taken, one outside changes nothing of the
queue and is reported; a head that frees no more than the entries written is taken and frees them; the sideband's message
does the same; no other queue changes.

I3C and JTAG (R492, R505 to R507, R513, R514): the target takes its address and selector, a private read returns the
selected register and advances the selector, a reset request acts as a reset command of 10 ms; BYPASS delays by one bit,
IDCODE is the constant, the boundary scan samples the pins in reset too, EXTEST drives its cells, a challenge answers a new
free nonce. -/
def Obligations.DoorbellsAndSideband : Prop :=
  (∀ (s : State) (m : UcieIx) (q : QueueIx), s.chip.sys.ucieUp.getLsbD m.toNat = true →
     (∀ tail : BitVec 6, ((s.chip.mq q).sqTail - (s.chip.mq q).sqHead).toNat ≤ (tail - (s.chip.mq q).sqHead).toNat →
       ∀ i ∈ [Instr.mbxSqDoorbell m q tail, .sidebandDoorbell m q false (tail.setWidth 8)],
       ∃ u, exec i s = .next u ∧ u.chip.mq q = { s.chip.mq q with sqTail := tail }
         ∧ (∀ k, k ≠ q → u.chip.mq k = s.chip.mq k) ∧ Only [.mbx] s u) ∧
     (∀ tail : BitVec 6, (tail - (s.chip.mq q).sqHead).toNat < ((s.chip.mq q).sqTail - (s.chip.mq q).sqHead).toNat →
       ∃ u, exec (.mbxSqDoorbell m q tail) s = .next u
         ∧ Counted s.chip u.chip Src.mbxDoorbell 0 ∧ Only reportParts s u) ∧
     (∀ head : BitVec 8, (head - (s.chip.mq q).cqHead).toNat ≤ (s.chip.mq q).used.toNat →
       ∀ i ∈ [Instr.mbxCqDoorbell m q head, .sidebandDoorbell m q true head],
       ∃ u, exec i s = .next u
         ∧ u.chip.mq q = { s.chip.mq q with cqHead := head
                                            used := (s.chip.mq q).used - BitVec.ofNat 9 (head - (s.chip.mq q).cqHead).toNat }
         ∧ (∀ k, k ≠ q → u.chip.mq k = s.chip.mq k) ∧ Only [.mbx] s u) ∧
     (∀ head : BitVec 8, (s.chip.mq q).used.toNat < (head - (s.chip.mq q).cqHead).toNat →
       ∃ u, exec (.mbxCqDoorbell m q head) s = .next u
         ∧ Counted s.chip u.chip Src.mbxDoorbell 0 ∧ Only reportParts s u)) ∧
  (∀ s : State,
     (∀ b a, s.chip.i3cAnswers = true → exec (.i3cDynamicAddress b a) s = .next { s with chip := { s.chip with
       side := { s.chip.side with i3cAddr := some a } } }) ∧
     (∀ x, s.chip.i3cAnswers = true → s.chip.side.i3cAddr.isSome = true → exec (.i3cPrivateWrite x) s =
       .next { s with chip := { s.chip with side := { s.chip.side with selector := x } } }) ∧
     (s.chip.i3cAnswers = true → s.chip.side.i3cAddr.isSome = true → s.chip.side.selector.toNat < 7 * 8192 →
       exec .i3cPrivateRead s = .next { s with chip := { s.chip with
         side := { s.chip.side with selector := s.chip.side.selector + 1 }
         out := s.chip.out ++ [.i3cRead (leBytes 8 (regRead s.chip (s.chip.side.selector.toNat / 8192)
           (s.chip.side.selector.toNat % 8192 * 8)).toNat)] } }) ∧
     (s.chip.i3cAnswers = true → s.chip.side.i3cAddr.isSome = true → s.chip.flt.thermal = false →
       ∃ u, exec .i3cResetRequest s = .next u ∧ (∀ p, (u.chip.port p).dark = true)
         ∧ (∃ d, u.chip.boot.selfReset = some d ∧ d ≤ 10) ∧ Only reportParts s u) ∧
     (∀ bits, s.chip.on = true → exec (.jtagBypass bits) s = .next { s with chip := { s.chip with
       out := s.chip.out ++ [.tdo ((false :: bits).take bits.length)] } }) ∧
     (s.chip.on = true → exec .jtagIdcode s = .next { s with chip := { s.chip with
       out := s.chip.out ++ [.tdo ((List.range 32).map fun i => (0x1F022A97 : BitVec 32).getLsbD i)] } }) ∧
     (∀ x, s.chip.pins.powered = true → exec (.jtagSamplePreload x) s = .next { s with chip := { s.chip with
       side := { s.chip.side with boundary := x, extest := false }, out := s.chip.out ++ [.tdo s.chip.boundaryPins] } }) ∧
     (∀ x, s.chip.pins.powered = true → exec (.jtagExtest x) s = .next { s with chip := { s.chip with
       side := { s.chip.side with boundary := x, extest := true } } }) ∧
     (s.chip.on = true → s.chip.sys.bootStep ≠ 0 → exec .dbgChallenge s = .next { s with chip := { s.chip with
       boot := { s.chip.boot with dbgNonce := some (Config.freeNonce s.chip.free) }, free := s.chip.free + 1
       out := s.chip.out ++ [.tdo (bitsOf 128 (Config.freeNonce s.chip.free).toNat)] } }))

/-- Writes that act at once (R311, R324, R357, R441, R480, R500, R516): MBX_CTL takes its fields, bit 0 of QEN staying 1, and a
queue newly enabled starts afresh; SYS_BOOT_LEN in range is taken and from boot step 2 on starts the fetch, and is locked later; a
TAIL not after HEAD is taken; a flush with nothing buffered changes nothing and one with entries marks every entry; ENABLE as it
stands changes nothing, ENABLE 0 disables the port, ENABLE 1 on a disabled port leaves it DOWN, and lit where ports train; RETRAIN on a
disabled port changes nothing, on a port that is DOWN with light it starts training. -/
def Obligations.ActingWrites : Prop :=
  ∀ (s : State) (m : UcieIx), s.chip.sys.ucieUp.getLsbD m.toNat = true →
    (∀ (w : RegWidth) (d : Word64), ∃ u, exec (.mbxCtlWrite m w d) s = .next u
      ∧ (w ≠ .high → u.chip.mbx.qen = (d.setWidth 16 ||| 1)) ∧ (w = .high → u.chip.mbx.qen = (s.chip.mbx.qen ||| 1))
      ∧ (w = .full → u.chip.mbx.noticeQ = BitVec.ofNat 4 (field d.toNat 32 4) ∧ u.chip.mbx.coalesceUs = BitVec.ofNat 8 (field d.toNat 40 8))
      ∧ (w = .high → u.chip.mbx.noticeQ = BitVec.ofNat 4 (field d.toNat 0 4) ∧ u.chip.mbx.coalesceUs = BitVec.ofNat 8 (field d.toNat 8 8))
      ∧ (w = .low → u.chip.mbx.noticeQ = s.chip.mbx.noticeQ ∧ u.chip.mbx.coalesceUs = s.chip.mbx.coalesceUs)
      ∧ (∀ q : QueueIx, u.chip.mbx.qen.getLsbD q.toNat = true → s.chip.mbx.qen.getLsbD q.toNat = false →
          u.chip.mq q = { s.chip.mq q with sqTail := 0, sqHead := 0, cqHead := 0, cqTail := 0, used := 0, phase := true, ring := [] })
      ∧ (∀ q : QueueIx, ¬ (u.chip.mbx.qen.getLsbD q.toNat = true ∧ s.chip.mbx.qen.getLsbD q.toNat = false) →
          u.chip.mq q = s.chip.mq q)
      ∧ Only [.mbx] s u) ∧
    (∀ (w : RegWidth) (d : Word64), w ≠ .high → s.chip.boot.locked = false → 64 ≤ field d.toNat 0 23 → field d.toNat 0 23 ≤ 4194304 →
      (s.chip.sys.bootStep.toNat < 2 → exec (.bootLenWrite m w d) s = .next { s with chip := { s.chip with
        boot := { s.chip.boot with len := d.setWidth 23 } } }) ∧
      (s.chip.boot.dead = false → 2 ≤ s.chip.sys.bootStep.toNat →
        exec (.bootLenWrite m w d) s = .next { s with chip := { s.chip with
          boot := { s.chip.boot with len := d.setWidth 23, fetching := true, attempts := satAdd s.chip.boot.attempts 1 }
          sys := { s.chip.sys with bootStep := 2 }
          out := s.chip.out ++ [.hostFetch s.chip.boot.src (field d.toNat 0 23)] } })) ∧
    (∀ (w : RegWidth) (d : Word64), w ≠ .high → s.chip.boot.locked = true → ∃ u, exec (.bootLenWrite m w d) s = .next u
      ∧ Counted s.chip u.chip Src.lockedRegWrite 0x708 ∧ u.chip.boot.len = s.chip.boot.len ∧ Only reportParts s u) ∧
    (∀ tail, passAfter tail s.chip.serve.head = false → exec (.tokenRingTailWrite m tail) s =
      .next { s with chip := { s.chip with serve := { s.chip.serve with tail } } }) ∧
    (∀ tail, passAfter tail s.chip.serve.head = true → exec (.tokenRingTailWrite m tail) s = .next s) ∧
    (s.chip.evr.buffer = [] → exec (.evrFlushWrite m) s = .next s) ∧
    (s.chip.evr.ready = false → s.chip.evr.buffer ≠ [] → exec (.evrFlushWrite m) s = .next { s with chip := { s.chip with
      evr := { s.chip.evr with flushing := true, buffer := s.chip.evr.buffer.map fun b => { b with flushing := true } } } }) ∧
    (∀ p, exec (.portEnableWrite m p (s.chip.port p).enable) s = .next s) ∧
    (∀ p, (s.chip.port p).enable = true → ((s.chip.port p).isUp = false ∨ parentPort s.chip.sys.position ≠ some p) →
      ∃ u, exec (.portEnableWrite m p false) s = .next u
      ∧ (u.chip.port p).enable = false ∧ (u.chip.port p).state = .disabled ∧ (u.chip.port p).dark = true
      ∧ (∀ r, r ≠ p → u.chip.port r = s.chip.port r) ∧ Only [.opt, .out] s u) ∧
    (∀ p, (s.chip.port p).enable = false → (s.chip.port p).state = .disabled → ∃ u, exec (.portEnableWrite m p true) s = .next u
      ∧ (u.chip.port p).enable = true ∧ (u.chip.port p).state = .down
      ∧ (s.chip.mayTrain = true → (u.chip.port p).dark = false ∧ .link p .light ∈ u.chip.out)
      ∧ (∀ r, r ≠ p → u.chip.port r = s.chip.port r) ∧ Only [.opt, .out] s u) ∧
    (∀ p, (s.chip.port p).state = .disabled → exec (.portRetrainWrite m p) s = .next s) ∧
    (∀ p, (s.chip.port p).state = .down → (s.chip.port p).enable = true → (s.chip.port p).light = true →
      s.chip.mayTrain = true → ∃ u, exec (.portRetrainWrite m p) s = .next u ∧ (u.chip.port p).state = .training
        ∧ (u.chip.port p).phase = 0 ∧ (∀ r, r ≠ p → u.chip.port r = s.chip.port r) ∧ Only [.opt, .out] s u)

/-! ## The mailbox and the management core (chapters 10, 12, 13) -/

/-- COMMAND_TAKE (R458, R459, R464, R522): with firmware running and the core free, the head command of the next served queue is
read from its mailbox word, in an access slot of its bank, and is in progress; where a generic check fails it completes at once
with that check's status; with no queue to serve, a command on the core, or firmware not running, nothing changes.

COALESCE_INTERVAL_END (R465): a completion that waits is announced on every module that is up and a new interval opens
where one is set; an interval with none waiting ends; with no interval open nothing changes.

COMMAND_TIMEOUT (R470, R471): before its commit point the command is abandoned and completes with TIMEOUT, MBX_TIMEOUT
tallied; an abandoned load leaves no loaded recipe, an abandoned clear no clear; after it, or with no command or no firmware,
nothing changes. -/
def Obligations.CommandsTakenAndCompleted : Prop :=
  (∀ (s : State) (slot : Nat), s.chip.on = true →
     (∀ upset, s.chip.mbx.fwState ≠ 1 ∨ s.chip.coreBusy = true ∨ s.chip.nextQueue = none →
       exec (.commandTake slot upset) s = .next s) ∧
     (∀ q : QueueIx, s.chip.mbx.fwState = 1 → s.chip.coreBusy = false → s.chip.nextQueue = some q →
       CleanWord s.chip (q.setWidth 10) (BitVec.ofNat 11 (1920 + (s.chip.mq q).sqHead.toNat)) →
       let e := leBytes 64 (s.chip.bufWord (q.setWidth 10) (BitVec.ofNat 11 (1920 + (s.chip.mq q).sqHead.toNat))).data.toNat
       (s.chip.genericCheck q e = none → ∃ u, exec (.commandTake slot 0) s = .next u
         ∧ u.chip.mq q = { s.chip.mq q with sqHead := (s.chip.mq q).sqHead + 1, cmd := some e }
         ∧ (∀ k, k ≠ q → u.chip.mq k = s.chip.mq k) ∧ (∀ t w, u.chip.bufWord t w = s.chip.bufWord t w)
         ∧ Only [.mbx, .buf] s u) ∧
       (∀ status, s.chip.genericCheck q e = some status → ∃ u, exec (.commandTake slot 0) s = .next u
         ∧ Completed (s.chip.modMq q fun m => { m with sqHead := m.sqHead + 1, cmd := some e }) u.chip q e status 0
             (s.chip.mq q).commit 0
         ∧ Only mailParts s u))) ∧
  (∀ (s : State) (q : QueueIx),
     ((s.chip.mq q).interval = false → exec (.coalesceIntervalEnd q) s = .next s) ∧
     ((s.chip.mq q).interval = true → (s.chip.mq q).announce = true → ∃ u, exec (.coalesceIntervalEnd q) s = .next u
       ∧ u.chip.out = s.chip.out ++ s.chip.upModules.map (fun m => .sideband m (.completion q))
       ∧ u.chip.mq q = { s.chip.mq q with announce := false, interval := s.chip.mbx.coalesceUs != 0 }
       ∧ (∀ k, k ≠ q → u.chip.mq k = s.chip.mq k) ∧ Only [.mbx, .out] s u) ∧
     ((s.chip.mq q).interval = true → (s.chip.mq q).announce = false → ∃ u, exec (.coalesceIntervalEnd q) s = .next u
       ∧ u.chip.mq q = { s.chip.mq q with interval := false }
       ∧ (∀ k, k ≠ q → u.chip.mq k = s.chip.mq k) ∧ Only [.mbx] s u)) ∧
  (∀ (s : State) (q : QueueIx),
     ((s.chip.mq q).cmd = none ∨ (s.chip.mq q).commit = true ∨ s.chip.mbx.fwState ≠ 1 → exec (.commandTimeout q) s = .next s) ∧
     (∀ e, (s.chip.mq q).cmd = some e → (s.chip.mq q).commit = false → s.chip.mbx.fwState = 1 →
       ∃ u, exec (.commandTimeout q) s = .next u ∧ Completed s.chip u.chip q e 2 0 false 0
         ∧ Counted s.chip u.chip Src.mbxTimeout 0
         ∧ (∀ r, cmdOpcode e = 0x0100 → s.chip.rcp.fallback = 0 → s.chip.rcp.staged = some (r, .loaded) → u.chip.rcp.staged = none)
         ∧ (cmdOpcode e ≠ 0x0100 → u.chip.rcp = s.chip.rcp)
         ∧ (cmdOpcode e = 0x0602 → u.chip.evr.clear = none)
         ∧ Only (.rcp :: mailParts ++ reportParts) s u))

/-- The management core's restart (R385, R473): a watchdog or uncorrectable error is tallied and, the retained image measuring
right, the core restarts; where it does not, the device is in the fault state; a corrected error is only tallied. When the
restart completes, firmware runs again and the one command in progress completes as RESTARTED unless an engine works for it.

FAULT_EVENT and FAULT (R168, R374, R376 to R379): an event of a source is counted with its detail, whichever path brings it; a
reserved source raises nothing; what a report may change is `reportParts` alone; after a tile's report all that can go on does;
an event within 100 ns of its tile's last message is merged into the sticky state of its source and counted nowhere.

REACTION_END (R379, R380, R460, R466): with no reaction, or one whose stand-ins still load, nothing changes; else the reaction
ends unless the device is in the fault state (an event of records dropped may start the next), and its notice stands in the
notice queue, or is counted as dropped where that queue is disabled. -/
def Obligations.EventsAndReactions : Prop :=
  (∀ s : State,
     (s.chip.on = true → s.chip.mbx.fwState = 1 →
       ∀ x ∈ [(Instr.mgmtWatchdog true, Src.mgmtWatchdog), (.mgmtEccError false true, Src.mgmtEccUncorr)],
         ∃ u, exec x.1 s = .next u ∧ u.chip.mbx = { s.chip.mbx with fwState := 2 } ∧ u.chip.flt.mgmtRestarted = true
           ∧ Counted s.chip u.chip x.2 0 ∧ Only (.mbx :: reportParts) s u) ∧
     (s.chip.on = true → s.chip.mbx.fwState = 1 →
       ∀ x ∈ [(Instr.mgmtWatchdog false, Src.mgmtWatchdog), (.mgmtEccError false false, Src.mgmtEccUncorr)],
         ∃ u, exec x.1 s = .next u ∧ u.chip.mbx = { s.chip.mbx with fwState := 3 } ∧ u.chip.flt.faultState = true
           ∧ Counted s.chip u.chip x.2 0 ∧ Only (.mbx :: reportParts) s u) ∧
     (s.chip.on = true → ∀ b, ∃ u, exec (.mgmtEccError true b) s = .next u
       ∧ Counted s.chip u.chip Src.mgmtEccCorr 0 ∧ Only reportParts s u) ∧
     (s.chip.mbx.fwState ≠ 2 → exec .mgmtRestartComplete s = .next s) ∧
     (s.chip.mbx.fwState = 2 → (∀ k, (s.chip.mq k).cmd = none) →
       exec .mgmtRestartComplete s = .next { s with chip := { s.chip with mbx := { s.chip.mbx with fwState := 1 } } }) ∧
     (∀ q e, s.chip.mbx.fwState = 2 → (s.chip.mq q).cmd = some e → (∀ k, k ≠ q → (s.chip.mq k).cmd = none) →
       (s.chip.engineRuns (cmdOpcode e) = true →
         exec .mgmtRestartComplete s = .next { s with chip := { s.chip with mbx := { s.chip.mbx with fwState := 1 } } }) ∧
       (s.chip.engineRuns (cmdOpcode e) = false → ∃ u, exec .mgmtRestartComplete s = .next u
         ∧ u.chip.mbx.fwState = 1 ∧ Completed s.chip u.chip q e 8 0 (s.chip.mq q).commit 0 ∧ Only mailParts s u))) ∧
  (∀ (s : State) (src : BitVec 8) (i : EventInfo), s.chip.on = true →
     ((defaultTally src.toNat).isSome = true → secondary src = false →
       ∃ u, exec (.faultEvent src i) s = .next u ∧ Counted s.chip u.chip src i.detail ∧ Only reportParts s u) ∧
     ((defaultTally src.toNat) = none → exec (.faultEvent src i) s = .next s) ∧
     (∀ t : TileIx, (defaultTally src.toNat).isSome = true →
       let last := sget (fun _ => none) s.chip.fab.lastMsg t.toNat
       (secondary src = false → (∀ m ∈ last, 100 ≤ (s.chip.tick.count - m).toNat) →
         ∃ v : Chip, exec (.fault t src i) s = .next (s.goesOn v) ∧ Counted s.chip v src i.detail ∧ s.chip.Only reportParts v
           ∧ sget (fun _ => none) v.fab.lastMsg t.toNat = some s.chip.tick.count) ∧
       (∀ m, last = some m → (s.chip.tick.count - m).toNat < 100 →
         ∃ u, exec (.fault t src i) s = .next u ∧ (u.chip.fltSrc src.toNat).sticky = true
           ∧ (u.chip.fltSrc src.toNat).total = (s.chip.fltSrc src.toNat).total
           ∧ ((s.chip.fltSrc src.toNat).sticky = false → (u.chip.fltSrc src.toNat).detail = i.detail)
           ∧ (∀ n, n ≠ src.toNat → u.chip.fltSrc n = s.chip.fltSrc n) ∧ Only [.flt] s u))) ∧
  (∀ s : State, s.chip.on = true →
     (s.chip.flt.reaction = none → exec .reactionEnd s = .next s) ∧
     (∀ r, s.chip.flt.reaction = some r → s.chip.reactionDone r = false → exec .reactionEnd s = .next s) ∧
     (∀ r, s.chip.flt.reaction = some r → s.chip.reactionDone r = true →
       ∃ u, exec .reactionEnd s = .next u
         ∧ (u.chip.flt.faultState = false → ∀ r' ∈ u.chip.flt.reaction, r'.first = Src.evrDrop ∨ r'.first = Src.mbxCqFull)
         ∧ (s.chip.qEnabled s.chip.mbx.noticeQ = false →
             u.chip.mbx = { s.chip.mbx with noticeDrops := satAdd s.chip.mbx.noticeDrops 1 } ∧ u.chip.buf = s.chip.buf)
         ∧ (s.chip.qEnabled s.chip.mbx.noticeQ = true → (s.chip.mq s.chip.mbx.noticeQ).free ≠ 0 →
             let m := s.chip.mq s.chip.mbx.noticeQ
             let word := cqImage m (cqEntry 0xFFFF 0 m.sqHead.toNat r.level.toNat (bit m.phase + 4)
               (r.first.toNat + place 8 32 (if s.chip.evr.ready then (s.chip.evr.lastSeq + 1).toNat else 0)
                 + place 40 8 (min 255 r.merged.length)))
             u.chip.mq s.chip.mbx.noticeQ = m.pushed word
               ∧ u.chip.bufWord (s.chip.mbx.noticeQ.setWidth 10) m.cqWord = { data := word, check := check512 word, poison := false })
         ∧ Only (.mbx :: .buf :: reportParts) s u))

/-! ## Mailbox commands of the management complex (chapters 10 to 14) -/

/-- SV_POS_ASSIGN, SV_CAL_CONFIG, SV_THERM_CONFIG, SV_HK_CONFIG (R402, R420 to R423, R429, R457): the settings are taken and
the command completes with SUCCESS; thermal settings outside the rule complete with INVALID_FIELD and change nothing of them.
The parameter layouts and "zero keeps" are the model's (log entry 11).

Commands that write a buffer in host memory (R444, R470, R469, R509): where the write completes the bytes go out and the
command succeeds; where it does not, it completes with HOST_FETCH and nothing else. -/
def Obligations.SettingAndBufferCommands : Prop :=
  (∀ (s : State) (q : QueueIx) (e : List Byte),
     (s.chip.command q 0x0A01 = some e → ∃ u, exec (.svPosAssign q) s = .next u ∧ Completed s.chip u.chip q e 0 0 true 0
       ∧ u.chip.sys = { s.chip.sys with position := BitVec.ofNat 9 (cmdField e 8 2), posValid := true }
       ∧ Only (.sys :: mailParts) s u) ∧
     (s.chip.command q 0x0701 = some e → ∃ u, exec (.svCalConfig q) s = .next u ∧ Completed s.chip u.chip q e 0 0 true 0
       ∧ u.chip.hk.set.deltaT = (if cmdField e 8 1 = 0 then s.chip.hk.set.deltaT else BitVec.ofNat 5 (cmdField e 8 1))
       ∧ u.chip.hk.set.eyeMin = (if cmdField e 10 2 = 0 then s.chip.hk.set.eyeMin else BitVec.ofNat 10 (cmdField e 10 2))
       ∧ u.chip.hk = { s.chip.hk with set := { s.chip.hk.set with deltaT := u.chip.hk.set.deltaT, eyeMin := u.chip.hk.set.eyeMin } }
       ∧ Only (.hk :: mailParts) s u) ∧
     (s.chip.command q 0x0702 = some e → thermOk (thermSet s.chip.hk.set e) = true →
       ∃ u, exec (.svThermConfig q) s = .next u ∧ Completed s.chip u.chip q e 0 0 true 0
         ∧ u.chip.hk = { s.chip.hk with set := thermSet s.chip.hk.set e } ∧ Only (.hk :: mailParts) s u) ∧
     (s.chip.command q 0x0702 = some e → thermOk (thermSet s.chip.hk.set e) = false →
       ∃ u, exec (.svThermConfig q) s = .next u ∧ Completed s.chip u.chip q e 4 0 (s.chip.mq q).commit 0 ∧ Only mailParts s u) ∧
     (s.chip.command q 0x0703 = some e → ∃ u, exec (.svHkConfig q) s = .next u ∧ Completed s.chip u.chip q e 0 0 true 0
       ∧ u.chip.hk.set.avgA = (if bitAt (cmdField e 8 2) 0 then BitVec.ofNat 2 (cmdField e 10 1) else s.chip.hk.set.avgA)
       ∧ u.chip.hk.set.avgB = (if bitAt (cmdField e 8 2) 1 then BitVec.ofNat 2 (cmdField e 11 1) else s.chip.hk.set.avgB)
       ∧ u.chip.hk.set.owEn = (if bitAt (cmdField e 8 2) 4 then BitVec.ofNat 16 (cmdField e 14 2) else s.chip.hk.set.owEn)
       ∧ (∀ i : Fin 8, u.chip.hk.set.shunt[i] = if bitAt (cmdField e 8 2) (8 + i.val) then
           BitVec.ofNat 16 (cmdField e (16 + 2 * i.val) 2) else s.chip.hk.set.shunt[i])
       ∧ u.chip.hk = { s.chip.hk with set := u.chip.hk.set } ∧ Only (.hk :: mailParts) s u)) ∧
  (∀ (s : State) (q : QueueIx) (e : List Byte),
     (∀ x ∈ [(0x0002, Instr.svIdentify q true, 8, Config.identity [0x0302, 0x0301, 0x0300, 0x0204], 0),
             (0x0801, .svCertRead q true, 8, Config.certChain, Config.certChain.length),
             (0x0104, .svRecipeQuery q true, 8,
               (match s.chip.rcp.active with | some r => r.report ++ r.layout | none => List.replicate 96 0)
                 ++ (match s.chip.rcp.staged with | some (r, _) => r.report ++ r.layout | none => List.replicate 96 0), 0)],
       s.chip.command q x.1 = some e → ∃ u l, exec x.2.1 s = .next u
         ∧ u.chip.out = s.chip.out ++ .hostWrite (BitVec.ofNat 64 (cmdField e x.2.2.1 8)) x.2.2.2.1 :: l
         ∧ Completed s.chip u.chip q e 0 0 true x.2.2.2.2 ∧ Only mailParts s u) ∧
     (∀ x ∈ [(0x0002, Instr.svIdentify q false), (0x0801, .svCertRead q false), (0x0104, .svRecipeQuery q false)],
       s.chip.command q x.1 = some e → ∃ u, exec x.2 s = .next u
         ∧ Completed s.chip u.chip q e 0x000E 0 (s.chip.mq q).commit 0 ∧ Only mailParts s u) ∧
     -- SV_EVR_READ: the record not before s that is nearest to it, or NOT_FOUND
     (s.chip.command q 0x0600 = some e →
       (∀ r ∈ s.chip.evrRecords, passBefore (r.seq.getD 0) (BitVec.ofNat 32 (cmdField e 8 4)) = true) →
       ∃ u, exec (.svEvrRead q true) s = .next u ∧ Completed s.chip u.chip q e 0x000D 0 (s.chip.mq q).commit 0 ∧ Only mailParts s u) ∧
     (s.chip.command q 0x0600 = some e →
       (∃ r ∈ s.chip.evrRecords, passBefore (r.seq.getD 0) (BitVec.ofNat 32 (cmdField e 8 4)) = false) →
       ∃ u l, ∃ r ∈ s.chip.evrRecords, exec (.svEvrRead q true) s = .next u
         ∧ passBefore (r.seq.getD 0) (BitVec.ofNat 32 (cmdField e 8 4)) = false
         ∧ (∀ r' ∈ s.chip.evrRecords, passBefore (r'.seq.getD 0) (BitVec.ofNat 32 (cmdField e 8 4)) = false →
             (r.seq.getD 0 - BitVec.ofNat 32 (cmdField e 8 4)).toNat ≤ (r'.seq.getD 0 - BitVec.ofNat 32 (cmdField e 8 4)).toNat)
         ∧ u.chip.out = s.chip.out ++ .hostWrite (BitVec.ofNat 64 (cmdField e 16 8)) r.bytes :: l
         ∧ Completed s.chip u.chip q e 0 0 true (r.seq.getD 0).toNat ∧ Only mailParts s u))

/-- SV_HELLO (R467): BUSY while another queue has a command, VERSION_MISMATCH with no common version, else the highest
common version is in force and answered.

The nonces (R446, R476): a challenge whose write completes leaves the new nonce, a free value, in force and counts it; one
whose write fails leaves the earlier nonce. -/
def Obligations.HelloAndNonce : Prop :=
  (∀ (s : State) (q : QueueIx) (e : List Byte), s.chip.command q 0x0001 = some e →
     (s.chip.helloBusy q = true → ∃ u, exec (.svHello q) s = .next u
       ∧ Completed s.chip u.chip q e 6 0 (s.chip.mq q).commit 0 ∧ Only mailParts s u) ∧
     (s.chip.helloBusy q = false → (∀ v ∈ [0x0302, 0x0301, 0x0300, 0x0204], ¬ (cmdField e 8 2 ≤ v ∧ v ≤ cmdField e 10 2)) →
       ∃ u, exec (.svHello q) s = .next u ∧ Completed s.chip u.chip q e 0x000F 0 (s.chip.mq q).commit 0 ∧ Only mailParts s u) ∧
     (∀ v ∈ [0x0302, 0x0301, 0x0300, 0x0204], s.chip.helloBusy q = false → cmdField e 8 2 ≤ v → v ≤ cmdField e 10 2 →
       (∀ w ∈ [0x0302, 0x0301, 0x0300, 0x0204], cmdField e 8 2 ≤ w → w ≤ cmdField e 10 2 → w ≤ v) →
       ∃ u, exec (.svHello q) s = .next u ∧ u.chip.mbx.version = BitVec.ofNat 16 v
         ∧ u.chip.mbx.compat = (v == 0x0204 || cmdField e 12 1 == 1)
         ∧ u.chip.mbx.hostId = BitVec.ofNat 64 (cmdField e 16 8)
         ∧ Completed s.chip u.chip q e 0 0 true (v + place 16 1 (bit (v == 0x0204 || cmdField e 12 1 == 1)) + place 24 8 16
             + place 32 32 ((s.chip.boot.image.map fun i => i.version.toNat).getD 0))
         ∧ Only mailParts s u)) ∧
  (∀ (s : State) (q : QueueIx) (e : List Byte),
     (s.chip.command q 0x0200 = some e → ∃ u l, exec (.svKeyChallenge q true) s = .next u
       ∧ u.chip.boot = { s.chip.boot with keyNonce := some (Config.freeNonce s.chip.free), keyNonces := s.chip.boot.keyNonces + 1 }
       ∧ u.chip.out = s.chip.out ++ .hostWrite (BitVec.ofNat 64 (cmdField e 8 8)) (leBytes 16 (Config.freeNonce s.chip.free).toNat) :: l
       ∧ Completed s.chip u.chip q e 0 0 true (s.chip.boot.keyNonces + 1).toNat ∧ Only (.boot :: .free :: mailParts) s u) ∧
     (s.chip.command q 0x0200 = some e → ∃ u, exec (.svKeyChallenge q false) s = .next u
       ∧ Completed s.chip u.chip q e 0x000E 0 (s.chip.mq q).commit 0 ∧ Only (.free :: mailParts) s u) ∧
     (s.chip.command q 0x0601 = some e → ∃ u l, exec (.svEvrChallenge q true) s = .next u
       ∧ u.chip.evr = { s.chip.evr with nonce := some (Config.freeNonce s.chip.free), nonces := s.chip.evr.nonces + 1 }
       ∧ u.chip.out = s.chip.out ++ .hostWrite (BitVec.ofNat 64 (cmdField e 8 8)) (leBytes 16 (Config.freeNonce s.chip.free).toNat) :: l
       ∧ Completed s.chip u.chip q e 0 0 true (s.chip.evr.nonces + 1).toNat ∧ Only (.evr :: .free :: mailParts) s u) ∧
     (s.chip.command q 0x0601 = some e → ∃ u, exec (.svEvrChallenge q false) s = .next u
       ∧ Completed s.chip u.chip q e 0x000E 0 (s.chip.mq q).commit 0 ∧ Only (.free :: mailParts) s u))

/-- SV_OWNER_INSTALL (R474): a key that is no point is INVALID_FIELD; slot 0 while empty takes the key unsigned; else the slot
is written, and the nonce used, exactly when the signature under the owner key over the key, slot and nonce verifies.

SV_EVR_CLEAR (R446, R447): the signature is checked first; one that does not verify is AUTH_FAILED; a U after the newest
record is REJECTED 1; else, with nothing buffered, the recorder ready and a slot free, the clear is in progress with its
record numbered next. -/
def Obligations.AuthorisedByOwner : Prop :=
  (∀ (s : State) (q : QueueIx) (e bytes : List Byte), s.chip.command q 0x0202 = some e →
     (∃ u, exec (.svOwnerInstall q none) s = .next u
       ∧ Completed s.chip u.chip q e 0x000E 0 (s.chip.mq q).commit 0 ∧ Only mailParts s u) ∧
     (pointOf (bytesAt bytes 0 97) = none → ∃ u, exec (.svOwnerInstall q (some bytes)) s = .next u
       ∧ Completed s.chip u.chip q e 4 0 (s.chip.mq q).commit 0 ∧ Only mailParts s u) ∧
     ((pointOf (bytesAt bytes 0 97)).isSome = true → cmdField e 8 1 = 0 → s.chip.boot.owner[0] = none →
       ∃ u, exec (.svOwnerInstall q (some bytes)) s = .next u ∧ Completed s.chip u.chip q e 0 0 true 0
         ∧ u.chip.boot = { s.chip.boot with owner := s.chip.boot.owner.set 0 (some (bytesAt bytes 0 97)) }
         ∧ Only (.boot :: mailParts) s u) ∧
     (∀ (owner : List Byte) (n : BitVec 128) (i : Fin 4), (pointOf (bytesAt bytes 0 97)).isSome = true →
       s.chip.boot.owner[0] = some owner → s.chip.boot.keyNonce = some n → cmdField e 8 1 = i.val →
       ∃ u, exec (.svOwnerInstall q (some bytes)) s = .next u ∧
         if ecdsaVerify owner (sha384 (ascii "FQP2-OWNKEY" ++ [BitVec.ofNat 8 i.val] ++ bytesAt bytes 0 97 ++ leBytes 16 n.toNat))
             (bytesAt bytes 97 96) = true
         then Completed s.chip u.chip q e 0 0 true 0
           ∧ u.chip.boot = { s.chip.boot with owner := s.chip.boot.owner.set i (some (bytesAt bytes 0 97)), keyNonce := none }
           ∧ Only (.boot :: mailParts) s u
         else Completed s.chip u.chip q e 9 0 (s.chip.mq q).commit 0 ∧ Counted s.chip u.chip Src.mbxAuth 0
           ∧ u.chip.boot.owner = s.chip.boot.owner ∧ Only (mailParts ++ reportParts) s u)) ∧
  (∀ (s : State) (q : QueueIx) (e sig key : List Byte) (n : BitVec 128), s.chip.command q 0x0602 = some e →
     (s.chip.evr.clear.isSome = true → exec (.svEvrClear q (some sig)) s = .next s) ∧
     (s.chip.evr.clear = none → ∃ u, exec (.svEvrClear q none) s = .next u
       ∧ Completed s.chip u.chip q e 0x000E 0 (s.chip.mq q).commit 0 ∧ Only mailParts s u) ∧
     (s.chip.evr.clear = none → s.chip.boot.owner[0] = some key → s.chip.evr.nonce = some n →
       ∃ u, exec (.svEvrClear q (some sig)) s = .next u ∧
         if ecdsaVerify key (sha384 (ascii "FQP2-EVRCLR" ++ leBytes 4 (BitVec.ofNat 32 (cmdField e 8 4)).toNat ++ leBytes 16 n.toNat)) sig
             = true
         then
           (passAfter (BitVec.ofNat 32 (cmdField e 8 4)) s.chip.evrHead = true →
             Completed s.chip u.chip q e 1 1 (s.chip.mq q).commit 0 ∧ Counted s.chip u.chip Src.evrClearReject 0) ∧
           (passAfter (BitVec.ofNat 32 (cmdField e 8 4)) s.chip.evrHead = false → s.chip.evr.ready = true → s.chip.evr.closed = false →
             s.chip.evr.buffer = [] → (freeSlot s.chip 4096 ((s.chip.evr.lastSeq + 1).toNat % 4)).isSome = true →
             u.chip.evr.clear = some { u := BitVec.ofNat 32 (cmdField e 8 4), queue := some q, seq := some (s.chip.evr.lastSeq + 1) }
               ∧ u.chip.evr.lastSeq = s.chip.evr.lastSeq + 1 ∧ u.chip.evr.buffer.length = 1 ∧ Only [.evr] s u)
         else Completed s.chip u.chip q e 9 0 (s.chip.mq q).commit 0 ∧ Counted s.chip u.chip Src.mbxAuth 0
           ∧ Counted s.chip u.chip Src.evrClearReject 0))

/-- SV_HK_READ, SV_CAL_RUN (R407, R418): a busy converter answers DROPPED and counts it; a free one answers the code,
right-aligned; a calibration run passes its commit point and starts.

SV_FAULT_QUERY and SV_FAULT_CLEAR (R6, R61, R384, R477): one word comes in RESULT, more go to host memory; a clear takes
the masked flags of a layer slot; a raise that it meets stays set and is counted on its source; under 2.4 it takes the FQ-P1
classes of the mask. -/
def Obligations.MeasuringAndFaultQueries : Prop :=
  (∀ (s : State) (q : QueueIx) (e : List Byte) (code : BitVec 16),
     (s.chip.command q 0x0704 = some e → ∀ busy, (s.chip.hkBusy || busy) = true →
       ∃ u, exec (.svHkRead q code busy) s = .next u ∧ Completed s.chip u.chip q e 0x000A 0 (s.chip.mq q).commit 0
         ∧ u.chip.hk = { s.chip.hk with urgentDrops := satAdd s.chip.hk.urgentDrops 1 }
         ∧ Counted s.chip u.chip Src.hkUrgentDrop 0 ∧ Only (.hk :: mailParts ++ reportParts) s u) ∧
     (s.chip.command q 0x0704 = some e → s.chip.hkBusy = false →
       ∃ u, exec (.svHkRead q code false) s = .next u
         ∧ Completed s.chip u.chip q e 0 0 true (BitVec.ofInt 64
             (if cmdField e 8 1 ≠ 1 ∧ cmdField e 9 1 < 8 then code.toInt else Int.ofNat code.toNat)).toNat
         ∧ Only mailParts s u) ∧
     (s.chip.command q 0x0700 = some e → (s.chip.mq q).commit = true → exec (.svCalRun q) s = .next s) ∧
     (s.chip.command q 0x0700 = some e → (s.chip.mq q).commit = false → ∃ u, exec (.svCalRun q) s = .next u
       ∧ u.chip.mq q = { s.chip.mq q with commit := true } ∧ u.chip.cal.full = some (some q) ∧ u.chip.cal.runM.isSome = true
       ∧ Only [.mbx, .cal] s u)) ∧
  (∀ (s : State) (q : QueueIx) (e : List Byte),
     (s.chip.command q 0x0500 = some e → cmdField e 12 2 = 1 → ∀ ok, ∃ u, exec (.svFaultQuery q ok) s = .next u
       ∧ Completed s.chip u.chip q e 0 0 true (s.chip.queryWord (cmdField e 8 1) (cmdField e 10 2)).toNat ∧ Only mailParts s u) ∧
     (s.chip.command q 0x0500 = some e → cmdField e 12 2 ≠ 1 → ∃ u l, exec (.svFaultQuery q true) s = .next u
       ∧ u.chip.out = s.chip.out ++ .hostWrite (BitVec.ofNat 64 (cmdField e 16 8)) ((List.range (cmdField e 12 2)).flatMap fun i =>
           leBytes 8 (s.chip.queryWord (cmdField e 8 1) (cmdField e 10 2 + i)).toNat) :: l
       ∧ Completed s.chip u.chip q e 0 0 true 0 ∧ Only mailParts s u) ∧
     (s.chip.command q 0x0501 = some e → s.chip.mbx.version ≠ 0x0204 → cmdField e 8 2 < 16384 →
       let slot := cmdField e 8 2
       let kept := (sget (fun _ => ({} : NumStat)) s.chip.arr.numeric slot).flags &&& ~~~(BitVec.ofNat 5 (cmdField e 10 1))
       (∃ u, exec (.svFaultClear q none) s = .next u
         ∧ sget (fun _ => ({} : NumStat)) u.chip.arr.numeric slot
             = { sget (fun _ => ({} : NumStat)) s.chip.arr.numeric slot with flags := kept }
         ∧ (∀ k, k ≠ slot → sget (fun _ => ({} : NumStat)) u.chip.arr.numeric k
             = sget (fun _ => ({} : NumStat)) s.chip.arr.numeric k)
         ∧ Completed s.chip u.chip q e 0 0 true 0 ∧ Only (.arr :: mailParts) s u) ∧
       (∀ (t : TileIx) (raised : BitVec 5), ∃ u, exec (.svFaultClear q (some (t, raised))) s = .next u
         ∧ (sget (fun _ => ({} : NumStat)) u.chip.arr.numeric slot).flags = kept ||| (raised &&& BitVec.ofNat 5 (cmdField e 10 1))
         ∧ (∀ x ∈ (eventsOf (raised &&& BitVec.ofNat 5 (cmdField e 10 1))).bySource, x.1 ≠ 0 →
             Counted s.chip u.chip x.2 (tileDetail t 0 slot))
         ∧ (∀ k, k ≠ slot → sget (fun _ => ({} : NumStat)) u.chip.arr.numeric k
             = sget (fun _ => ({} : NumStat)) s.chip.arr.numeric k)
         ∧ Completed s.chip u.chip q e 0 0 true 0 ∧ Only (mailParts ++ reportParts) s u)) ∧
     (∀ meets, s.chip.command q 0x0501 = some e → s.chip.mbx.version = 0x0204 → ∃ u, exec (.svFaultClear q meets) s = .next u
       ∧ (∀ n < 192, (s.chip.fltSrc n).firstClass = some .corrected → bitAt (cmdField e 8 2) 0 = true →
           (u.chip.fltSrc n).sticky = false ∧ (u.chip.fltSrc n).severe = false)
       ∧ (∀ n < 192, (s.chip.fltSrc n).firstClass = none → u.chip.fltSrc n = s.chip.fltSrc n)
       ∧ Completed s.chip u.chip q e 0 0 true 0 ∧ Only (.flt :: mailParts) s u))

/-- SV_RESET, SV_FW_UPDATE, SV_FW_COMMIT, SV_ATTEST (R494, R496, R509 to R512): the reset completes first, then every port is dark
and the self-reset is no later than asked; an update starts its fetch, none while PWRFAIL_N
is low; a commit blows the fuses that program and succeeds when
all that are needed do; an attestation without a verified identity is REJECTED 1, else its report, the signature a free value,
goes out.

FW_UPDATE_DONE (R385, R502, R511, R512): with the update on one queue, a fetch that failed is HOST_FETCH; an image that
checks is retained, the command succeeds and the core restarts into it, with its record (log entry 58); a malformed image is REJECTED 1, a signature that does
not verify AUTH_FAILED, a roll-back REJECTED 2. -/
def Obligations.SecurityAndUpdate : Prop :=
  (∀ (s : State) (q : QueueIx) (e : List Byte),
     (s.chip.command q 0x0B00 = some e → s.chip.flt.thermal = false → ∃ u, exec (.svReset q) s = .next u
       ∧ Completed s.chip u.chip q e 0 0 true 0 ∧ (∀ p, (u.chip.port p).dark = true)
       ∧ (∃ d, u.chip.boot.selfReset = some d ∧ d ≤ cmdField e 8 8) ∧ Only (mailParts ++ reportParts) s u) ∧
     (s.chip.command q 0x0900 = some e → s.chip.pins.pwrfailN = true → exec (.svFwUpdate q) s = .next { s with chip := { s.chip with
       out := s.chip.out ++ [.hostFetch (BitVec.ofNat 64 (cmdField e 8 8)) (cmdField e 16 4)] } }) ∧
     (s.chip.command q 0x0900 = some e → s.chip.pins.pwrfailN = false → exec (.svFwUpdate q) s = .next s) ∧
     (∀ (i : FwImage) (n : Nat), s.chip.command q 0x0901 = some e → s.chip.boot.image = some i →
       i.svn.toNat - s.chip.fuseSvn ≤ n → ∃ u, exec (.svFwCommit q n) s = .next u ∧ Completed s.chip u.chip q e 0 0 true 0
         ∧ u.chip.boot = { s.chip.boot with blown := s.chip.boot.blown + BitVec.ofNat 7 (i.svn.toNat - s.chip.fuseSvn) }
         ∧ Only (.boot :: mailParts) s u) ∧
     (∀ (i : FwImage) (n : Nat), s.chip.command q 0x0901 = some e → s.chip.boot.image = some i →
       n < i.svn.toNat - s.chip.fuseSvn → ∃ u, exec (.svFwCommit q n) s = .next u
         ∧ Completed s.chip u.chip q e 1 3 (s.chip.mq q).commit 0
         ∧ u.chip.boot = { s.chip.boot with blown := s.chip.boot.blown + BitVec.ofNat 7 n } ∧ Only (.boot :: mailParts) s u) ∧
     (s.chip.command q 0x0800 = some e → s.chip.boot.idOk = false → ∀ ok, ∃ u, exec (.svAttest q ok) s = .next u
       ∧ Completed s.chip u.chip q e 1 1 (s.chip.mq q).commit 0 ∧ Only mailParts s u) ∧
     (s.chip.command q 0x0800 = some e → s.chip.boot.idOk = true → ∃ u l, exec (.svAttest q true) s = .next u
       ∧ u.chip.out = s.chip.out ++ .hostWrite (BitVec.ofNat 64 (cmdField e 40 8))
           (s.chip.attestBody (bytesAt e 8 32) ++ beBytes 96 (Config.freeSignature s.chip.free).toNat) :: l
       ∧ Completed s.chip u.chip q e 0 0 true
           (s.chip.attestBody (bytesAt e 8 32) ++ beBytes 96 (Config.freeSignature s.chip.free).toNat).length
       ∧ Only (.free :: mailParts) s u)) ∧
  (∀ (s : State) (q : QueueIx) (e bytes : List Byte), s.chip.command q 0x0900 = some e →
     (∀ k, k ≠ q → s.chip.command k 0x0900 = none) →
     (∃ u, exec (.fwUpdateDone none) s = .next u ∧ Completed s.chip u.chip q e 0x000E 0 (s.chip.mq q).commit 0 ∧ Only mailParts s u) ∧
     (∃ u, exec (.fwUpdateDone (some bytes)) s = .next u ∧
       match s.chip.checkFirmware (bytes.take (cmdField e 16 4)) with
       | .good i => Completed s.chip u.chip q e 0 0 true 0 ∧ u.chip.boot = { s.chip.boot with image := some i }
           ∧ u.chip.mbx.fwState = 2 ∧ u.chip.flt.mgmtRestarted = true ∧ Only (mailParts ++ reportParts) s u
       | .bad 3 => Completed s.chip u.chip q e 1 1 (s.chip.mq q).commit 0 ∧ Counted s.chip u.chip Src.fwReject 0
       | .bad 4 => Completed s.chip u.chip q e 9 0 (s.chip.mq q).commit 0 ∧ Counted s.chip u.chip Src.mbxAuth 0
       | .bad _ => Completed s.chip u.chip q e 1 2 (s.chip.mq q).commit 0 ∧ Counted s.chip u.chip Src.fwRollback 0))

/-! ## Pins, power, boot and the sidebands (chapter 14) -/

/-- RESET_N, an expired self-reset and removed supplies wipe the volatile state and keep the nonvolatile one (R490, R492,
R493, R496, R504); each changes nothing where it is not due.

The pins and the clock come back as the board drives them (R386, R488, R497 to R499): RESET_N rising starts a boot, the
supplies rise with RESET_N low, REFCLK returns; its loss past the first boot step is reported; ALIVE toggles while it runs;
each changes nothing where it is not due.

The power-fail warning (R442, R494, R495, R497): before the scan is complete the recorder takes nothing; with the recorder
ready and idle the power-fail record takes its number and its slot at once; 62 µs later no record is accepted; the release
counts PWRFAIL_RELEASE, darkens every port and asks for a self-reset within 1 ms.

The UCIe modules (R14, R243, R457): a module that comes up after boot step 2 sets its bit, one that goes down clears it; no
other bit changes; only fetches of weight chunks move with them, and none where no plan is held. -/
def Obligations.ResetPinsAndModules : Prop :=
  (∀ s : State,
     (s.chip.on = true → ∃ u, exec .resetNAssert s = .next u ∧ WipedByReset false s u
       ∧ u.chip.pins = { powered := true, resetN := false, pwrfailN := s.chip.pins.pwrfailN, refclk := s.chip.pins.refclk }) ∧
     (s.chip.on = false → exec .resetNAssert s = .next s) ∧
     (s.chip.on = true → s.chip.boot.selfReset.isSome = true → s.chip.flt.thermal = false → s.chip.pins.refclk = true →
       ∃ u, exec .selfReset s = .next u ∧ WipedByReset false s u
         ∧ u.chip.pins = { powered := true, resetN := true, pwrfailN := s.chip.pins.pwrfailN, refclk := true }) ∧
     (s.chip.boot.selfReset = none ∨ s.chip.flt.thermal = true → exec .selfReset s = .next s) ∧
     (∃ u, exec .powerRemoved s = .next u ∧ WipedByReset true s u ∧ u.chip.pins.powered = false ∧ u.chip.pins.resetN = false)) ∧
  (∀ s : State,
     (s.chip.pins.powered = true → s.chip.pins.resetN = false → exec .resetNRelease s = .next { s with chip := { s.chip with
       pins := { s.chip.pins with resetN := true }, boot := { s.chip.boot with t0 := s.chip.tick.count } } }) ∧
     (s.chip.pins.powered = false ∨ s.chip.pins.resetN = true → exec .resetNRelease s = .next s) ∧
     (s.chip.pins.powered = false → exec .powerApplied s = .next { s with chip := { s.chip with
       pins := { s.chip.pins with powered := true, resetN := false, pwrfailN := true } } }) ∧
     (s.chip.pins.powered = true → exec .powerApplied s = .next s) ∧
     (s.chip.pins.powered = true → exec .refclkReturn s = .next { s with chip := { s.chip with
       pins := { s.chip.pins with refclk := true } } }) ∧
     (s.chip.on = true → s.chip.pins.refclk = true → s.chip.sys.bootStep ≠ 0 → ∃ u, exec .refclkLoss s = .next u
       ∧ u.chip.pins.refclk = false ∧ Counted s.chip u.chip Src.refclkLoss 0 ∧ Only reportParts s u) ∧
     (s.chip.on = false ∨ s.chip.sys.bootStep = 0 → exec .refclkLoss s = .next { s with chip := { s.chip with
       pins := { s.chip.pins with refclk := false } } }) ∧
     (s.chip.pins.aliveRun = true → exec .aliveToggle s = .next { s with chip := { s.chip with
       pins := { s.chip.pins with alive := !s.chip.pins.alive } } }) ∧
     (s.chip.pins.aliveRun = false → exec .aliveToggle s = .next s)) ∧
  (∀ s : State, s.chip.on = true →
     (s.chip.pins.pwrfailN = true → s.chip.evr.ready = false → exec .pwrfailNAssert s = .next { s with chip := { s.chip with
       pins := { s.chip.pins with pwrfailN := false, pwrfailAt := some s.chip.tick.count }
       evr := { s.chip.evr with closed := true, buffer := [] } } }) ∧
     (s.chip.pins.pwrfailN = true → s.chip.evr.ready = true → s.chip.evr.closed = false → s.chip.evr.buffer = [] →
       (freeSlot s.chip 4096 ((s.chip.evr.lastSeq + 1).toNat % 4)).isSome = true →
       ∃ u b, exec .pwrfailNAssert s = .next u ∧ u.chip.pins = { s.chip.pins with pwrfailN := false, pwrfailAt := some s.chip.tick.count }
         ∧ u.chip.evr.buffer = [b] ∧ b.r.source = 0x0101 ∧ b.r.seq = some (s.chip.evr.lastSeq + 1) ∧ b.slot.isSome = true
         ∧ u.chip.evr.lastSeq = s.chip.evr.lastSeq + 1 ∧ u.chip.evr.slotsBefore = some s.chip.evr.slots
         ∧ Only [.pins, .evr] s u) ∧
     (s.chip.pins.pwrfailN = false → exec .pwrfailNAssert s = .next s) ∧
     (s.chip.pins.pwrfailAt.isSome = true → exec .evrPwrfailCutoff s = .next { s with chip := { s.chip with
       evr := { s.chip.evr with closed := true } } }) ∧
     (s.chip.pins.pwrfailAt = none → exec .evrPwrfailCutoff s = .next s) ∧
     (s.chip.pins.pwrfailN = true → exec .pwrfailNRelease s = .next s) ∧
     (s.chip.pins.pwrfailN = false → s.chip.pins.pwrfailAt.isSome = true → s.chip.flt.thermal = false →
       ∃ u, exec .pwrfailNRelease s = .next u ∧ u.chip.pins.pwrfailN = true ∧ (∀ p, (u.chip.port p).dark = true)
         ∧ (∃ d, u.chip.boot.selfReset = some d ∧ d ≤ 1) ∧ Counted s.chip u.chip Src.pwrfailRelease 0 ∧ Only reportParts s u)) ∧
  (∀ (s : State) (m : UcieIx),
     (s.chip.on = true → 2 ≤ s.chip.sys.bootStep.toNat → ∃ u, exec (.ucieModuleUp m) s = .next u
       ∧ (∀ k : UcieIx, u.chip.moduleUp k = (s.chip.moduleUp k || k == m))
       ∧ u.chip.sys = { s.chip.sys with ucieUp := u.chip.sys.ucieUp } ∧ Only [.sys, .load, .out] s u
       ∧ (s.chip.load.incoming = none → s.chip.load.activePlan = none → Only [.sys] s u)) ∧
     (∃ u, exec (.ucieModuleDown m) s = .next u ∧ (∀ k : UcieIx, u.chip.moduleUp k = (s.chip.moduleUp k && k != m))
       ∧ u.chip.sys = { s.chip.sys with ucieUp := u.chip.sys.ucieUp } ∧ Only [.sys, .load, .out] s u
       ∧ (s.chip.load.incoming = none → s.chip.load.activePlan = none → Only [.sys] s u)))

/-- The boot steps (R386, R499, R502, R508): each moves the step on where it is due, with its failures as R502 codes them.

START_UP_CHECK (R103, R263, R499): at boot step 7 every plane record of a mapped array is judged, a bad record of an own plane
being queued to be rewritten and reported; a stand-in that had FAILED before a power cycle is free where its check passes and
stays FAILED where it does not (log entry 33); on a device that holds no epoch, with no finding, only the step moves on. -/
def Obligations.BootStepsAndStartUpCheck : Prop :=
  (∀ s : State, s.chip.on = true →
     (s.chip.pins.refclk = true → s.chip.sys.bootStep = 0 → s.chip.boot.dead = false →
       exec (.bootFuseLoad 0 false) s = .next { s with chip := { s.chip with
         boot := { s.chip.boot with fuseOk := true }, sys := { s.chip.sys with bootStep := 1 }
         evr := { s.chip.evr with pcycle := satAdd s.chip.evr.pcycle 1, scanning := true } } } ∧
       exec (.bootFuseLoad 0 true) s = .next { s with chip := { s.chip with boot := { s.chip.boot with fail := 1, dead := true } } } ∧
       ∃ u, exec (.bootFuseLoad 1 false) s = .next u ∧ u.chip.sys.bootStep = 1 ∧ Counted s.chip u.chip Src.fuseEcc 0) ∧
     (∀ modules, s.chip.sys.bootStep = 1 → s.chip.boot.dead = false →
       exec (.bootRomInit true modules) s = .next { s with chip := { s.chip with
         sys := { s.chip.sys with bootStep := 2, ucieUp := modules } } } ∧
       exec (.bootRomInit false modules) s = .next { s with chip := { s.chip with boot := { s.chip.boot with fail := 2, dead := true } } }) ∧
     (s.chip.sys.bootStep = 5 → exec .bootPortStepEnd s = .next { s with chip := { s.chip with
       sys := { s.chip.sys with bootStep := 6 } } }) ∧
     (s.chip.sys.bootStep = 7 → ∃ u, exec .keyDerivation s = .next u ∧ u.chip.sys = { s.chip.sys with bootStep := 8 }
       ∧ u.chip.boot.idOk = (derivedPublic "FQP2-IDK" == beBytes 97 Config.idCertKey.toNat
           && derivedPublic "FQP2-KTK" == beBytes 97 Config.ktCertKey.toNat)
       ∧ u.chip.boot.ktEnabled = (u.chip.boot.idOk && !s.chip.boot.debugOpen) ∧ Only [.sys, .boot] s u) ∧
     (s.chip.sys.bootStep = 8 → s.chip.evr.ready = true → ∃ u, exec .bootComplete s = .next u
       ∧ u.chip.sys = { s.chip.sys with bootStep := 9 } ∧ u.chip.pins = { s.chip.pins with aliveRun := !s.chip.flt.faultState }
       ∧ u.chip.boot.aliveMs = BitVec.ofNat 32 ((s.chip.tick.count - s.chip.boot.t0).toNat / 1_000_000)
       ∧ Only [.sys, .pins, .boot] s u) ∧
     (s.chip.sys.bootStep = 8 → s.chip.evr.ready = false → exec .bootComplete s = .next s)) ∧
  (∀ s : State, s.chip.on = true →
     (s.chip.sys.bootStep ≠ 6 → ∀ r b f, exec (.startUpCheck r b f) s = .next s) ∧
     (s.chip.sys.bootStep = 6 → s.chip.rcp.active = none → s.chip.arr.maps = [] → s.chip.load.requests = [] →
       s.chip.load.activePlan = none →
       (s.chip.load.active = none → (∀ t, (s.chip.tileArr t).standin.state ≠ .failed) →
         exec (.startUpCheck [] [] []) s = .next { s with chip := { s.chip with sys := { s.chip.sys with bootStep := 7 } } }) ∧
       (∀ (t : TileIx) (f : List TileIx), s.chip.load.active = none → (s.chip.tileArr t).standin.state = .failed →
         (s.chip.tileArr t).recheck = true → s.chip.spk.unbound = none →
         ∃ u, exec (.startUpCheck [] [] f) s = .next u ∧ u.chip.sys = { s.chip.sys with bootStep := 7 }
           ∧ ((u.chip.tileArr t).standin.state = .free ↔ t ∉ f) ∧ (t ∈ f → u.chip.tileArr t = s.chip.tileArr t)
           ∧ Only [.sys, .arr] s u) ∧
       (∀ (e : Epoch) (t : TileIx) (n : Fin 17) (p : BitVec 2) (b : List (TileIx × Fin 17 × BitVec 2)),
         s.chip.load.active = some e → e.buddyOff = false → (bankPlane e.bank p).toNat < 2 → (s.chip.tileMap t).isRetired n = false →
         ((s.chip.tileMap t).logical n).isSome = true → (t, n, p) ∈ b →
         ∃ u, exec (.startUpCheck [] b []) s = .next u ∧ u.chip.sys = { s.chip.sys with bootStep := 7 }
           ∧ (t, n, p) ∈ u.chip.load.rewrite ∧ (u.chip.fltSrc Src.startVerify.toNat).sticky = true)))

/-- FIRMWARE_FETCH_DONE (R461, R500 to R503): a fetch that failed and an image that does not check leave their code and are
reported; one that checks is retained, SYS_BOOT locks, firmware runs, queue 0 is ready with its words zero, and the full
calibration starts.

DBG_TOKEN (R514): whether or not the token verifies the nonce has served; a good token clears the content keys and the
prefix key, disables key transport and opens debug, with DEBUG_UNLOCK; a bad one changes neither, with DEBUG_REJECT. -/
def Obligations.FirmwareImageAndDebug : Prop :=
  (∀ (s : State) (bytes : List Byte), s.chip.on = true →
     (s.chip.boot.fetching = false → exec (.firmwareFetchDone (some bytes)) s = .next s) ∧
     (s.chip.boot.fetching = true → ∃ u, exec (.firmwareFetchDone none) s = .next u ∧ u.chip.boot.fail = 6
       ∧ u.chip.boot.fetching = false ∧ Counted s.chip u.chip Src.fwReject 0 ∧ Only reportParts s u) ∧
     (s.chip.boot.fetching = true → ∃ u, exec (.firmwareFetchDone (some bytes)) s = .next u ∧
       match s.chip.checkFirmware bytes with
       | .good i => u.chip.boot = { s.chip.boot with image := some i, locked := true, fetching := false }
           ∧ u.chip.sys = { s.chip.sys with bootStep := 4 } ∧ u.chip.mbx.fwState = 1 ∧ u.chip.cal.full = some none
           ∧ u.chip.mq 0 = { s.chip.mq 0 with sqTail := 0, sqHead := 0, cqHead := 0, cqTail := 0, used := 0, phase := true }
           ∧ (∀ w : WordIx, 1920 ≤ w.toNat → u.chip.bufWord 0 w = { data := 0, check := check512 0, poison := false })
           ∧ Only [.boot, .sys, .mbx, .cal, .buf] s u
       | .bad 5 => u.chip.boot.fail = 5 ∧ u.chip.sys.bootStep = 3 ∧ Counted s.chip u.chip Src.fwRollback 0
       | .bad code => u.chip.boot.fail = BitVec.ofNat 8 code ∧ Counted s.chip u.chip Src.fwReject 0)) ∧
  (∀ (s : State) (token : List Byte), s.chip.on = true → s.chip.sys.bootStep ≠ 0 →
     ∃ u, exec (.dbgToken token) s = .next u ∧ u.chip.boot.dbgNonce = none ∧ Only (.serve :: reportParts) s u ∧
       if s.chip.tokenGood token = true then
         u.chip.boot.debugOpen = true ∧ u.chip.boot.ktEnabled = false ∧ u.chip.serve.prefixKey = none
           ∧ u.chip.load.keyActive = none ∧ u.chip.load.keyIncoming = none ∧ Counted s.chip u.chip Src.debugUnlock 0
       else u.chip.boot.debugOpen = s.chip.boot.debugOpen ∧ u.chip.serve = s.chip.serve
           ∧ u.chip.load.keyActive = s.chip.load.keyActive ∧ Counted s.chip u.chip Src.debugReject 0)

/-! ## Housekeeping, temperature, calibration and the event recorder (chapters 11 and 12) -/

/-- A housekeeping round (R397, R398, R414): its start puts the set values and the new slope factors in force; a conversion
stores the sum of its codes, rounded half to even, with the round and no other channel; its end, with gate and scan done,
counts the round.

The end of a scan (R26, R415, R416): XCHECK is the difference of the two references, a difference above 8 is reported; the
rails' powers are summed over the die's four rails and over all eight. -/
def Obligations.RoundsAndSums : Prop :=
  (∀ s : State, s.chip.on = true →
     (s.chip.pins.refclk = true → 1 ≤ s.chip.sys.bootStep.toNat → swf (fun _ => ({} : ThmTemp)) s.chip.hk.temp = true →
       ∃ u, exec .hkRoundStart s = .next u ∧ u.chip.hk.act = s.chip.hk.set ∧ u.chip.hk.inRound = true
         ∧ u.chip.hk.thermalDone = false ∧ u.chip.hk.scanDone = false
         ∧ (∀ n, u.chip.temp n = { s.chip.temp n with g := (s.chip.temp n).gNext }) ∧ Only [.hk] s u) ∧
     (s.chip.pins.refclk = false → exec .hkRoundStart s = .next s) ∧
     (∀ (ch : BitVec 5) (codes : List Int), s.chip.hk.inRound = true → hkReserved false ch.toNat = false →
       s.chip.hk.act.alignA = false → ∃ u, exec (.hkConversion false ch codes) s = .next u
         ∧ (u.chip.hkA ch.toNat).valid = true ∧ (u.chip.hkA ch.toNat).round = s.chip.hk.round.setWidth 16
         ∧ (u.chip.hkA ch.toNat).value = BitVec.ofInt 24 (intDivHalfEven
             (((codes.take (2 ^ s.chip.hk.act.avgA.toNat)).map (hkClamp false ch.toNat)).foldl (· + ·) 0)
             (2 ^ s.chip.hk.act.avgA.toNat))
         ∧ (∀ k, k ≠ ch.toNat → u.chip.hkA k = s.chip.hkA k) ∧ u.chip.hk.resB = s.chip.hk.resB ∧ Only [.hk] s u) ∧
     (∀ b (ch : BitVec 5) codes, s.chip.hk.inRound = false ∨ hkReserved b ch.toNat = true →
       exec (.hkConversion b ch codes) s = .next s) ∧
     (s.chip.hk.inRound = true → s.chip.hk.thermalDone = true → s.chip.hk.scanDone = true →
       ∃ u, exec .hkRoundEnd s = .next u ∧ u.chip.hk = { s.chip.hk with round := s.chip.hk.round + 1, inRound := false }
         ∧ Only [.hk, .cal] s u ∧ (s.chip.flt.faultState = true → u.chip.cal = s.chip.cal)) ∧
     (s.chip.hk.scanDone = false → exec .hkRoundEnd s = .next s)) ∧
  (∀ s : State, s.chip.on = true → s.chip.hk.inRound = true → s.chip.hk.scanDone = false →
     ∃ u, exec .hkScanEnd s = .next u ∧ u.chip.hk.scanDone = true
       ∧ u.chip.hk.xcheckDiff
           = BitVec.ofInt 16 ((s.chip.hkA 31).right - (sget (fun _ => ({} : HkRes)) s.chip.hk.resB 31).right)
       ∧ (8 < ((s.chip.hkA 31).right - (sget (fun _ => ({} : HkRes)) s.chip.hk.resB 31).right).natAbs →
           (u.chip.fltSrc Src.hkXcheck.toNat).sticky = true)
       ∧ u.chip.hk.dieMw = BitVec.ofNat 32 ((s.chip.railPower 0).1 + (s.chip.railPower 1).1 + (s.chip.railPower 2).1
           + (s.chip.railPower 3).1)
       ∧ u.chip.hk.pkgMw = BitVec.ofNat 32 ((s.chip.railPower 0).1 + (s.chip.railPower 1).1 + (s.chip.railPower 2).1
           + (s.chip.railPower 3).1 + (s.chip.railPower 4).1 + (s.chip.railPower 5).1 + (s.chip.railPower 6).1
           + (s.chip.railPower 7).1)
       ∧ Only (.hk :: .sys :: reportParts) s u)

/-- Open-wire tests and urgent conversions (R417, R418): the next enabled input is tested, its bit says whether it is open, an
open one is reported; with no input enabled nothing changes; an urgent request on a busy converter is dropped and counted, on
a free one it changes nothing of the block.

Temperatures (R400 to R405): a gate gives each of the 72 oscillators its round, failing ones are reported; a reading at or
above the warning threshold sets the warning, all readings at or below its clear value end it; each sector's throttle follows
its rule; a reading of 118 °C shuts down and drives THERMTRIP_N; the comparator's path drives it by itself, in reset the pin
alone. -/
def Obligations.OpenWiresAndThermalLevels : Prop :=
  (∀ s : State, s.chip.on = true →
     (∀ b x y, s.chip.owNext b = none → exec (.openWireTest b x y) s = .next s) ∧
     (∀ (b : Bool) (x y : Int) (n : Nat), s.chip.hk.scanDone = true → s.chip.owNext b = some n →
       (if b then 1000 else 8000) < (x - y).natAbs → ∃ u, exec (.openWireTest b x y) s = .next u
         ∧ u.chip.hk.open' = (s.chip.hk.open' ||| (1#16 <<< (n + if b then 8 else 0)))
         ∧ Counted s.chip u.chip Src.hkOpenWire (BitVec.ofNat 32 (n + if b then 8 else 0)) ∧ Only (.hk :: reportParts) s u) ∧
     (∀ (b : Bool) (x y : Int) (n : Nat), s.chip.hk.scanDone = true → s.chip.owNext b = some n →
       (x - y).natAbs ≤ (if b then 1000 else 8000) → ∃ u, exec (.openWireTest b x y) s = .next u
         ∧ u.chip.hk.open' = (s.chip.hk.open' &&& ~~~(1#16 <<< (n + if b then 8 else 0))) ∧ Only [.hk] s u) ∧
     (∀ b ch code k, s.chip.hkBusy = true → ∃ u, exec (.urgentConversion b ch code k false) s = .next u
       ∧ u.chip.hk = { s.chip.hk with urgentDrops := satAdd s.chip.hk.urgentDrops 1 }
       ∧ Counted s.chip u.chip Src.hkUrgentDrop 0 ∧ Only (.hk :: reportParts) s u) ∧
     (∀ b ch code k, s.chip.hkBusy = false → exec (.urgentConversion b ch code k false) s = .next s)) ∧
  (∀ s : State,
     (∀ counts : Vector Nat 72, s.chip.on = true → s.chip.hk.inRound = true → s.chip.hk.thermalDone = false →
       ∃ u, exec (.thermalGateClose counts) s = .next u ∧ u.chip.hk.thermalDone = true
         ∧ (∀ i : Fin 72, u.chip.temp i.val = (tempRound (s.chip.temp i.val) i.val counts[i]).1)
         ∧ (∀ i : Fin 72, (tempRound (s.chip.temp i.val) i.val counts[i]).2 = true →
             (u.chip.fltSrc Src.thmSensor.toNat).sticky = true)
         ∧ Only (.hk :: reportParts) s u) ∧
     (s.chip.hk.thermalDone = false → exec .thermalLevelEvaluate s = .next s) ∧
     (s.chip.on = true → s.chip.hk.thermalDone = true → ∃ u, exec .thermalLevelEvaluate s = .next u
       ∧ ((∃ p ∈ s.chip.readings (List.range 72), Int.ofNat (16 * s.chip.hk.act.warnSet.toNat) ≤ p.2) → u.chip.hk.warning = true)
       ∧ (s.chip.hk.act.warnClr.toNat < s.chip.hk.act.warnSet.toNat → s.chip.readings (List.range 72) ≠ [] →
           (∀ p ∈ s.chip.readings (List.range 72), p.2 ≤ Int.ofNat (16 * s.chip.hk.act.warnClr.toNat)) → u.chip.hk.warning = false)
       ∧ (∀ i : Fin 16, (u.chip.sector i.val).throttle = s.chip.throttleNext i.val)
       ∧ (s.chip.hk.shutdown = false → (∃ p ∈ s.chip.readings (List.range 72), 16 * 118 ≤ p.2) →
           u.chip.hk.shutdown = true ∧ u.chip.pins.thermtrip = true ∧ (u.chip.fltSrc Src.thmShutdown.toNat).sticky = true)
       ∧ Only (.hk :: reportParts) s u) ∧
     (s.chip.on = true → ∃ u, exec .thermtripComparatorTrip s = .next u ∧ u.chip.hk.trip = true ∧ u.chip.pins.thermtrip = true
       ∧ Counted s.chip u.chip Src.thmTrip 0 ∧ Only (.hk :: reportParts) s u) ∧
     (s.chip.pins.powered = true → s.chip.pins.resetN = false → exec .thermtripComparatorTrip s = .next { s with chip :=
       { s.chip with pins := { s.chip.pins with thermtrip := true } } }))

/-- Calibration (R406, R409 to R411): an agreeing pair within the residual limit makes its item GOOD; four that disagree make
it DOUBTFUL and are reported; a step moves a live port's codes one toward their targets; a sweep stores the eye, one below the
minimum is reported. -/
def Obligations.CalibrationItems : Prop :=
  ∀ s : State, s.chip.on = true →
    (∀ (r : Fin 9) (i : BitVec 3) (m : CalMeasure) (codes : List Int) (j : BitVec 3) (left : List (BitVec 3)),
      s.chip.calLeft r = i :: j :: left → r.val ≠ 0 ∨ i = 1 → (m.first - m.second).natAbs ≤ calAgreement i.toNat →
      m.residualPpm ≤ calLimit i.toNat → ∃ u, exec (.calItemMeasure r i [m] codes) s = .next u
        ∧ (sget (fun _ => ({} : CalItem)) u.chip.cal.item (8 * r.val + i.toNat)).state = 1
        ∧ (sget (fun _ => ({} : CalItem)) u.chip.cal.item (8 * r.val + i.toNat)).residual
            = BitVec.ofNat 24 (min (2 ^ 24 - 1) m.residualPpm)
        ∧ u.chip.calLeft r = j :: left ∧ Only [.hk, .cal] s u) ∧
    (∀ (r : Fin 9) (i : BitVec 3) (m1 m2 m3 m4 : CalMeasure) (codes : List Int) (j : BitVec 3) (left : List (BitVec 3)),
      s.chip.calLeft r = i :: j :: left → r.val ≠ 0 ∨ i = 1 →
      (∀ m ∈ [m1, m2, m3, m4], calAgreement i.toNat < (m.first - m.second).natAbs) →
      ∃ u, exec (.calItemMeasure r i [m1, m2, m3, m4] codes) s = .next u
        ∧ (sget (fun _ => ({} : CalItem)) u.chip.cal.item (8 * r.val + i.toNat)).state = 2
        ∧ (u.chip.fltSrc Src.calDoubtful.toNat).sticky = true ∧ (u.chip.fltSrc Src.calRetry.toNat).sticky = true) ∧
    (∀ p, (s.chip.port p).isUp = false → exec (.calTrimStep p) s = .next s) ∧
    (∀ (p : PortIx) (l : Fin 8) (x t : BitVec 8), (s.chip.port p).isUp = true →
      (sget (fun _ => ({} : CalLane)) s.chip.cal.lane (8 * p.toNat + l.val)).bias = some x →
      (sget (fun _ => ({} : CalLane)) s.chip.cal.lane (8 * p.toNat + l.val)).biasTo = some t →
      ∃ u, exec (.calTrimStep p) s = .next u
        ∧ (sget (fun _ => ({} : CalLane)) u.chip.cal.lane (8 * p.toNat + l.val)).bias
            = some (if x.toNat < t.toNat then x + 1 else if t.toNat < x.toNat then x - 1 else x)
        ∧ Only [.cal] s u) ∧
    (∀ (p : PortIx) (l : BitVec 3) (mui : BitVec 10), ∃ u, exec (.eyeSweep p l mui) s = .next u
      ∧ (sget (fun _ => ({} : CalLane)) u.chip.cal.lane (8 * p.toNat + l.toNat)).eye = mui
      ∧ (mui < s.chip.hk.act.eyeMin →
          Counted s.chip u.chip Src.calEye (BitVec.ofNat 32 (p.toNat + place 20 3 l.toNat)) ∧ Only (.cal :: reportParts) s u)
      ∧ (¬ mui < s.chip.hk.act.eyeMin → Only [.cal] s u))

/-- The recorder's own events (R434, R437, R439, R442, R447): a write that reads back makes its record durable and, being the
last, ends the flush; one that does not marks its slot bad and is reported; the scan's end makes the recorder ready, an empty
area numbering the power-up record 1 (no flush running); a clear's step 3 that ends completes its command; the hours counter counts. -/
def Obligations.RecorderEvents : Prop :=
  ∀ (s : State) (b : EvBuf) (i : BitVec 14) (n : BitVec 32), b.slot = some i → b.r.seq = some n →
    (s.chip.evr.buffer = [b] → s.chip.evr.clear = none → s.chip.evr.ready = true → s.chip.evr.flushing = true →
      ∃ u, exec (.evrSlotWriteDone (BitVec.ofNat 2 n.toNat) true) s = .next u ∧ u.chip.evSlot i.toNat = .holds b.r
        ∧ u.chip.evr.buffer = [] ∧ u.chip.evr.flushing = false
        ∧ (∀ k, k ≠ i.toNat → u.chip.evSlot k = s.chip.evSlot k) ∧ Only [.evr] s u) ∧
    (s.chip.evr.buffer = [b] → s.chip.evr.clear = none →
      ∃ u, exec (.evrSlotWriteDone (BitVec.ofNat 2 n.toNat) false) s = .next u
        ∧ sget (fun _ => false) u.chip.evr.bad i.toNat = true
        ∧ Counted s.chip u.chip Src.evrWriteFail (BitVec.ofNat 32 i.toNat) ∧ Only reportParts s u) ∧
    (∀ bank ok, s.chip.evr.buffer = [] → exec (.evrSlotWriteDone bank ok) s = .next s) ∧
    (s.chip.on = true → s.chip.evr.scanning = true → s.chip.pins.pwrfailN = true → s.chip.evr.slots = [] →
      s.chip.evr.buffer = [] → s.chip.evr.closed = false → s.chip.evr.flushing = false → ∃ u x, exec .evrScanComplete s = .next u
        ∧ u.chip.evr.ready = true ∧ u.chip.evr.scanning = false ∧ u.chip.evr.lastSeq = 1 ∧ u.chip.evr.buffer = [x]
        ∧ x.r.source = 0x0100 ∧ x.r.seq = some 1 ∧ Only [.evr] s u) ∧
    (s.chip.evr.scanning = false → exec .evrScanComplete s = .next s) ∧
    (∀ (x : EvClear) (q : QueueIx) (e : List Byte), s.chip.evr.clear = some x → x.invalidating = true → x.queue = some q →
      s.chip.command q 0x0602 = some e → ∃ u, exec .evrClearDone s = .next u ∧ u.chip.evr = { s.chip.evr with clear := none }
        ∧ Completed s.chip u.chip q e 0 0 (s.chip.mq q).commit 0 ∧ Only (.evr :: mailParts) s u) ∧
    (s.chip.evr.clear = none → exec .evrClearDone s = .next s) ∧
    (s.chip.pins.powered = true → exec .hoursAdvance s = .next { s with chip := { s.chip with
      evr := { s.chip.evr with hours := s.chip.evr.hours + 1 } } })

/-! ## Buffers and sync objects (chapter 04) -/

/-- The SEC-DED code of R71 on a 64-bit part: what the write computes checks clean, one flipped bit of data or check is found
and corrected, two are found and not taken for one. -/
def Obligations.SecdedCorrectsOneFindsTwo : Prop :=
  ∀ d : BitVec 64,
    secdedDecode d (secdedCheck d) = (d, .clean) ∧
    (∀ i : Fin 64, secdedDecode (d ^^^ (1#64 <<< i.val)) (secdedCheck d) = (d, .single)) ∧
    (∀ j : Fin 8, secdedDecode d (secdedCheck d ^^^ (1#8 <<< j.val)) = (d, .single)) ∧
    (∀ i k : Fin 64, i ≠ k → (secdedDecode (d ^^^ (1#64 <<< i.val) ^^^ (1#64 <<< k.val)) (secdedCheck d)).2 = .double) ∧
    (∀ (i : Fin 64) (j : Fin 8), (secdedDecode (d ^^^ (1#64 <<< i.val)) (secdedCheck d ^^^ (1#8 <<< j.val))).2 = .double) ∧
    (∀ j k : Fin 8, j ≠ k → (secdedDecode d (secdedCheck d ^^^ (1#8 <<< j.val) ^^^ (1#8 <<< k.val))).2 = .double)

/-- Buffer reads (R114, R116 to R119, R136): outside slots a clean word comes back as stored; a word with a correctable error
comes back corrected, counted and reported; a double error comes back with POISON, counted and reported; a poisoned word comes
back with POISON, unchecked; no word changes. A tile-local read inside a slot whose fill object is in WAIT gets no reply and
waits on the object.

Buffer writes (R114 to R116, R119, R136): a whole word outside slots, or of the management class, is stored with its check
bytes, after a read of it in the same access slot that its requester makes; a partial write of a clean word replaces its bytes
alone, and one that meets a double error keeps POISON; a queued write-back stores its word and is done; no other word changes. A
write inside a slot whose drain object is in WAIT stores nothing and waits. -/
def Obligations.BufferReadsAndWrites : Prop :=
  (∀ (s : State) (t : TileIx) (w : WordIx) (cls : BufClass) (last : Bool) (slot : Nat), s.chip.on = true →
     (isLocal cls = false ∨ s.chip.slotOf t w = none →
       (CleanWord s.chip t w → ∃ u, exec (.bufferRead t w cls last slot 0 []) s = .next u
         ∧ u.chip.out = s.chip.out ++ [.bufReply t w cls (s.chip.bufWord t w).data false]
         ∧ (∀ v x, u.chip.bufWord v x = s.chip.bufWord v x) ∧ Only [.buf, .out] s u) ∧
       (∀ d, (s.chip.bufWord t w).poison = false → (s.chip.bank t w).sched = [] →
         decode512 (s.chip.bufWord t w).data (s.chip.bufWord t w).check = (d, true, false) →
         ∃ u l, exec (.bufferRead t w cls last slot 0 []) s = .next u ∧ u.chip.out = l ++ [.bufReply t w cls d false]
           ∧ (u.chip.tileBuf t).sbe = satAdd (s.chip.tileBuf t).sbe 1 ∧ Counted s.chip u.chip Src.bufSbe (wordDetail t w)
           ∧ (∀ v x, u.chip.bufWord v x = s.chip.bufWord v x) ∧ Only (.buf :: reportParts) s u) ∧
       (∀ d b, (s.chip.bufWord t w).poison = false → (s.chip.bank t w).sched = [] →
         decode512 (s.chip.bufWord t w).data (s.chip.bufWord t w).check = (d, b, true) →
         ∃ u l, exec (.bufferRead t w cls last slot 0 []) s = .next u ∧ u.chip.out = l ++ [.bufReply t w cls d true]
           ∧ (u.chip.tileBuf t).ded = satAdd (s.chip.tileBuf t).ded 1 ∧ Counted s.chip u.chip Src.bufDed (wordDetail t w)
           ∧ (b = true → (u.chip.tileBuf t).sbe = satAdd (s.chip.tileBuf t).sbe 1)
           ∧ (∀ v x, u.chip.bufWord v x = s.chip.bufWord v x) ∧ Only (.buf :: reportParts) s u) ∧
       ((s.chip.bufWord t w).poison = true → ∃ u, exec (.bufferRead t w cls last slot 0 []) s = .next u
         ∧ u.chip.out = s.chip.out ++ [.bufReply t w cls (decode512 (s.chip.bufWord t w).data (s.chip.bufWord t w).check).1 true]
         ∧ (∀ v x, u.chip.bufWord v x = s.chip.bufWord v x) ∧ Only [.buf, .out] s u)) ∧
     (∀ d, isLocal cls = true → s.chip.slotOf t w = some d → (s.chip.soObj (soIx t d.fill)).state = .wait → SoSettled s.chip →
       ∃ u, exec (.bufferRead t w cls last slot 0 []) s = .next u
         ∧ (u.chip.soObj (soIx t d.fill)).waiters = (s.chip.soObj (soIx t d.fill)).waiters
             ++ [{ guard := .slotRead, access := some (.read t w cls last 0 none) }]
         ∧ (u.chip.soObj (soIx t d.fill)).timer.isSome = true ∧ (u.chip.soObj (soIx t d.fill)).state = .wait
         ∧ (∀ j, j ≠ soIx t d.fill → u.chip.soObj j = s.chip.soObj j) ∧ Only [.so] s u)) ∧
  (∀ (s : State) (t : TileIx) (w : WordIx) (cls : BufClass) (data : BitVec 512) (p : Bool) (slot : Nat), s.chip.on = true →
     (cls = .management ∨ s.chip.slotOf t w = none →
       (∃ u, exec (.bufferWrite t w cls data p slot []) s = .next u
         ∧ u.chip.bufWord t w = { data, check := check512 data, poison := p }
         ∧ sget (fun _ => none) u.chip.buf.backs (bufKey t w) = (none : Option BufWord)
         ∧ (∀ v x, ¬ (v = t ∧ x = w) → u.chip.bufWord v x = s.chip.bufWord v x) ∧ Only [.buf] s u) ∧
       (CleanWord s.chip t w → ∃ u, exec (.bufferWrite t w cls data p slot [{ word := w, cls, kind := .read false 0 }]) s = .next u
         ∧ u.chip.out = s.chip.out ++ [.bufReply t w cls (s.chip.bufWord t w).data false]
         ∧ u.chip.bufWord t w = { data, check := check512 data, poison := p }
         ∧ (∀ v x, ¬ (v = t ∧ x = w) → u.chip.bufWord v x = s.chip.bufWord v x) ∧ Only [.buf, .out] s u)) ∧
     (∀ d, cls ≠ .management → s.chip.slotOf t w = some d → (s.chip.soObj (soIx t d.drain)).state = .wait → SoSettled s.chip →
       ∃ u, exec (.bufferWrite t w cls data p slot []) s = .next u
         ∧ (u.chip.soObj (soIx t d.drain)).waiters = (s.chip.soObj (soIx t d.drain)).waiters
             ++ [{ guard := .slotWrite, access := some (.write t w cls data p none) }] ∧ Only [.so] s u) ∧
     (∀ (off : BitVec 6) (bytes : List Byte), CleanWord s.chip t w → ∃ u, exec (.bufferPartialWrite t w off bytes slot 0 []) s = .next u
       ∧ (u.chip.bufWord t w).data = wordOfBytes (setBytes (leBytes 64 (s.chip.bufWord t w).data.toNat) off.toNat bytes)
       ∧ (u.chip.bufWord t w).check = check512 (u.chip.bufWord t w).data ∧ (u.chip.bufWord t w).poison = false
       ∧ (∀ v x, ¬ (v = t ∧ x = w) → u.chip.bufWord v x = s.chip.bufWord v x) ∧ Only [.buf] s u) ∧
     (∀ (off : BitVec 6) (bytes : List Byte) (d : BitVec 512) (b : Bool), (s.chip.bufWord t w).poison = false →
       decode512 (s.chip.bufWord t w).data (s.chip.bufWord t w).check = (d, b, true) →
       ∃ u, exec (.bufferPartialWrite t w off bytes slot 0 []) s = .next u
         ∧ (u.chip.bufWord t w).data = wordOfBytes (setBytes (leBytes 64 d.toNat) off.toNat bytes)
         ∧ (u.chip.bufWord t w).poison = true ∧ Counted s.chip u.chip Src.bufDed (wordDetail t w)
         ∧ (∀ v x, ¬ (v = t ∧ x = w) → u.chip.bufWord v x = s.chip.bufWord v x) ∧ Only (.buf :: reportParts) s u) ∧
     (∀ x, sget (fun _ => none) s.chip.buf.backs (bufKey t w) = some x → ∃ u, exec (.correctedWriteBack t w) s = .next u
       ∧ u.chip.bufWord t w = { data := x.data, check := check512 x.data, poison := x.poison }
       ∧ sget (fun _ => none) u.chip.buf.backs (bufKey t w) = (none : Option BufWord)
       ∧ (∀ v y, ¬ (v = t ∧ y = w) → u.chip.bufWord v y = s.chip.bufWord v y) ∧ Only [.buf] s u) ∧
     (sget (fun _ => none) s.chip.buf.backs (bufKey t w) = (none : Option BufWord) → exec (.correctedWriteBack t w) s = .next s))

/-- Fills and copies (R120 to R122, R171): one in range is queued behind those of its tile (log entry 36), one of a pass that runs
dry is not; one out of range, or of no words, is not and is reported; the end of a fill outside slots has written its constant
to every word of it and to no other; the end of a copy of clean words outside slots has written, at each word, what the source
word held before, wherever the two ranges lie. -/
def Obligations.FillsAndCopies : Prop :=
  ∀ (s : State) (t : TileIx) (pass : Option Pass), s.chip.on = true →
    ((∀ p ∈ pass, s.chip.fab.deviceHalt = false ∧ s.chip.runsDry t p = false) →
      (∀ (start : WordIx) (n : BitVec 12) (v : Word64) (so : Option (BitVec 3)), n ≠ 0 → start.toNat + n.toNat ≤ 2048 →
        ∃ u, exec (.fill t start n v so pass) s = .next u
          ∧ u.chip.engineOf t = s.chip.engineOf t ++ [{ copy := none, start, length := n, value := v, so, pass }]
          ∧ (∀ k, k ≠ t → u.chip.engineOf k = s.chip.engineOf k) ∧ u.chip.buf.words = s.chip.buf.words ∧ Only [.buf] s u) ∧
      (∀ (src dst : WordIx) (n : BitVec 12) (so : Option (BitVec 3)), n ≠ 0 → src.toNat + n.toNat ≤ 2048 →
        dst.toNat + n.toNat ≤ 2048 → ∃ u, exec (.copy t src dst n so pass) s = .next u
          ∧ u.chip.engineOf t = s.chip.engineOf t ++ [{ copy := some src, start := dst, length := n, value := 0, so, pass }]
          ∧ (∀ k, k ≠ t → u.chip.engineOf k = s.chip.engineOf k) ∧ u.chip.buf.words = s.chip.buf.words ∧ Only [.buf] s u) ∧
      (∀ (start : WordIx) (n : BitVec 12) (v : Word64), (n = 0 ∨ 2048 < start.toNat + n.toNat) →
        ∃ u, exec (.fill t start n v none pass) s = .next u ∧ Counted s.chip u.chip Src.bufOpRange (wordDetail t start)
          ∧ Only reportParts s u)) ∧
    (∀ (p : Pass) (start src : WordIx) (n : BitVec 12) (v : Word64) (so : Option (BitVec 3)), s.chip.runsDry t p = true →
      exec (.fill t start n v so (some p)) s = .next s ∧ exec (.copy t src start n so (some p)) s = .next s) ∧
    (∀ (f : FillCopy) (slot : Nat), s.chip.engineOf t = [f] → f.started = false → f.so = none →
      (∀ p ∈ f.pass, s.chip.fab.deviceHalt = false ∧ s.chip.runsDry t p = false) →
      f.start.toNat + f.length.toNat ≤ 2048 → (∀ w, s.chip.slotOf t w = none) → s.chip.engineWaits t = false →
      (f.copy = none → ∃ u, exec (.fillCopyDone t slot) s = .next u ∧ u.chip.engineOf t = []
        ∧ (∀ w : WordIx, f.start.toNat ≤ w.toNat → w.toNat < f.start.toNat + f.length.toNat → u.chip.bufWord t w
            = { data := fillWord f.value, check := check512 (fillWord f.value), poison := false })
        ∧ (∀ v w, ¬ (v = t ∧ f.start.toNat ≤ w.toNat ∧ w.toNat < f.start.toNat + f.length.toNat) →
            u.chip.bufWord v w = s.chip.bufWord v w)
        ∧ Only [.buf] s u) ∧
      (∀ src : WordIx, f.copy = some src → src.toNat + f.length.toNat ≤ 2048 →
        (∀ k < f.length.toNat, CleanWord s.chip t (src + BitVec.ofNat 11 k)) →
        ∃ u, exec (.fillCopyDone t slot) s = .next u ∧ u.chip.engineOf t = []
          ∧ (∀ k < f.length.toNat, let d := (s.chip.bufWord t (src + BitVec.ofNat 11 k)).data
              u.chip.bufWord t (f.start + BitVec.ofNat 11 k) = { data := d, check := check512 d, poison := false })
          ∧ (∀ v w, ¬ (v = t ∧ f.start.toNat ≤ w.toNat ∧ w.toNat < f.start.toNat + f.length.toNat) →
              u.chip.bufWord v w = s.chip.bufWord v w)
          ∧ Only [.buf] s u)) ∧
    (∀ slot, s.chip.engineOf t = [] → exec (.fillCopyDone t slot) s = .next s)

/-- Sync objects (R125 to R128, R131, R132, R148, R179, R208): SET loads an object, SIGNAL counts, SIGNAL_ERR puts it in ERROR, whether
they come as an operation or as a message of the control mesh; an error wins over the signal of its handshake, and a signal with
POISON is ERROR with code 3; a count past 24 bits is ERROR with code 2 and reported; a signal to an object that is OFF is a
stray; before any pass an object in ERROR is re-initialised at once. Stated for an object on which nothing waits and that guards
no slot.

Waiting and time (R126, R127, R129, R131, R166): an operation waits in an object's list while it is in WAIT and goes on at once in
MET; a strobe is broadcast and advances every running timer by one; a timer that has counted its class and one strobe more puts
an object on which nothing waits in TIMEOUT, one that has not changes no object; then the mesh and the stand-ins go on. -/
def Obligations.SyncObjectsWaitsAndTimers : Prop :=
  (∀ (s : State) (i : SoIx), s.chip.on = true → (s.chip.soObj i).waiters = [] → s.chip.slotPartner i = none →
     s.chip.load.requests = [] → s.chip.resuming = none →
     (SoSettled s.chip →
       (∀ (count limit : BitVec 24) (k : BitVec 3) (auto : Bool), ∀ x ∈ [Instr.soSet i count limit k auto [], .set i count limit k auto []],
         ∃ u, exec x s = .next u
           ∧ u.chip.soObj i = (let n := if auto = true ∧ limit.toNat ≤ count.toNat then count - limit else count
               { limit, count := n, tclass := k, auto, state := if limit.toNat ≤ n.toNat then .met else .wait })
           ∧ (∀ j, j ≠ i → u.chip.soObj j = s.chip.soObj j) ∧ Only [.so] s u) ∧
       (∀ n : BitVec 16, (s.chip.soObj i).state = .wait → (s.chip.soObj i).auto = false →
         (s.chip.soObj i).count.toNat + n.toNat < 2 ^ 24 → ∀ x ∈ [Instr.soSignal i n [], .signal i n false []],
         ∃ u, exec x s = .next u ∧ (u.chip.soObj i).count.toNat = (s.chip.soObj i).count.toNat + n.toNat
           ∧ (u.chip.soObj i).state
               = (if (s.chip.soObj i).limit.toNat ≤ (s.chip.soObj i).count.toNat + n.toNat then .met else .wait)
           ∧ (∀ j, j ≠ i → u.chip.soObj j = s.chip.soObj j) ∧ Only [.so] s u)) ∧
     (s.chip.rcp.begun = true →
       (∀ n : BitVec 16, (s.chip.soObj i).state ≠ .off → 2 ^ 24 ≤ (s.chip.soObj i).count.toNat + n.toNat →
         ∀ x ∈ [Instr.soSignal i n [], .signal i n false []], ∃ u, exec x s = .next u ∧ (u.chip.soObj i).state = .error
           ∧ (u.chip.soObj i).err = 2 ∧ Counted s.chip u.chip Src.soOverflow (soDetail i) ∧ Only (.so :: reportParts) s u) ∧
       (∀ (code : BitVec 4) (n : BitVec 16), (s.chip.soObj i).state ≠ .off → (s.chip.soObj i).count.toNat + n.toNat < 2 ^ 24 →
         ∀ x ∈ [(Instr.soSignalErr i code [], code), (.signalErr i code [], code), (.soSignal i n [.err code], code),
             (.signal i n true [], 3)],
         ∃ u, exec x.1 s = .next u ∧ (u.chip.soObj i).state = .error ∧ (u.chip.soObj i).err = x.2
           ∧ u.chip.so.errors = (if (s.chip.soObj i).state = .error then s.chip.so.errors else satAdd s.chip.so.errors 1)
           ∧ (∀ j, j ≠ i → u.chip.soObj j = s.chip.soObj j) ∧ Only [.so] s u)) ∧
     (s.chip.rcp.begun = false → SoSettled s.chip → s.chip.rcp.active = none → (s.chip.soObj i).state ≠ .off →
       ∀ code : BitVec 4, ∃ u, exec (.soSignalErr i code []) s = .next u ∧ u.chip.soObj i = {}
         ∧ u.chip.so.errors = satAdd s.chip.so.errors 1 ∧ Counted s.chip u.chip Src.soReinit (soDetail i)
         ∧ (∀ j, j ≠ i → u.chip.soObj j = s.chip.soObj j) ∧ Only (.so :: reportParts) s u) ∧
     (∀ n : BitVec 16, SoSettled s.chip → (s.chip.soObj i).state = .off → ∀ x ∈ [Instr.soSignal i n [], .signal i n false []],
       ∃ u, exec x s = .next u ∧ u.chip.so = { s.chip.so with stray := satAdd s.chip.so.stray 1 }
         ∧ Counted s.chip u.chip Src.soStray (soDetail i) ∧ Only (.so :: reportParts) s u)) ∧
  (∀ (s : State) (i : SoIx), s.chip.on = true → SoSettled s.chip →
     ((s.chip.soObj i).state = .wait → ∃ u, exec (.soWait i .recipeGuard) s = .next u
       ∧ (u.chip.soObj i).waiters = (s.chip.soObj i).waiters ++ [{ guard := .recipeGuard }]
       ∧ (u.chip.soObj i).timer.isSome = true ∧ (u.chip.soObj i).state = .wait
       ∧ (∀ j, j ≠ i → u.chip.soObj j = s.chip.soObj j) ∧ Only [.so] s u) ∧
     ((s.chip.soObj i).state = .met → (s.chip.soObj i).auto = false → (s.chip.soObj i).waiters = [] →
       ∃ u, exec (.soWait i .recipeGuard) s = .next u ∧ u.chip.out = s.chip.out ++ [.released i .recipeGuard true]
         ∧ u.chip.soObj i = s.chip.soObj i ∧ Only [.so, .out] s u) ∧
     (∃ u, exec .strobe s = .next u ∧ u.chip.out = s.chip.out ++ [.control 0 .strobe]
       ∧ (∀ j, u.chip.soObj j = { s.chip.soObj j with timer := (s.chip.soObj j).timer.map fun x => (x.1 + 1, x.2) })
       ∧ Only [.so, .fab, .out] s u) ∧
     (∀ n us, s.chip.rcp.begun = true → (s.chip.soObj i).state = .wait → (s.chip.soObj i).timer = some (n, us) → us + 1 ≤ n →
       (s.chip.soObj i).waiters = [] → (s.chip.soObj i).count.toNat < (s.chip.soObj i).limit.toNat →
       ∃ v : Chip, exec (.soTimerExpiry i []) s = .next (s.goesOn v) ∧ (v.soObj i).state = .timeout ∧ (v.soObj i).timer = none
         ∧ (∀ j, j ≠ i → v.soObj j = s.chip.soObj j) ∧ s.chip.Only [.so] v) ∧
     (∀ n us, (s.chip.soObj i).state = .wait → (s.chip.soObj i).timer = some (n, us) → n < us + 1 →
       (s.chip.soObj i).count.toNat < (s.chip.soObj i).limit.toNat →
       ∃ v : Chip, exec (.soTimerExpiry i []) s = .next (s.goesOn v) ∧ (∀ j, v.soObj j = s.chip.soObj j) ∧ s.chip.Only [.so] v))

/-! ## The tile arrays (chapters 01 to 03) -/

/-- ARRAY_OP_ISSUE (R72, R77, R110, R171, R307): nothing issues under a device HALT; else the operation at the head of a tile's
order issues on an array that can take it: its plane is selected first where it is not the selected one; a row read, and a
beat whose operand words are clean and whose sector has a place and no proof, leaves the order and works on its array; an
attention place is passed; the operations of a halted or cancelled pass are retired. Then the tile's node goes on, and rows that
stand-ins wait for are served. -/
def Obligations.IssueInOrder : Prop :=
  ∀ (s : State) (t : TileIx) (slot : Nat), s.chip.on = true →
    (s.chip.fab.deviceHalt = true → exec (.arrayOpIssue t slot) s = .next s) ∧
    (∀ (x : OrderItem) (rest : List OrderItem) (p : PassRec), s.chip.fab.deviceHalt = false → s.chip.load.drainSo = none →
      (∀ y ∈ s.chip.arr.vecQ, y.1 ≠ t) → (s.chip.tileRun t false).ops = x :: rest → p.isChunk = false →
      (s.chip.rcp.passes.find? fun x => some x.pass == (s.chip.tileRun t false).pass) = some p →
      (s.chip.runsDry t p.pass = true →
        ∃ v : Chip, exec (.arrayOpIssue t slot) s = .next (s.settled (v.advanceNode t))
          ∧ v.tileRun t false = { s.chip.tileRun t false with ops := [], last := some p.pass } ∧ s.chip.Only [.arr, .buf, .so] v) ∧
      (s.chip.runsDry t p.pass = false → x.expert = none → x.op = .attention →
        ∃ v : Chip, exec (.arrayOpIssue t slot) s = .next (s.settled (v.advanceNode t))
          ∧ v.tileRun t false = { s.chip.tileRun t false with
              ops := rest, last := if rest.isEmpty then some p.pass else (s.chip.tileRun t false).last, passed := none, late := false }
          ∧ s.chip.Only [.arr] v) ∧
      (∀ (tg : Target) (row : BitVec 9) (a : ArrRef) (st : Bool), s.chip.runsDry t p.pass = false → x.expert = none →
        x.op = .rowRead tg row → s.chip.runsOn t (s.chip.tileRun t false) (s.chip.orderName p.wepoch t tg) = some (a, st) →
        s.chip.unreadable t (s.chip.orderName p.wepoch t tg) st = false →
        (st = true ∨ s.chip.selectFirst t (s.chip.orderName p.wepoch t tg) = none → s.chip.arrFree t a = true →
          ∃ v : Chip, exec (.arrayOpIssue t slot) s = .next (s.settled (v.advanceNode t)) ∧ v.arrOp t a = some (.rowRead row false)
            ∧ (v.tileRun t false).ops = rest ∧ s.chip.orderName p.wepoch t tg ∈ (v.tileRun t false).touched
            ∧ (∀ u b, ¬ (u = t ∧ b = a) → v.arrOp u b = s.chip.arrOp u b) ∧ s.chip.Only [.arr] v) ∧
        (∀ i pl, st = false → s.chip.selectFirst t (s.chip.orderName p.wepoch t tg) = some (i, pl) → s.chip.arrFree t (.n i) = true →
          ∃ v : Chip, exec (.arrayOpIssue t slot) s = .next (s.settled (v.advanceNode t)) ∧ v.arrOp t (.n i) = some (.select pl none)
            ∧ v.tileRun t false = s.chip.tileRun t false
            ∧ (∀ u b, ¬ (u = t ∧ b = .n i) → v.arrOp u b = s.chip.arrOp u b) ∧ s.chip.Only [.arr] v)) ∧
      (∀ (b : BeatOp) (a : ArrRef) (st : Bool), s.chip.runsDry t p.pass = false → x.expert = none → x.op = .beat b →
        s.chip.runsOn t (s.chip.tileRun t false) (s.chip.orderName p.wepoch t b.target) = some (a, st) →
        s.chip.unreadable t (s.chip.orderName p.wepoch t b.target) st = false →
        (st = true ∨ s.chip.selectFirst t (s.chip.orderName p.wepoch t b.target) = none) → s.chip.arrFree t a = true →
        (∀ w ∈ [b.block, b.scaleWord], Sound s.chip t w ∧ (s.chip.bufWord t w).poison = false) →
        s.chip.proofHolds (sectorOf t) = false → s.chip.hasPlace (sectorOf t) = true →
        (s.chip.sector (sectorOf t)).waiting = [] →
        ∃ v : Chip, exec (.arrayOpIssue t slot) s = .next (s.settled (v.advanceNode t))
          ∧ v.arrOp t a = some (.beat {
              name := b.target, target := s.chip.orderName p.wepoch t b.target, fmt := b.fmt, group := b.group
              plane := (s.chip.physOf t (s.chip.orderName p.wepoch t b.target)).2
              block := leBytes 64 (s.chip.bufWord t b.block).data.toNat
              scale := (s.chip.bufWord t b.scaleWord).data.extractLsb' (8 * b.scaleByte.toNat) 8
              poison := s.chip.runPoison t false 0, acc := b.acc, pass := p.pass, layer := b.layer })
          ∧ (v.tileRun t false).ops = rest
          ∧ (v.sector (sectorOf t)).inBeat = (s.chip.sector (sectorOf t)).inBeat + 1
          ∧ (∀ u x, ¬ (u = t ∧ x = a) → v.arrOp u x = s.chip.arrOp u x) ∧ s.chip.Only [.arr, .buf] v))

/-- A beat's column values and partials (R50, R74): a column's value, the sum of its cells times the elements, is what the
eight bit-phase counts give with the weights 1 to 64 and −128; the partial of each weight is the combination of R74, iced
slices voted, which equals the sum over the rows of its decoded value (R37) times the element, within the bound of R50. For
the iced formats it is stated where two of a slice's three copies agree in every row: where they do not, the vote of R79 may
give another value, as the spec says. -/
def Obligations.BeatPartialsAreExact : Prop :=
  ∀ (rows : List (BitVec 1024)) (q : List Int), rows.length = 64 → q.length = 64 → (∀ x ∈ q, -128 ≤ x ∧ x < 128) →
    let rowSum := fun (w : BitVec 1024 → Int) => ((rows.zip q).map fun y => w y.1 * y.2).sum
    let same := fun (a b : Nat) => ∀ r ∈ rows, r.getLsbD a = r.getLsbD b
    let voted := fun (x y z v : Nat) => (v = x ∧ (same x y ∨ same x z)) ∨ (v = y ∧ same y z)
    (∀ col, columnOfPhases rows q col = rowSum (fun r => Int.ofNat (bit (r.getLsbD col)))
      ∧ columnValue rows q col = rowSum (fun r => Int.ofNat (bit (r.getLsbD col)))) ∧
    (∀ (f : WFmt) (j : Nat), j < WFmt.perRow f →
      let o := WFmt.cols f * j
      let col := fun (k : Nat) => columnValue rows q (o + k)
      let p := ((beatPartials f rows q).getD j (0, 0, 0)).1
      (f = .w1 → p = 2 * col 0 - q.sum) ∧
      (f = .wt → p = col 0 - col 1) ∧
      (f = .w2 → p = col 0 - 2 * col 1) ∧
      (f = .w2s → p = 4 * col 1 + 2 * col 0 - 3 * q.sum) ∧
      (f = .kv8 → p = col 0 + 2 * col 1 + 4 * col 2 + 8 * col 3 + 16 * col 4 + 32 * col 5 + 64 * col 6 - 128 * col 7) ∧
      (∀ v2 v3, f = .w4 → voted (o + 2) (o + 4) (o + 5) v2 → voted (o + 3) (o + 6) (o + 7) v3 →
        p = col 0 + 2 * col 1 + 4 * columnValue rows q v2 - 8 * columnValue rows q v3) ∧
      (∀ v6 v7, f = .w8 → voted (o + 6) (o + 8) (o + 9) v6 → voted (o + 7) (o + 10) (o + 11) v7 →
        p = col 0 + 2 * col 1 + 4 * col 2 + 8 * col 3 + 16 * col 4 + 32 * col 5
          + 64 * columnValue rows q v6 - 128 * columnValue rows q v7) ∧
      ((f = .w4 → ∃ v2 v3, voted (o + 2) (o + 4) (o + 5) v2 ∧ voted (o + 3) (o + 6) (o + 7) v3) →
        (f = .w8 → ∃ v6 v7, voted (o + 6) (o + 8) (o + 9) v6 ∧ voted (o + 7) (o + 10) (o + 11) v7) →
        p = rowSum (fun r => weightValue f fun k => r.getLsbD (o + k)) ∧
        p.natAbs ≤ (match f with
          | .w1 | .wt => 8192
          | .w2 => 16384
          | .w2s => 24576
          | .w4 => 65536
          | .w8 | .kv8 => 1048576)))

/-- The firing governor and proofs (R24, R25, R27, R403): while a proof is due no beat is admitted; where places suffice and no
proof is being inserted every waiting beat is, else the one that waits; a beat left without a place is counted and tallied,
once; a proof starts once PROOF_K beats have been admitted, and at its end the count restarts and the governor goes on.

The end of an array's operation (R53, R55, R71, R73 to R78, R90): a beat adds each weight's term into its accumulator
modulo 2⁸⁰ and frees its array and firing place; a zero beat adds nothing; a select leaves its plane selected, and a sprinkle's
beat that waited for it starts; a row read delivers the row, and under margin read the weak columns; an S-array row write stores
the masked words and their check bytes, the other words keep theirs. The beat is stated where no vote finds a minority or a
split and no scale is invalid. -/
def Obligations.ProofsAndArrayOperations : Prop :=
  (∀ (s : State) (k : BitVec 4), s.chip.on = true →
     (s.chip.proofHolds k.toNat = true → exec (.beatAdmit k) s = .next s) ∧
     (s.chip.proofOf k.toNat = none → s.chip.proofHolds k.toNat = false →
       (s.chip.sector k.toNat).inBeat.toNat + (s.chip.sector k.toNat).waiting.length ≤ (s.chip.sector k.toNat).share.toNat →
       (∀ w ∈ (s.chip.sector k.toNat).waiting, sectorOf w.1 = k.toNat) →
       ((s.chip.sector k.toNat).waiting.map fun w => (w.1, w.2.1)).Nodup →
       ∃ u, exec (.beatAdmit k) s = .next u
         ∧ (∀ w ∈ (s.chip.sector k.toNat).waiting, u.chip.arrOp w.1 w.2.1 = some (.beat w.2.2.1))
         ∧ (u.chip.sector k.toNat).waiting = []
         ∧ (u.chip.sector k.toNat).inBeat.toNat = (s.chip.sector k.toNat).inBeat.toNat + (s.chip.sector k.toNat).waiting.length
         ∧ (∀ j, j ≠ k.toNat → u.chip.sector j = s.chip.sector j) ∧ Only [.arr] s u) ∧
     (∀ t a b f, (s.chip.sector k.toNat).waiting = [(t, a, b, f)] → sectorOf t = k.toNat → s.chip.proofHolds k.toNat = false →
       (s.chip.hasPlace k.toNat = true → ∃ u, exec (.beatAdmit k) s = .next u ∧ u.chip.arrOp t a = some (.beat b)
         ∧ (u.chip.sector k.toNat).waiting = [] ∧ (u.chip.sector k.toNat).inBeat = (s.chip.sector k.toNat).inBeat + 1
         ∧ (u.chip.sector k.toNat).counted
             = (if (s.chip.proofOf k.toNat).isSome then satAdd (s.chip.sector k.toNat).counted 1 else 0)
         ∧ (∀ v x, ¬ (v = t ∧ x = a) → u.chip.arrOp v x = s.chip.arrOp v x)
         ∧ (∀ j, j ≠ k.toNat → u.chip.sector j = s.chip.sector j) ∧ Only [.arr] s u) ∧
       (s.chip.hasPlace k.toNat = false → f = false → ∃ u, exec (.beatAdmit k) s = .next u
         ∧ (u.chip.sector k.toNat).waiting = [(t, a, b, true)] ∧ (u.chip.sector k.toNat).inBeat = (s.chip.sector k.toNat).inBeat
         ∧ u.chip.sys = { s.chip.sys with fireWaits := satAdd s.chip.sys.fireWaits 1 }
         ∧ Counted s.chip u.chip Src.fireGovernor (tileDetail t (targetCode b.name) b.layer.toNat) ∧ Only (.sys :: reportParts) s u) ∧
       (s.chip.hasPlace k.toNat = false → f = true → ∃ u, exec (.beatAdmit k) s = .next u
         ∧ (∀ j, u.chip.sector j = s.chip.sector j) ∧ Only [.arr] s u)) ∧
     (∀ n len, s.chip.proofOf k.toNat = some (n, len) → (s.chip.sector k.toNat).proof = false →
       (n ≤ (s.chip.sector k.toNat).counted.toNat → ∃ u, exec (.proofStart k) s = .next u
         ∧ u.chip.sector k.toNat = { s.chip.sector k.toNat with proof := true }
         ∧ u.chip.out = s.chip.out ++ [.duration (8 * len)]
         ∧ (∀ j, j ≠ k.toNat → u.chip.sector j = s.chip.sector j) ∧ Only [.arr, .out] s u) ∧
       ((s.chip.sector k.toNat).counted.toNat < n → exec (.proofStart k) s = .next s)) ∧
     (s.chip.proofOf k.toNat = none ∨ (s.chip.sector k.toNat).proof = true → exec (.proofStart k) s = .next s) ∧
     ((s.chip.sector k.toNat).proof = true →
       ((s.chip.sector k.toNat).waiting = [] → ∃ u, exec (.proofEnd k) s = .next u
         ∧ u.chip.sector k.toNat = { s.chip.sector k.toNat with proof := false, counted := 0 }
         ∧ (∀ j, j ≠ k.toNat → u.chip.sector j = s.chip.sector j) ∧ Only [.arr] s u) ∧
       exec (.proofEnd k) s = exec (.beatAdmit k)
         { s with chip := s.chip.modSector k.toNat fun x => { x with proof := false, counted := 0 } }) ∧
     ((s.chip.sector k.toNat).proof = false → exec (.proofEnd k) s = .next s)) ∧
  (∀ (s : State) (t : TileIx) (a : ArrRef), s.chip.on = true →
     (∀ (b : Beat) (j : Nat), s.chip.arrOp t a = some (.beat b) → b.isZero = false → b.sprinkle = none →
       votesOf (beatPartials b.fmt (s.chip.groupRows t a b.group.toNat []) (b.block.map i8)) = (0, 0) →
       (s.chip.sector (sectorOf t)).waiting = [] → invalidScale b.scale = false →
       (∀ i, i < WFmt.perRow b.fmt → invalidScale (s.chip.weightScale t a b.group.toNat i) = false) →
       j < WFmt.perRow b.fmt →
       ∃ u, exec (.beatComplete t a []) s = .next u ∧ u.chip.arrOp t a = none
         ∧ (u.chip.sector (sectorOf t)).inBeat = (s.chip.sector (sectorOf t)).inBeat - 1
         ∧ (u.chip.accOf t (b.acc.toNat + j)).value
             = (if (s.chip.accOf t (b.acc.toNat + j)).pass = b.pass then (s.chip.accOf t (b.acc.toNat + j)).value else 0)
               + accWord (beatTerm
                   (beatPartial b.fmt (fun k => columnValue (s.chip.groupRows t a b.group.toNat []) (b.block.map i8)
                     (WFmt.cols b.fmt * j + k)) ((b.block.map i8).foldl (· + ·) 0)).1
                   (s.chip.weightScale t a b.group.toNat j) b.scale)
         ∧ (u.chip.accOf t (b.acc.toNat + j)).pass = b.pass ∧ Only [.arr, .vu] s u) ∧
     (∀ b : Beat, s.chip.arrOp t a = some (.beat b) → b.isZero = true → b.sprinkle = none →
       (s.chip.sector (sectorOf t)).waiting = [] → ∃ u, exec (.zeroBeatComplete t a) s = .next u ∧ u.chip.arrOp t a = none
         ∧ (u.chip.sector (sectorOf t)).inBeat = (s.chip.sector (sectorOf t)).inBeat - 1 ∧ Only [.arr] s u) ∧
     (∀ (i : Fin 17) (pl : BitVec 2),
       (s.chip.arrOp t (.n i) = some (.select pl none) →
         ∃ u, exec (.planeSelectComplete t i) s = .next u ∧ u.chip.selectedPlane t i = pl ∧ u.chip.arrOp t (.n i) = none
           ∧ (∀ v j, ¬ (v = t ∧ j = i) → u.chip.selectedPlane v j = s.chip.selectedPlane v j) ∧ Only [.arr] s u) ∧
       (∀ b : Beat, s.chip.arrOp t (.n i) = some (.select pl (some b)) → (s.chip.sector (sectorOf t)).waiting = [] →
         s.chip.proofHolds (sectorOf t) = false → s.chip.hasPlace (sectorOf t) = true →
         ∃ u, exec (.planeSelectComplete t i) s = .next u ∧ u.chip.selectedPlane t i = pl
           ∧ u.chip.arrOp t (.n i) = some (.beat b) ∧ Only [.arr] s u)) ∧
     (∀ row margin wrong weak, s.chip.arrOp t a = some (.rowRead row margin) →
       (∀ i, a = .n i → ∃ v : Chip, exec (.rowReadComplete t a wrong weak) s = .next (s.settled v) ∧ v.arrOp t a = none
         ∧ (v.tileArr t).rowRead = some (a, row.toNat, s.chip.arrRow t a row.toNat ^^^ colBits wrong,
             if margin then s.chip.weakCols weak else []) ∧ s.chip.Only [.arr] v) ∧
       (∀ i, a = .s i → wrong = [] → row.toNat < 288 →
         (∀ k, k < 16 → ((s.chip.sWords t i row.toNat).getD k (0, .double)).2 = .clean) →
         ∃ v : Chip, exec (.rowReadComplete t a wrong weak) s = .next (s.settled v) ∧ v.arrOp t a = none
           ∧ (v.tileArr t).rowRead = some (a, row.toNat, s.chip.sRow t i row.toNat, if margin then s.chip.weakCols weak else [])
           ∧ (∀ u j r, v.sRow u j r = s.chip.sRow u j r) ∧ s.chip.Only [.arr] v)) ∧
     (∀ (i : Fin 9) row mask data, s.chip.arrOp t (.s i) = some (.rowWrite row mask data none) → row.toNat < 288 → i ≠ 8 →
       s.chip.arr.rowQ = [] → s.chip.load.sLeft = [] → s.chip.rcp.streamLeft = [] →
       ∃ v : Chip, exec (.sRowWriteComplete t i) s = .next (s.settled v)
         ∧ (∀ k, k < 16 → (v.sRow t i row.toNat).extractLsb' (64 * k) 64
             = (if mask.getLsbD k then data else s.chip.sRow t i row.toNat).extractLsb' (64 * k) 64
           ∧ (v.sChecks t i row.toNat).extractLsb' (8 * k) 8
             = (if mask.getLsbD k then secdedCheck (data.extractLsb' (64 * k) 64)
                else (s.chip.sChecks t i row.toNat).extractLsb' (8 * k) 8))
         ∧ v.arrOp t (.s i) = none
         ∧ (∀ u j r, r < 288 → ¬ (u = t ∧ j = i ∧ r = row.toNat) → v.sRow u j r = s.chip.sRow u j r
           ∧ v.sChecks u j r = s.chip.sChecks u j r)
         ∧ s.chip.Only [.arr] v) ∧
     (s.chip.arrOp t a = none → (∀ wrong, exec (.beatComplete t a wrong) s = .next s) ∧ exec (.zeroBeatComplete t a) s = .next s
       ∧ (∀ wrong weak, exec (.rowReadComplete t a wrong weak) s = .next s)))

/-- Plane writes (R66, R67, R81 to R88, R250, R490): while PWRFAIL_N is low no write goes further; the first waiting write takes
a slot, its plane's record becomes 0xFE, its write count rises and its first row is asked for; complete with all its 288 rows,
the plane holds them, the check rows of R67 and the final record with the power-on hours; a row that fails its eight pulses
stops the write, which is counted and tallied, and an array with no spare left is retired. A pulse switches every cell that
read wrong; a cell that no pulse switches fails the row. -/
def Obligations.PlaneWrites : Prop :=
  (∀ (mask : BitVec 16) (data row : BitVec 1024) (x : RowTrouble), x.weak = [] →
    (x.stuck = 0 → writeRow mask data row x = ((row &&& ~~~maskCols mask) ||| (data &&& maskCols mask), true)) ∧
    ((row ^^^ data) &&& maskCols mask &&& x.stuck ≠ 0 → (writeRow mask data row x).2 = false)) ∧
  (∀ s : State, s.chip.on = true →
    (s.chip.firstWrite = none ∨ s.chip.pins.pwrfailN = false → exec .planeWriteSlotGrant s = .next s) ∧
    (∀ j, s.chip.firstWrite = some j → s.chip.pins.pwrfailN = true → s.chip.noWrite (s.chip.jobNow j) = false →
      let k := s.chip.jobNow j
      let r := s.chip.planeRec k.tile k.phys k.plane
      (r.writeCount.toNat + 1 ≠ s.chip.arr.wearWarn.toNat →
        ∃ v : Chip, exec .planeWriteSlotGrant s = .next (s.settled v)
          ∧ v.planeRec k.tile k.phys k.plane = { r with kind := 0xFE, writeCount := r.writeCount + 1 }
          ∧ v.arr.writes = s.chip.arr.writes.map (fun x => if x = j ∨ x = k then { k with running := true } else x)
          ∧ v.load.requests = s.chip.load.requests ++ (if k.why = .testPlane then [] else [.plane k.tile k.logical k.rel k.wepoch 0])
          ∧ (∀ t n p, ¬ (t = k.tile ∧ n = k.phys ∧ p = k.plane) → v.planeRec t n p = s.chip.planeRec t n p)
          ∧ s.chip.Only [.arr, .load] v) ∧
      (r.writeCount.toNat + 1 = s.chip.arr.wearWarn.toNat →
        ∃ v : Chip, exec .planeWriteSlotGrant s = .next (s.settled v)
          ∧ v.planeRec k.tile k.phys k.plane = { r with kind := 0xFE, writeCount := r.writeCount + 1 }
          ∧ Counted s.chip v Src.wearWarn (physDetail k.tile k.phys k.plane 0) ∧ s.chip.Only reportParts v)) ∧
    (∀ (t : TileIx) (n : Fin 17) (p : BitVec 2) (j : PlaneJob), s.chip.runningWrite t n p = some j → s.chip.pins.pwrfailN = true →
      j.whole = true → j.why = .testPlane → ∃ v : Chip, exec (.planeWriteComplete t n p []) s = .next (s.settled v)
        ∧ (∀ r, r < 288 → v.cellRow t n p r = if r < j.done then s.chip.cellRow t n p r else j.rows.getD (r - j.done) 0)
        ∧ (∀ r, r < 31 → v.cellRow t n p (288 + r) = checkRow (checkArea (v.cellRow t n p)) (288 + r))
        ∧ (v.cellRow t n p 319).extractLsb' 0 512 = (checkRow (checkArea (v.cellRow t n p)) 319).extractLsb' 0 512
        ∧ v.planeRec t n p = { s.chip.planeRec t n p with
            kind := j.kind, wepoch := j.wepoch, digest := j.digest, hours := s.chip.evr.hours.setWidth 32 }
        ∧ v.arr.writes = s.chip.arr.writes.filter (fun x => !(x.running && x.tile == t && x.phys == n && x.plane == p))
        ∧ (∀ u m q r, ¬ (u = t ∧ m = n ∧ q = p) → v.cellRow u m q r = s.chip.cellRow u m q r)
        ∧ s.chip.Only [.arr] v) ∧
    (∀ (t : TileIx) (n : Fin 17) (p : BitVec 2) (trouble : List RowTrouble) (x : RowTrouble),
      s.chip.runningWrite t n p = none ∨ s.chip.pins.pwrfailN = false →
        exec (.planeWriteComplete t n p trouble) s = .next s ∧ exec (.planeWriteFail t n p x) s = .next s) ∧
    (∀ (t : TileIx) (n : Fin 17) (p : BitVec 2) (x : RowTrouble) (j : PlaneJob), s.chip.runningWrite t n p = some j →
      s.chip.pins.pwrfailN = true → j.done ≤ x.row.toNat → x.row.toNat < j.done + j.rows.length → x.row.toNat < 288 →
      (s.chip.tryRow j x.row.toNat [x]).2 = false → j.why ≠ .refreshInPlace → j.chunk = none →
      (s.chip.tileMap t).spareIx = none → ((s.chip.tileMap t).logical n).isSome = true →
      ∃ v : Chip, exec (.planeWriteFail t n p x) s = .next (s.settled v)
        ∧ v.arr.writeFails = satAdd s.chip.arr.writeFails 1
        ∧ v.arr.writes = s.chip.arr.writes.filter (fun x => !(x.running && x.tile == t && x.phys == n && x.plane == p))
        ∧ v.cellRow t n p x.row.toNat = (s.chip.tryRow j x.row.toNat [x]).1
        ∧ (v.tileMap t).isRetired n = true ∧ v.planeRec t n p = s.chip.planeRec t n p
        ∧ Counted s.chip v Src.nvWriteFail (physDetail t n p 0) ∧ s.chip.Only reportParts v))

/-- Scrub, refresh and stand-ins (R72, R77, R91, R94 to R97, R99, R101, R108): a scrub slot reads the row its walk stands at once
its array is free, the plane selected first where it is not; a row that decodes cleanly leaves the arrays as they are, and the
walk goes on; a scrub with no place for the read waits, one that is not enabled does nothing, a late one is tallied; a queued
refresh of a live plane of a tile with no spare goes behind a stand-in that is FREE; a stand-in order holds its target and
loads, and one for a target that is covered already changes nothing; the last row of its content puts the stand-in in
service. -/
def Obligations.ScrubRefreshStandin : Prop :=
  ∀ (s : State) (t : TileIx), s.chip.on = true →
    (∀ (n : Fin 17) (p : BitVec 2) weak, (s.chip.tileArr t).nv.now = (n, p) → s.chip.arr.nvEn = true →
      s.chip.scrubbing t false = none → (s.chip.planeRec t n p).kind ≠ 0xFE →
      (s.chip.arrFree t (.n n) = false → exec (.scrubSlotRead t false [] weak) s = .next (s.settled s.chip)) ∧
      (s.chip.arrFree t (.n n) = true → s.chip.selectedPlane t n ≠ p →
        ∃ v : Chip, exec (.scrubSlotRead t false [] weak) s = .next (s.settled v) ∧ v.arrOp t (.n n) = some (.select p none)
          ∧ (∀ u b, ¬ (u = t ∧ b = .n n) → v.arrOp u b = s.chip.arrOp u b)
          ∧ (∀ u, v.tileArr u = s.chip.tileArr u) ∧ s.chip.Only [.arr] v) ∧
      (s.chip.arrFree t (.n n) = true → s.chip.selectedPlane t n = p → (s.chip.tileArr t).nv.row < 319 →
        ∃ v : Chip, exec (.scrubSlotRead t false [] weak) s = .next (s.settled v)
          ∧ v.tileArr t = { s.chip.tileArr t with nv := { (s.chip.tileArr t).nv with
              row := (s.chip.tileArr t).nv.row + 1
              weak := (s.chip.tileArr t).nv.weak || !(s.chip.weakCols weak).isEmpty } }
          ∧ (∀ u b, v.arrOp u b = s.chip.arrOp u b) ∧ (∀ u, u ≠ t → v.tileArr u = s.chip.tileArr u) ∧ s.chip.Only [.arr] v)) ∧
    (∀ (i : Fin 9) (r : Nat) weak, (s.chip.tileArr t).sa.array = i.val → (s.chip.tileArr t).sa.row = r → r < 288 →
      s.chip.arr.sEn = true → s.chip.scrubbing t true = none →
      (s.chip.arrFree t (.s i) = false → exec (.scrubSlotRead t true [] weak) s = .next (s.settled s.chip)) ∧
      (s.chip.arrFree t (.s i) = true → (∀ k, k < 16 → ((s.chip.sWords t i r).getD k (0, .double)).2 = .clean) →
        ∃ v : Chip, exec (.scrubSlotRead t true [] weak) s = .next (s.settled v)
          ∧ v.tileArr t = { s.chip.tileArr t with sa := { (s.chip.tileArr t).sa with row := r + 1 } }
          ∧ (∀ u, u ≠ t → v.tileArr u = s.chip.tileArr u) ∧ (∀ u j k, v.sRow u j k = s.chip.sRow u j k) ∧ s.chip.Only [.arr] v)) ∧
    (∀ isS wrong weak, (if isS then s.chip.arr.sEn else s.chip.arr.nvEn) = false → s.chip.scrubbing t isS = none →
      exec (.scrubSlotRead t isS wrong weak) s = .next (s.settled s.chip)) ∧
    (∀ isS, (if isS then s.chip.arr.sEn else s.chip.arr.nvEn) = true → ∃ u, exec (.scrubLate t isS) s = .next u
      ∧ Counted s.chip u.chip Src.scrubLate (tileDetail t 0 0) ∧ Only reportParts s u) ∧
    ((s.chip.tileArr t).refreshQ = [] → exec (.refreshStart t) s = .next (s.settled s.chip)) ∧
    (∀ (n : Fin 17) (p : BitVec 2) (q : List (Fin 17 × BitVec 2)) (l : BitVec 4), (s.chip.tileArr t).refreshQ = (n, p) :: q →
      (s.chip.tileMap t).logical n = some l → s.chip.loadUses t l = false → (s.chip.tileArr t).move = none →
      (s.chip.tileMap t).spareIx = none → s.chip.noWrite (s.chip.goldenJob t n l (bankPlane s.chip.bankBit p) .dormant) = false →
      s.chip.planeLive t n p = true → (s.chip.tileArr t).standin.state = .free →
      ∃ v : Chip, exec (.refreshStart t) s = .next (s.settled v)
        ∧ (v.tileArr t).standin = { state := .loading, target := some (.n l (bankPlane s.chip.bankBit p)), refresh := true }
        ∧ .n l (bankPlane s.chip.bankBit p) ∈ (v.tileArr t).held
        ∧ v.out = s.chip.out ++ [.control 0 (.standin t (.n l (bankPlane s.chip.bankBit p)))]
        ∧ v.load.requests = s.chip.load.requests ++ [.standin t (.n l (bankPlane s.chip.bankBit p))]
        ∧ (∀ u, u ≠ t → v.tileArr u = s.chip.tileArr u) ∧ s.chip.Only [.arr, .load, .out, .fab] v) ∧
    (∀ tg, s.chip.isCovered t tg = true → exec (.standin t tg) s = .next s) ∧
    (∀ tg, s.chip.isCovered t tg = false → (s.chip.tileArr t).standin.state = .free →
      ∃ v : Chip, exec (.standin t tg) s = .next (s.settled v)
        ∧ (v.tileArr t).standin = { state := .loading, target := some tg }
        ∧ (v.tileArr t).held = (s.chip.tileArr t).held ++ [tg]
        ∧ (∀ n, tg = .s n → (v.tileArr t).sFailed = (s.chip.tileArr t).sFailed ||| (1#9 <<< n.toNat))
        ∧ v.load.requests = s.chip.load.requests ++ [.standin t tg]
        ∧ (∀ u, u ≠ t → v.tileArr u = s.chip.tileArr u) ∧ s.chip.Only [.arr, .load] v) ∧
    (∀ (tg : Target) row data, s.chip.arrOp t (.s 8) = some (.rowWrite row 0xFFFF data none) → row.toNat < 288 →
      s.chip.arr.rowQ = [] → (s.chip.tileArr t).standin.state = .loading → (s.chip.tileArr t).standin.target = some tg →
      (s.chip.tileArr t).standin.refresh = false → (s.chip.tileArr t).standin.rows + 1 = (s.chip.tileArr t).standin.need →
      (s.chip.tileMap t).spareIx = none →
      ∃ v : Chip, exec (.sRowWriteComplete t 8) s = .next (s.settled v) ∧ (v.tileArr t).standin.state = .serving
        ∧ (v.tileArr t).held = (s.chip.tileArr t).held.filter (· != tg) ∧ v.servedByStandin t tg = true
        ∧ v.arr.substitutions = satAdd s.chip.arr.substitutions 1 ∧ v.sRow t 8 row.toNat = data ∧ s.chip.Only [.arr] v)

/-! ## Sprinkles, monitors and holds (chapter 10) -/

/-- SV_PACK_INSTALL and PACK_LOAD_DONE (R371, R494): the pack is asked of the host, but not while PWRFAIL_N is low; a fetch that
failed is HOST_FETCH; a pack that breaks a check is REJECTED with its code and tallied; one that passes waits for the next pass
boundary, or takes effect at once where no pass has begun, a bound one once its epoch is live.

Coverage, envelopes, holds and handshakes (R363, R367, R382, R388): a target that no complete cycle of entries has reached
in 4,096 passes is tallied and its count restarts; a window of 1,024 passes closes, an event for each value outside its
interval (stated for none and for one); a target held too long is reported; an admitted beat whose handshake does not end
is reported, its partials poisoned, its array and place free. -/
def Obligations.PacksAndWatchedQuantities : Prop :=
  (∀ (s : State) (q : QueueIx) (e bytes : List Byte), s.chip.command q 0x0400 = some e →
     (∀ k, k ≠ q → s.chip.command k 0x0400 = none) →
     (s.chip.pins.pwrfailN = true → exec (.svPackInstall q) s = .next { s with chip := { s.chip with
       out := s.chip.out ++ [.hostFetch (BitVec.ofNat 64 (cmdField e 8 8)) (cmdField e 16 4)] } }) ∧
     (s.chip.pins.pwrfailN = false → exec (.svPackInstall q) s = .next s) ∧
     (∃ u, exec (.packLoadDone none) s = .next u ∧ Completed s.chip u.chip q e 0x000E 0 (s.chip.mq q).commit 0 ∧ Only mailParts s u) ∧
     (∃ u, exec (.packLoadDone (some bytes)) s = .next u ∧
       match s.chip.checkPack (bytes.take (cmdField e 16 4)) with
       | .error code => Completed s.chip u.chip q e 1 code (s.chip.mq q).commit 0 ∧ Counted s.chip u.chip Src.packReject 0
           ∧ Only (mailParts ++ reportParts) s u
       | .ok p => Completed s.chip u.chip q e 0 0 true 0
           ∧ (s.chip.rcp.begun = true →
             u.chip.spk = (if p.bound then { s.chip.spk with boundNext := some p } else { s.chip.spk with unboundNext := some p })
               ∧ Only (.spk :: mailParts) s u)
           ∧ (s.chip.rcp.begun = false → Only (.spk :: .arr :: mailParts) s u
               ∧ (p.bound = false → u.chip.spk.unbound = some p)
               ∧ (p.bound = true → (s.chip.load.incoming.map fun x => x.1.digest) ≠ some p.epoch → u.chip.spk.bound = some p)
               ∧ (p.bound = true → (s.chip.load.incoming.map fun x => x.1.digest) = some p.epoch → u.chip.spk.boundNext = some p)))) ∧
  (∀ (s : State) (t : TileIx), s.chip.on = true →
     (∀ n, s.chip.covered t n = true →
       4096 ≤ (s.chip.spk.begun - ((s.chip.spk.cover.find? fun x => x.1 == t && x.2.1 == n).map fun x => x.2.2).getD 0).toNat →
       ∃ u, exec (.sprinkleCoverage t n) s = .next u
         ∧ Counted s.chip u.chip Src.sprinkleCoverage (s.chip.sprinkleDetail t n)
         ∧ (u.chip.spk.cover.find? fun x => x.1 == t && x.2.1 == n) = some (t, n, s.chip.spk.begun)
         ∧ Only (.spk :: reportParts) s u) ∧
     (∀ n, s.chip.covered t n = false → exec (.sprinkleCoverage t n) s = .next s) ∧
     (∀ (m : Monitor) (env : Envelope) (r : Recipe), s.chip.arr.monitors = [m] → m.tile = t → s.chip.rcp.active = some r →
       (r.integrity.envelopes.find? fun e => e.tile == t && e.target == m.target && e.layer == m.layer && e.enabled) = some env →
       (m.passes < 1024 → exec (.statWindowClose t m.target m.layer) s = .next s) ∧
       (1024 ≤ m.passes → m.outside env = 0 → ∃ u, exec (.statWindowClose t m.target m.layer) s = .next u
         ∧ u.chip.arr = { s.chip.arr with monitors := [] } ∧ Only [.arr] s u) ∧
       (1024 ≤ m.passes → m.outside env = 1 → ∃ u, exec (.statWindowClose t m.target m.layer) s = .next u
         ∧ u.chip.arr.monitors = []
         ∧ Counted s.chip u.chip Src.statEnvelope (tileDetail t (targetCode m.target) m.layer.toNat)
         ∧ Only reportParts s u)) ∧
     (∀ tg, (tg ∈ (s.chip.tileArr t).held → ∃ u, exec (.standinHoldTimeout t tg) s = .next u
         ∧ Counted s.chip u.chip Src.standinHold (tileDetail t (targetCode tg) 0) ∧ Only reportParts s u) ∧
       (tg ∉ (s.chip.tileArr t).held → exec (.standinHoldTimeout t tg) s = .next s)) ∧
     (∀ (a : ArrRef) (b : Beat), s.chip.arrOp t a = some (.beat b) → (s.chip.sector (sectorOf t)).waiting = [] →
       ∃ v : Chip, exec (.beatHandshakeTimeout t a) s = .next (s.settled v) ∧ v.arrOp t a = none
         ∧ (v.sector (sectorOf t)).inBeat = (s.chip.sector (sectorOf t)).inBeat - 1
         ∧ (∀ j, j < WFmt.perRow b.fmt → (v.accOf t (b.acc.toNat + j)).poison = true)
         ∧ Counted s.chip v Src.beatTimeout (tileDetail t (targetCode b.name) b.layer.toNat)
         ∧ s.chip.Only (.vu :: reportParts) v) ∧
     (∀ a, s.chip.arrOp t a = none → exec (.beatHandshakeTimeout t a) s = .next s))

/-- SPRINKLE_RUN, SPRINKLE_CRUMB and the beats of a sprinkle (R364 to R366): an entry whose array is idle starts with its first
block's beat, its plane selected before it; a beat of it that completes is followed by the next block's, and the last one's
digest is compared: a first mismatch makes the entry suspect, a second raises the source of its kind, a repeat that matches is a
transient; a MESH entry sends its crumb, and the crumb that comes back is judged by payload and header. A beat's completion is
stated where no vote finds a minority or a split. -/
def Obligations.SprinklesAreJudged : Prop :=
  ∀ (s : State) (t : TileIx) (i : Nat) (bound : Bool) (e : PackEntry), s.chip.on = true → s.chip.fab.deviceHalt = false →
    (s.chip.packEntryOf t i bound = none → ∀ wrong, exec (.sprinkleRun t i bound wrong) s = .next s) ∧
    (∀ (r : ArrRef) (sel : Option (Fin 17 × BitVec 2)) (wrong : List (Nat × Nat)) (block : List Byte) (left : List (List Byte)),
      s.chip.packEntryOf t i bound = some e → e.kind ∈ [1, 2, 3] → e.blocks = block :: left →
      s.chip.sprinkleArray t e = some (r, sel) →
      let name := if e.kind = 1 then e.arrayTarget else if e.kind = 3 then .s 0 else .n 0 3
      let b : Beat := {
        name, target := name, fmt := fmtOf e.op, group := e.group, plane := (sel.map (·.2)).getD 0, block, scale := 0
        poison := false, acc := 0, pass := 0, layer := 0, sprinkle := some { entry := i, bound, left } }
      (∀ n p, sel = some (n, p) → s.chip.selectedPlane t n ≠ p → ∃ u, exec (.sprinkleRun t i bound wrong) s = .next u
        ∧ u.chip.arrOp t (.n n) = some (.select p (some b))
        ∧ (∀ v x, ¬ (v = t ∧ x = .n n) → u.chip.arrOp v x = s.chip.arrOp v x) ∧ Only [.arr] s u) ∧
      (sel.all (fun x => s.chip.selectedPlane t x.1 == x.2) = true → (s.chip.sector (sectorOf t)).waiting = [] →
        s.chip.hasPlace (sectorOf t) = true → s.chip.proofHolds (sectorOf t) = false →
        ∃ u, exec (.sprinkleRun t i bound wrong) s = .next u ∧ u.chip.arrOp t r = some (.beat b)
          ∧ (u.chip.sector (sectorOf t)).inBeat = (s.chip.sector (sectorOf t)).inBeat + 1
          ∧ (∀ v x, ¬ (v = t ∧ x = r) → u.chip.arrOp v x = s.chip.arrOp v x) ∧ Only [.arr] s u)) ∧
    (∀ (r : ArrRef) (b : Beat) (run : SprinkleRun) (wrong : List (Nat × Nat)), s.chip.arrOp t r = some (.beat b) →
      b.isZero = false → b.sprinkle = some run → (s.chip.sector (sectorOf t)).waiting = [] →
      let ps := beatPartials b.fmt (s.chip.groupRows t r b.group.toNat wrong) (b.block.map i8)
      let words := run.words ++ ps.map fun (x : Int × Nat × Nat) => BitVec.ofInt 32 x.1
      votesOf ps = (0, 0) → run.minority = 0 → run.split = 0 →
      (∀ block left, run.left = block :: left → 1 ≤ (s.chip.sector (sectorOf t)).inBeat.toNat →
        (s.chip.sector (sectorOf t)).inBeat.toNat ≤ (s.chip.sector (sectorOf t)).share.toNat →
        s.chip.proofHolds (sectorOf t) = false → ∃ u, exec (.beatComplete t r wrong) s = .next u
          ∧ u.chip.arrOp t r = some (.beat { b with block, sprinkle := some { run with left, words } }) ∧ Only [.arr] s u) ∧
      (run.left = [] → s.chip.packEntryOf t run.entry run.bound = some e →
        ∃ u, exec (.beatComplete t r wrong) s = .next u ∧ u.chip.arrOp t r = none ∧
          let good := sprinkleDigest words == e.digest
          let key := (t, run.entry, run.bound)
          (s.chip.spk.suspect.contains key = false →
            u.chip.spk.suspect = (if good then s.chip.spk.suspect else s.chip.spk.suspect ++ [key]) ∧ Only [.arr, .spk] s u) ∧
          (s.chip.spk.suspect.contains key = true →
            u.chip.spk.suspect = s.chip.spk.suspect.filter (· != key)
            ∧ Counted s.chip u.chip (if good then Src.sprinkleTransient else sprinkleSource e.kind) (s.chip.sprinkleDetail t e.targetNo)
            ∧ Only (.spk :: reportParts) s u))) ∧
    (s.chip.packEntryOf t i bound = some e → e.kind = 4 → s.chip.spk.suspect.contains (t, i, bound) = false →
      ∃ u, exec (.sprinkleRun t i bound []) s = .next u
        ∧ u.chip.spk.suspect = (if sprinkleDigest (Config.vectorSprinkle e.op e.blocks) == e.digest then s.chip.spk.suspect
            else s.chip.spk.suspect ++ [(t, i, bound)]) ∧ Only [.spk] s u) ∧
    (s.chip.packEntryOf t i bound = some e → e.kind = 5 → ∀ wrong, exec (.sprinkleRun t i bound wrong) s
      = .next { s with chip := { s.chip with out := s.chip.out ++ [.mesh t .local' (crumbOf (e.blocks.headD []))] } }) ∧
    (∀ (p : Pack) (sent : CrumbHeader) (c : Crumb), s.chip.spk.unbound = some p → p.entries = [e] → e.kind = 5 → e.tile = none →
      s.chip.spk.suspect.contains (t, 0, false) = false → ∃ u, exec (.sprinkleCrumb t e.target sent c) s = .next u
        ∧ u.chip.spk.suspect = (if sprinkleDigest ((List.range 16).map fun k => BitVec.ofNat 32 (leAt c.payload (4 * k) 4)) == e.digest
              && c.hdr == sent then s.chip.spk.suspect else s.chip.spk.suspect ++ [(t, 0, false)]) ∧ Only [.spk] s u) ∧
    (s.chip.spk.unbound = none → ∀ loop sent c, exec (.sprinkleCrumb t loop sent c) s = .next s)

/-! ## The vector unit (chapter 04 and the formats of chapter 02) -/

/-- The lane-by-lane operations (R58, R110, R136, R138, R139, R143, R144, R146, R171): with a free vector unit, operands that can be
read and a destination that no slot guards, the result of every lane stands at the destination, a register or four buffer words,
and the operation takes its cost; the operands' POISON goes with it; nothing else changes. An operand that waits on its slot
holds the operation back, in its place; a halted device issues none.

The reductions and composites over v vectors (R138, R140 to R142, R146, R213): a sum or a maximum in the fixed tree order
stands in every lane of the result; softmax and RMS normalisation give one result vector for each source, in their order, whole
or by their steps when the vector is split; a NaN or an infinite score is reported. -/
def Obligations.LanesReductionsAndComposites : Prop :=
  (∀ (s : State) (t : TileIx) (dst a b c : VecRef),
     (VecFree s.chip t → Unguarded s.chip t dst → Readable s.chip t a → Readable s.chip t b → Readable s.chip t c →
       let x := valueAt s.chip t a
       let y := valueAt s.chip t b
       let z := valueAt s.chip t c
       let put := fun (u : State) (v : VecVal) (cost : Nat) => VecPut s u t dst (tainted s.chip t v) cost
       (∀ op, ∃ u, exec (.vuArith t op dst a b) s = .next u ∧ put u (x.map2 (arithOf op) y) 2) ∧
       (∃ u, exec (.vuFma t dst a b c) s = .next u ∧ put u (x.map3 fmaRne y z) 3) ∧
       (∃ u, exec (.vuExp2 t dst a) s = .next u ∧ put u (x.map exp2Cr) 6) ∧
       (∃ u, exec (.vuReciprocal t dst a) s = .next u ∧ put u (x.map recipCr) 5) ∧
       (∃ u, exec (.vuRsqrt t dst a) s = .next u ∧ put u (x.map rsqrtCr) 6) ∧
       (∃ u, exec (.vuSilu t dst a) s = .next u ∧ put u (x.map siluOf) 17) ∧
       (∃ u, exec (.vuSwiglu t dst a b) s = .next u ∧ put u (x.map2 swigluOf y) 19) ∧
       (∀ layer, ∃ u, exec (.vuConvert t false dst a layer) s = .next u ∧ put u (x.map fun v => if isNan32 v then nan32 else v) 1) ∧
       (∀ layer, (∀ v ∈ x.lanes.toList, (f32ToBf16 v).2 = false) → ∃ u, exec (.vuConvert t true dst a layer) s = .next u
         ∧ put u { lanes := lanesOf (x.lanes.toList.map fun v => bf16To32 (f32ToBf16 v).1), poison := x.poison } 1) ∧
       (∀ (pos : BitVec 32) (freq : List (BitVec 32)), Apart a b → Unguarded s.chip t a → Unguarded s.chip t b →
         let pairs := (List.range 64).map fun i => rotatePair (x.lanes.toList.getD i 0) (y.lanes.toList.getD i 0) pos (freq.getD i 0)
         ∃ u, exec (.vuRotary t a b pos freq) s = .next u
           ∧ VecsPut s u t [a, b] [tainted s.chip t { lanes := lanesOf (pairs.map (·.1)), poison := x.poison || y.poison },
               tainted s.chip t { lanes := lanesOf (pairs.map (·.2)), poison := x.poison || y.poison }] 18)) ∧
     (∀ (w : WordIx) (slot : Nat) (last : Bool) (d : SlotDesc), VecFree s.chip t → SoSettled s.chip →
       (∀ k ∈ VecRef.words (.buf w slot last), s.chip.slotOf t k = some d ∧ s.chip.granted t k = none) →
       (s.chip.soObj (soIx t d.fill)).state = .wait → (s.chip.soObj (soIx t d.fill)).waiters = [] →
       ∃ u, exec (.vuSilu t dst (.buf w slot last)) s = .next u
         ∧ u.chip.arr = { s.chip.arr with vecQ := s.chip.arr.vecQ ++ [(t, .vuSilu t dst (.buf w slot last))] }
         ∧ (u.chip.soObj (soIx t d.fill)).state = .wait
         ∧ (u.chip.soObj (soIx t d.fill)).waiters = ((VecRef.words (.buf w slot last)).map fun k =>
             { guard := .slotRead, access := some (.operand t k) })
         ∧ (∀ j, j ≠ soIx t d.fill → u.chip.soObj j = s.chip.soObj j) ∧ Only [.arr, .so] s u) ∧
     (s.chip.on = true → s.chip.fab.deviceHalt = true → ∀ op, exec (.vuArith t op dst a b) s = .next s)) ∧
  (∀ (s : State) (t : TileIx) (src : List VecRef), VecFree s.chip t → src ≠ [] → (∀ x ∈ src, Readable s.chip t x) →
     let vs := src.map (valueAt s.chip t)
     let xs := elements vs
     (∀ dst, Unguarded s.chip t dst →
       (∃ u, exec (.vuTreeSum t dst src) s = .next u
         ∧ VecPut s u t dst (tainted s.chip t (VecVal.splat (treeSum xs) (anyPoison vs))) (2 * src.length + 10)) ∧
       (∃ u, exec (.vuTreeMax t dst src) s = .next u
         ∧ VecPut s u t dst (tainted s.chip t (VecVal.splat (treeMax xs) (anyPoison vs))) (2 * src.length + 4)) ∧
       (∀ k gate layer, (∀ v ∈ xs, badScore v = false) → ∃ u, exec (.vuSoftmax t .max [dst] src k gate layer) s = .next u
         ∧ VecPut s u t dst (tainted s.chip t (VecVal.splat (treeMax xs) (anyPoison vs))) (12 * src.length + 15)) ∧
       (∀ invN eps, ∃ u, exec (.vuRmsnorm t .squares [dst] src [] invN eps) s = .next u
         ∧ VecPut s u t dst (tainted s.chip t (VecVal.splat (squareSum xs) (anyPoison vs))) (6 * src.length + 16))) ∧
     (∀ (dst : List VecRef) (k : BitVec 32) (gate : Bool) (layer : BitVec 14), dst.length = src.length → dst.Pairwise Apart →
       (∀ d ∈ dst, Unguarded s.chip t d) →
       let c := if gate then log2e else k
       ((∀ v ∈ xs, badScore v = false) → ∃ u, exec (.vuSoftmax t .whole dst src k gate layer) s = .next u
         ∧ VecsPut s u t dst ((vectorsOf (softmaxOf xs c) (anyPoison vs)).map (tainted s.chip t)) (12 * src.length + 15)) ∧
       ((∃ v ∈ xs, badScore v = true) → ∃ u, exec (.vuSoftmax t .whole dst src k gate layer) s = .next u
         ∧ Counted s.chip u.chip Src.nonfinite (tileDetail t 0 layer.toNat)
         ∧ dst.map (valueAt u.chip t) = (vectorsOf (softmaxOf xs c) (anyPoison vs)).map (tainted s.chip t)
         ∧ Only (.vu :: .buf :: reportParts) s u) ∧
       (∀ m sum, Readable s.chip t m → Unguarded s.chip t sum → (∀ d ∈ dst, Apart d sum) →
         let p := softTerms (valueAt s.chip t m).scalar c xs
         let pz := anyPoison vs || (valueAt s.chip t m).poison
         ∃ u, exec (.vuSoftmax t (.terms m sum) dst src k gate layer) s = .next u
           ∧ VecsPut s u t (dst ++ [sum]) ((vectorsOf p pz ++ [VecVal.splat (treeSum p) pz]).map (tainted s.chip t))
               (12 * src.length + 15)) ∧
       (∀ m sum, Readable s.chip t m → Readable s.chip t sum → ∃ u, exec (.vuSoftmax t (.norm m sum) dst src k gate layer) s = .next u
         ∧ VecsPut s u t dst ((vectorsOf (softNorm (valueAt s.chip t m).scalar (valueAt s.chip t sum).scalar xs)
             (anyPoison vs || (valueAt s.chip t m).poison || (valueAt s.chip t sum).poison)).map (tainted s.chip t))
             (12 * src.length + 15)) ∧
       (∀ (g : List VecRef) (invN eps : BitVec 32), g.length = src.length → (∀ x ∈ g, Readable s.chip t x) →
         let gs := g.map (valueAt s.chip t)
         (∃ u, exec (.vuRmsnorm t .whole dst src g invN eps) s = .next u
           ∧ VecsPut s u t dst ((vectorsOf (rmsnormOf xs (elements gs) invN eps) (anyPoison vs || anyPoison gs)).map
               (tainted s.chip t)) (6 * src.length + 16)) ∧
         (∀ sum, Readable s.chip t sum → ∃ u, exec (.vuRmsnorm t (.scale sum) dst src g invN eps) s = .next u
           ∧ VecsPut s u t dst ((vectorsOf (rmsScale (valueAt s.chip t sum).scalar xs (elements gs) invN eps)
               (anyPoison vs || (valueAt s.chip t sum).poison || anyPoison gs)).map (tainted s.chip t)) (6 * src.length + 16)))))

/-- Loads, stores and conversions (R42 to R48, R52, R54, R56 to R59, R111, R146, R222, R362): one vector from the buffer in each
of its forms, outside slots and clean; one to the buffer; six accumulators in their payload, each way; 64 accumulators times
their tensor's scale as BF16, with the checks at output; a chunk into its A8 blocks with their scales and its outlier lane, by its
tensor's parameters; a lane entry's terms into the accumulators. -/
def Obligations.LoadsStoresConversions : Prop :=
  ∀ (s : State) (t : TileIx) (r : BitVec 4) (w : WordIx) (slot : Nat) (last : Bool) (layer : BitVec 14), VecFree s.chip t →
    (∀ x, s.chip.slotOf t x = none) →
    let load := fun (form : VForm) => exec (.vuLoad t form r w slot last) s
    let store := fun (form : VForm) => exec (.vuStore t form r w slot layer) s
    let v := s.chip.vreg t r
    (Readable s.chip t (.buf w slot last) → ∃ u, load .fp32 = .next u
      ∧ VecPut s u t (.reg r) (tainted s.chip t (valueAt s.chip t (.buf w slot last))) 12) ∧
    (Sound s.chip t w → Sound s.chip t (w + 1) → ∃ u, load .bf16 = .next u
      ∧ VecPut s u t (.reg r) (tainted s.chip t {
          lanes := lanesOf ((partsOf 16 (s.chip.bufWord t w).data ++ partsOf 16 (s.chip.bufWord t (w + 1)).data).map bf16To32)
          poison := (s.chip.bufWord t w).poison || (s.chip.bufWord t (w + 1)).poison }) 8) ∧
    (∀ scale, Sound s.chip t w → ∃ u, load (.a8 scale) = .next u
      ∧ VecPut s u t (.reg r) (tainted s.chip t {
          lanes := lanesOf ((partsOf 8 (s.chip.bufWord t w).data).map fun b =>
            round32 (decide (b.toInt < 0)) (b.toInt.natAbs * scaleUnits scale) (-9))
          poison := (s.chip.bufWord t w).poison }) 6) ∧
    (∀ first pass, Sound s.chip t w → ∃ u, load (.accs first pass) = .next u
      ∧ (∀ i, i < 6 → u.chip.accHeld t (first.toNat + i) pass = {
          value := (s.chip.accHeld t (first.toNat + i) pass).value + payloadAcc (s.chip.bufWord t w).data i, pass,
          poison := (s.chip.accHeld t (first.toNat + i) pass).poison || ((s.chip.bufWord t w).poison || spoiled s.chip t false) })
      ∧ u.chip.vu.reg = s.chip.vu.reg ∧ u.chip.out = s.chip.out ++ [.duration 2] ∧ Only [.vu, .buf, .out] s u) ∧
    (∃ u, store .fp32 = .next u ∧ VecPut s u t (.buf w slot) (tainted s.chip t v) 10) ∧
    ((∀ x ∈ v.lanes.toList, (f32ToBf16 x).2 = false) → ∃ u, store .bf16 = .next u
      ∧ (∀ i : Fin 2, u.chip.bufWord t (w + BitVec.ofNat 11 i.val) =
          let d := wordOfBytes (((v.lanes.toList.drop (32 * i.val)).take 32).flatMap fun x => leBytes 2 (f32ToBf16 x).1.toNat)
          { data := d, check := check512 d, poison := (tainted s.chip t v).poison })
      ∧ (∀ k x, ¬ (k = t ∧ x ∈ [w, w + 1]) → u.chip.bufWord k x = s.chip.bufWord k x)
      ∧ u.chip.out = s.chip.out ++ [.duration 6] ∧ Only [.buf, .out] s u) ∧
    (∀ scale, (∀ x ∈ v.lanes.toList, nonfinite32 x = false) → ∃ u, store (.a8 scale) = .next u
      ∧ u.chip.bufWord t w =
        (let d := wordOfBytes (v.lanes.toList.map fun x => BitVec.ofInt 8 (quantise ((dyOf32 x).getD ⟨0, 0⟩) scale))
         { data := d, check := check512 d, poison := (tainted s.chip t v).poison })
      ∧ (∀ k x, ¬ (k = t ∧ x = w) → u.chip.bufWord k x = s.chip.bufWord k x)
      ∧ u.chip.out = s.chip.out ++ [.duration 4] ∧ Only [.buf, .out] s u) ∧
    (∀ first pass, let accs := s.chip.heldAccs t first.toNat 6 pass
      ∃ u, store (.accs first pass) = .next u
        ∧ u.chip.bufWord t w = {
            data := accPayload accs, check := check512 (accPayload accs)
            poison := accs.any (·.poison) || spoiled s.chip t false }
        ∧ (∀ k x, ¬ (k = t ∧ x = w) → u.chip.bufWord k x = s.chip.bufWord k x) ∧ Only [.buf] s u) ∧
    (∀ (acc : BitVec 11) (tensor : Nat) (x : Tensor) (pass : Pass) (dst : VecRef), s.chip.tensor tensor = some x →
      let accs := s.chip.heldAccs t acc.toNat 64 pass
      let bound := s.chip.rangeBound layer tensor
      let out := fun (a : Acc) => outBf16 ((accTimes a.value x.scale).getD ⟨0, 0⟩)
      (∀ a ∈ accs, (out a).2 = false) →
      ((∀ a ∈ accs, accRange a.value = false ∧ (bound = 0 ∨ a.value.toInt.natAbs ≤ bound)) →
        ∃ u, exec (.vuOutputConvert t acc tensor layer pass dst) s = .next u
          ∧ VecPut s u t dst (tainted s.chip t {
              lanes := lanesOf (accs.map fun a => bf16To32 (out a).1), poison := accs.any (·.poison) }) 2) ∧
      (bound ≠ 0 → (∀ a ∈ accs, accRange a.value = false) → (accs.filter fun a => decide (bound < a.value.toInt.natAbs)).length = 1 →
        ∃ u, exec (.vuOutputConvert t acc tensor layer pass dst) s = .next u
          ∧ Counted s.chip u.chip Src.rangeCheck (tileDetail t 0 layer.toNat) ∧ Only (.vu :: .buf :: reportParts) s u) ∧
      (bound = 0 → (accs.filter fun a => accRange a.value).length = 1 →
        ∃ u, exec (.vuOutputConvert t acc tensor layer pass dst) s = .next u
          ∧ Counted s.chip u.chip Src.accRange (tileDetail t 0 layer.toNat) ∧ Only (.vu :: .buf :: reportParts) s u)) ∧
    (∀ (src : A8Source) (tensor n : Nat) (x : Tensor) (dst scaleDst laneDst : WordIx), s.chip.tensor tensor = some x →
      A8Ready s.chip t src → Sound s.chip t scaleDst →
      let q := prepareA8 ((a8Of s.chip t src).take x.chunk) x.th.toNat x.lane
      let lane := laneWords q.lane x.lane
      let blocks := (List.range q.scales.length).map fun i => dst + BitVec.ofNat 11 i
      let lanes := (List.range lane.length).map fun i => laneDst + BitVec.ofNat 11 i
      (blocks ++ [scaleDst] ++ lanes).Nodup → ∃ u, exec (.vuA8Prepare t src tensor n layer dst scaleDst laneDst slot) s = .next u
        ∧ (∀ i, i < q.scales.length → (u.chip.bufWord t (dst + BitVec.ofNat 11 i)).data
            = wordOfBytes (((q.elems.drop (64 * i)).take 64).map fun e => BitVec.ofInt 8 e))
        ∧ (u.chip.bufWord t scaleDst).data
            = wordOfBytes ((leBytes 64 (s.chip.bufWord t scaleDst).data.toNat).take (x.scaleOffset n) ++ q.scales)
        ∧ lanes.map (fun d => (u.chip.bufWord t d).data) = lane
        ∧ (∀ d ∈ blocks ++ lanes, (u.chip.bufWord t d).poison = (a8Poison s.chip t src || spoiled s.chip t false))
        ∧ (∀ k d, ¬ (k = t ∧ d ∈ blocks ++ [scaleDst] ++ lanes) → u.chip.bufWord k d = s.chip.bufWord k d)
        ∧ Only (.buf :: reportParts) s u) ∧
    (∀ (a : ArrRef) (fmt : WFmt) (row : BitVec 8) (value : BitVec 16) (acc : BitVec 11) (pass : Pass),
      (value = 0 ∨ dyOfBf16 value = none) → exec (.vuOutlierLaneEntry t a fmt row value acc pass layer) s =
        .next { s with chip := { s.chip with out := s.chip.out ++ [.duration (6 + 2 * ((WFmt.perRow fmt + 63) / 64))] } }) ∧
    (∀ (a : ArrRef) (fmt : WFmt) (row : BitVec 8) (value : BitVec 16) (acc : BitVec 11) (pass : Pass) (d : Dy),
      value ≠ 0 → dyOfBf16 value = some d →
      (∀ i, i < WFmt.perRow fmt → invalidScale (s.chip.weightScale t a (row.toNat / 64) i) = false) →
      ∃ u, exec (.vuOutlierLaneEntry t a fmt row value acc pass layer) s = .next u
        ∧ (∀ j, j < WFmt.perRow fmt → u.chip.accHeld t (acc.toNat + j) pass = {
            value := (s.chip.accHeld t (acc.toNat + j) pass).value
              + accWord (laneTerm d (weightValue fmt fun k => (s.chip.laneRow t a row.toNat).getLsbD (WFmt.cols fmt * j + k))
                (s.chip.weightScale t a (row.toNat / 64) j)), pass,
            poison := (s.chip.accHeld t (acc.toNat + j) pass).poison || spoiled s.chip t false })
        ∧ u.chip.vu.reg = s.chip.vu.reg
        ∧ u.chip.out = s.chip.out ++ [.duration (6 + 2 * ((WFmt.perRow fmt + 63) / 64))] ∧ Only [.vu, .out] s u)

/-- Ranking, routing and candidates (R145, R212 to R218, R227, R297): the first k of some values in rank order are at most k, ranked,
and nothing left out ranks above them by the order of insertion; a router takes k of E by its layer's table, records its choice
for its pass and gives out its stages and gate weights; a cold expert that is wanted streams in at its stage; candidates go out
with their token indices, ranked after their biases. -/
def Obligations.RankedSelections : Prop :=
  (∀ (k : Nat) (xs : List (Nat × BitVec 32)), (rankTop (·.2) k xs).length = min k xs.length
    ∧ (rankTop (·.2) k xs).Pairwise (fun a b => ranksAbove b.2 a.2 = false) ∧ (∀ x ∈ rankTop (·.2) k xs, x ∈ xs)) ∧
  (∀ (s : State) (t : TileIx) (src : List VecRef) (layer : BitVec 14), VecFree s.chip t → (∀ x ∈ src, Readable s.chip t x) →
    let xs := elements (src.map (valueAt s.chip t))
    (∀ (variant : BitVec 6) (kind : BitVec 2) (p : Pass) (tab : ExpertTable),
      s.chip.passOn t (kind == 2) = some p → s.chip.arr.routes = [] → s.chip.expertTable layer variant = some tab →
      (∀ v ∈ xs, badScore v = false) →
      let top := rankTop (·.2) tab.k (indexed (xs.take tab.e))
      let chosen := top.filterMap fun y => tab.entries.findIdx? fun z => z.expert == y.1 && z.cls != 3
      let st := splitStages tab.entries chosen []
      let outs := [Output.routed layer st.1 st.2 (gatesOf tab.gateMode (xs.take tab.e) top),
        .duration (2 * ((tab.e + 63) / 64) + 3 * tab.k)]
      let collided := if st.2.isEmpty then s.chip.rcp.collisions else satAdd s.chip.rcp.collisions 1
      ((∀ x ∈ tab.entries, x.cls ≠ 2) → s.chip.rcp.wanted = [] →
        ∃ v : Chip, exec (.vuRouterTopk t src layer variant kind) s = .next (s.settled v)
          ∧ v.arr.routes = [{ pass := p, layer, variant, selected := st.1, second := st.2 }]
          ∧ v.rcp = { s.chip.rcp with collisions := collided }
          ∧ v.out = s.chip.out ++ outs ∧ s.chip.Only [.arr, .rcp, .buf, .out] v) ∧
      (∀ (key : BitVec 14 × BitVec 6 × Nat × Byte) (sec : StreamSec) (n : Nat), (∀ x ∈ tab.entries, x.cls ≠ 2) →
        s.chip.rcp.wanted = [key] →
        s.chip.pickSection ((s.chip.sectionsOf key.1 key.2.1 key.2.2.1).filter fun x => x.1.issue == layer) = some (sec, n) →
        SoSettled s.chip → (s.chip.soObj sec.guard).waiters = [] → s.chip.slotPartner sec.guard = none →
        ∃ v : Chip, exec (.vuRouterTopk t src layer variant kind) s = .next (s.settled v)
          ∧ v.rcp = { s.chip.rcp with
              collisions := collided, wanted := [], streams := s.chip.rcp.streams + 1
              resident := s.chip.rcp.resident.filter fun k => !s.chip.sharesTarget sec k
              streaming := (s.chip.rcp.streaming.filter fun k => !s.chip.sharesTarget sec k) ++ [n] }
          ∧ v.load.requests = s.chip.load.requests ++ [.stream n key.2.2.2]
          ∧ v.out = s.chip.out ++ outs ∧ s.chip.Only [.arr, .rcp, .load, .so, .buf, .out] v)) ∧
    (∀ (variant : BitVec 6) (kind : BitVec 2), s.chip.expertTable layer variant = none →
      exec (.vuRouterTopk t src layer variant kind) s = .next (s.settled s.chip)) ∧
    (∀ (m k : Nat) (first : BitVec 32), (∀ v ∈ xs, isNan32 v = false) →
      ∃ u, exec (.vuCandidateSelect t src m k first layer) s = .next u
        ∧ u.chip.out = s.chip.out ++ [.candidates ((rankTop (·.2) (min 64 k) ((indexed (xs.take m)).map fun y =>
            (y.1, s.chip.biased (s.chip.passOn t false) (first + BitVec.ofNat 32 y.1) y.2))).map fun y =>
              (first + BitVec.ofNat 32 y.1, y.2)), .duration (2 * ((m + 63) / 64) + k)]
        ∧ Only [.buf, .out] s u))

/-! ## The meshes, crumbs and windows (chapter 05) -/

/-- A node of the data mesh (R20, R155 to R158, R162 to R165, R204, R248): a full input register takes no crumb; a crumb that
comes in waits with its tick of arrival and the node goes on; one that the due entry of an output names goes out there and the
list moves on, restarting after its last entry; one in the wrong place goes out poisoned and is reported; a control crumb takes a
reserved position toward its tile, and with a wrong header CRC is discarded and reported; at an edge up to eight more wait in the
region's FIFO; a hop that takes too long is reported. The order lists' restart is the model's reading (log entry 39).

Far-memory transfer crumbs (R8, R15, R160, R246): the region's stack holds the addresses whose bit 8 names it; a write
stores its 64 bytes there and no other, a read gives them out; a write into a held image area stores nothing; an offset past the
stack, for which the spec has no byte, faults. -/
def Obligations.MeshNodesAndFarTransfers : Prop :=
  (∀ (s : State) (t : TileIx) (inp out : NodePort) (k : Crumb) (n : Nat), s.chip.on = true → inp ≠ .local' → k.payload.length = 64 →
     (2 ≤ (s.chip.inputReg t inp).length → ∀ wrong,
       ((regionAt t inp).isNone = true ∨ 8 ≤ (s.chip.fifoIn (portKey t inp)).length →
         exec (.meshCrumbAccept t inp k n wrong) s = .next s) ∧
       ((regionAt t inp).isSome = true → (s.chip.fifoIn (portKey t inp)).length < 8 →
         ∃ u, exec (.meshCrumbAccept t inp k n wrong) s = .next u
           ∧ u.chip.fifoIn (portKey t inp) = s.chip.fifoIn (portKey t inp) ++ [(k, n, wrong)] ∧ Only [.fab] s u)) ∧
     ((s.chip.inputReg t inp).length < 2 → s.chip.fifoIn (portKey t inp) = [] →
       (k.hdr.crc ≠ CrumbHeader.crcOf k.hdr → controlKind k.hdr.kind = true →
         ∃ v : Chip, exec (.meshCrumbAccept t inp k n 0) s = .next { s with chip := v.advanceNode t }
           ∧ v.fab.inputs = s.chip.fab.inputs ∧ Counted s.chip v Src.meshHdr (tileDetail t (NodePort.index inp) 0)
           ∧ s.chip.Only reportParts v) ∧
       (k.hdr.crc = CrumbHeader.crcOf k.hdr → reservedKind k.hdr.kind = false →
         s.chip.hasBegun k.hdr.pass = true ∨ startsPass k.hdr.kind = false → (regionAt t inp).isNone = true ∨ Accepted s.chip k →
         ∃ v : Chip, exec (.meshCrumbAccept t inp k n 0) s = .next { s with chip := v.advanceNode t }
           ∧ v.inputReg t inp = s.chip.inputReg t inp ++ [(s.chip.tick.count, k)]
           ∧ (∀ w p, ¬ (w = t ∧ p = inp) → v.inputReg w p = s.chip.inputReg w p) ∧ s.chip.Only [.fab] v)) ∧
     (k.hdr.crc = CrumbHeader.crcOf k.hdr → reservedKind k.hdr.kind = false →
       s.chip.hasBegun k.hdr.pass = true ∨ startsPass k.hdr.kind = false → (regionAt t inp).isNone = true → regionAt t out = none →
       QuietNode s.chip t out → ∀ i, s.chip.listAt t out = i + 1 →
       let res := s.chip.resInt
       let es := s.chip.listNow t out
       (∀ (slot : BitVec 14) (route : Byte), routedKind k.hdr.kind = false → hasFlag k flagPrompt = false →
         positionAt res es i = some (some (.slot inp slot route)) → positionAt res es (i + 1) = none →
         (k.hdr.slot = slot → ∃ u, exec (.meshCrumbAccept t inp k n 0) s = .next u
           ∧ u.chip.out = s.chip.out ++ [.mesh t out k] ∧ u.chip.inputReg t inp = [] ∧ u.chip.listAt t out = 0
           ∧ (∀ v o, ¬ (v = t ∧ o = out) → u.chip.listAt v o = s.chip.listAt v o) ∧ Only [.fab, .out] s u) ∧
         (k.hdr.slot ≠ slot → ∃ u l, exec (.meshCrumbAccept t inp k n 0) s = .next u
           ∧ u.chip.out = s.chip.out ++ [.mesh t out (poisonCrumb k)] ++ l ∧ u.chip.inputReg t inp = [] ∧ u.chip.listAt t out = 0
           ∧ Counted s.chip u.chip Src.meshOrder (tileDetail t (NodePort.index out) 0) ∧ Only reportParts s u)) ∧
       (∀ (from' : NodePort) (slot : BitVec 14) (route : Byte), controlKind k.hdr.kind = true → routeOut t k.hdr.slot = out →
         positionAt res es i = some none → positionAt res es (i + 1) = some (some (.slot from' slot route)) →
         ∃ u, exec (.meshCrumbAccept t inp k n 0) s = .next u
           ∧ u.chip.out = s.chip.out ++ [.mesh t out k] ∧ u.chip.inputReg t inp = [] ∧ u.chip.listAt t out = i + 2
           ∧ (∀ v o, ¬ (v = t ∧ o = out) → u.chip.listAt v o = s.chip.listAt v o) ∧ Only [.fab, .out] s u)) ∧
     (k.hdr.crc = CrumbHeader.crcOf k.hdr → controlKind k.hdr.kind = true ∨ k.hdr.kind = 7 → s.chip.rcp.active = none →
       (∀ p, s.chip.inputReg t p = [] ∧ s.chip.fifoIn (portKey t p) = []) → regionAt t (routeOut t k.hdr.slot) = none →
       (∀ o, s.chip.listAt t o = 0) → ∃ u, exec (.meshCrumbAccept t inp k n 0) s = .next u
         ∧ u.chip.out = s.chip.out ++ [.mesh t (routeOut t k.hdr.slot) k] ∧ u.chip.inputReg t inp = [] ∧ Only [.fab, .out] s u) ∧
     (∃ u, exec (.meshHopTimeout t out) s = .next u
       ∧ Counted s.chip u.chip Src.meshHopTimeout (tileDetail t (NodePort.index out) 0) ∧ Only reportParts s u)) ∧
  (∀ (s : State) (fm : Bool) (off : BitVec 36) (k : Crumb), s.chip.on = true → k.payload.length = 64 →
     (farSize < 2 * (off.toNat + 64) → ∀ wr, exec (.farMemoryTransferCrumb fm off wr k) s = .fault .farMemoryHole) ∧
     (2 * (off.toNat + 64) ≤ farSize →
       let at' := fun (i : Nat) => 512 * ((off.toNat + i) / 256) + 256 * bit fm + (off.toNat + i) % 256
       (exec (.farMemoryTransferCrumb fm off false k) s = .next { s with chip := { s.chip with
           out := s.chip.out ++ [.crumb { k with payload := (List.range 64).map fun i => farByte s.far (at' i) }] } }) ∧
       (∀ i, i < 64 → s.chip.inImage (at' i) 1 = true → exec (.farMemoryTransferCrumb fm off true k) s = .next s) ∧
       ((∀ i, i < 64 → s.chip.inImage (at' i) 1 = false) → ∃ u, exec (.farMemoryTransferCrumb fm off true k) s = .next u
         ∧ u.chip = s.chip ∧ u.pending = s.pending
         ∧ (∀ i, i < 64 → farByte u.far (at' i) = k.payload.getD i 0)
         ∧ (∀ a, (∀ i, i < 64 → a ≠ at' i) → farByte u.far a = farByte s.far a))))

/-- Crumbs on arrival at a tile (R59, R90, R96, R111, R160, R161, R205, R211, R247, R249, R256, R277, R297): accumulators are
added exactly, and their flags go into what the tile emits for the pass; halves of a weight row are joined and handed to the write
that waits for them, a stray one tallied and a poisoned one dropped; a data crumb of a known pass whose tags are right lands in
the word its slot names, one whose recipe epoch is wrong lands poisoned and is reported; candidates of a slice collect on an
output device. -/
def Obligations.CrumbsArrive : Prop :=
  ∀ (s : State) (t : TileIx) (k : Crumb) (slot : Nat), s.chip.on = true → k.payload.length = 64 →
    (∀ (first : BitVec 11) (j : Nat), j < 6 → Accepted s.chip k → ∃ u, exec (.accumulatorCrumb t first k) s = .next u
      ∧ u.chip.accHeld t (first.toNat + j) k.hdr.pass = {
          value := (s.chip.accHeld t (first.toNat + j) k.hdr.pass).value + BitVec.ofNat 80 (leAt k.payload (10 * j) 10)
          pass := k.hdr.pass
          poison := (s.chip.accHeld t (first.toNat + j) k.hdr.pass).poison || hasFlag k flagPoison }
      ∧ u.chip.marksOf t k.hdr.pass = s.chip.marksOf t k.hdr.pass ||| (k.hdr.flags &&& 0xAD)
      ∧ u.chip.out = s.chip.out ++ [.duration 2] ∧ Only [.vu, .fab, .out] s u) ∧
    (s.chip.chunkDest t k = .none → ∃ u, exec (.weightChunkCrumb t k) s = .next u
      ∧ Counted s.chip u.chip Src.loadStray (tileDetail t 0 0) ∧ Only reportParts s u) ∧
    (s.chip.chunkDest t k ≠ .none → hasFlag k flagPoison = true → exec (.weightChunkCrumb t k) s = .next s) ∧
    (s.chip.chunkDest t k ≠ .none → hasFlag k flagPoison = false →
      let row := field k.hdr.pos.toNat 11 9
      let half : HalfRow := {
        tile := t, cls := BitVec.ofNat 2 (field k.hdr.pos.toNat 2 2), array := BitVec.ofNat 4 (field k.hdr.pos.toNat 6 4)
        plane := BitVec.ofNat 2 (field k.hdr.pos.toNat 4 2), row := BitVec.ofNat 9 row
        half := bitAt k.hdr.pos.toNat 10, data := wordOfBytes k.payload }
      (s.chip.arr.halves = [] → ∃ u, exec (.weightChunkCrumb t k) s = .next u
        ∧ u.chip.arr = { s.chip.arr with halves := [half] } ∧ Only [.arr] s u) ∧
      (∀ lo, bitAt k.hdr.pos.toNat 10 = true → s.chip.arr.halves = [{ half with half := false, data := lo }] →
        let data : BitVec 1024 := BitVec.ofNat 1024 (lo.toNat + 2 ^ 512 * (wordOfBytes k.payload).toNat)
        (∀ j : PlaneJob, s.chip.chunkDest t k = .plane j → j.rows = [] → row < 287 →
          ∃ v : Chip, exec (.weightChunkCrumb t k) s = .next (s.settled v) ∧ v.arr.halves = []
            ∧ v.arr.writes = (s.chip.arr.writes.map fun w => if w = j then { w with rows := [data] } else w)
            ∧ v.load.requests = s.chip.load.requests ++ [.plane t j.logical j.rel j.wepoch (row + 1)]
            ∧ s.chip.Only [.arr, .load] v) ∧
        (∀ a : Fin 9, s.chip.chunkDest t k = .sArray a → s.chip.arrFree t (.s a) = true →
          (s.chip.arr.rowQ.find? fun x => x.1 == t && x.2.1 == a) = none → ∃ u, exec (.weightChunkCrumb t k) s = .next u
            ∧ u.chip.arr.halves = [] ∧ u.chip.arrOp t (.s a) = some (.rowWrite (BitVec.ofNat 9 row) 0xFFFF data none)
            ∧ Only [.arr] s u))) ∧
    (∀ (w : WordIx) (n : Nat) (o : TileOrder), s.chip.hasBegun k.hdr.pass = true → k.hdr.flags &&& 0xAD = 0 →
      s.chip.tileOrder t = some o → (o.sinks.find? fun x => x.1 == k.hdr.slot) = some (k.hdr.slot, w) → s.chip.slotOf t w = none →
      (Accepted s.chip k → ∃ u, exec (.kvRowCrumb t k slot) s = .next u
        ∧ u.chip.bufWord t w = { data := wordOfBytes k.payload, check := check512 (wordOfBytes k.payload), poison := false }
        ∧ (∀ v x, ¬ (v = t ∧ x = w) → u.chip.bufWord v x = s.chip.bufWord v x) ∧ Only [.buf] s u) ∧
      (∀ r, s.chip.rcp.active = some r → (r.lengthOf k.hdr.pos.toNat n).isSome = true →
        (Accepted s.chip k → ∃ u, exec (.activationCrumb t k n false slot) s = .next u
          ∧ u.chip.bufWord t w = { data := wordOfBytes k.payload, check := check512 (wordOfBytes k.payload), poison := false }
          ∧ (∀ v x, ¬ (v = t ∧ x = w) → u.chip.bufWord v x = s.chip.bufWord v x) ∧ Only [.buf] s u) ∧
        (∀ right, s.chip.repochOf k.hdr.pass = some right → right ≠ k.hdr.repoch → custodyKind k.hdr.kind = true →
          Accepted s.chip { k with hdr := { k.hdr with repoch := right } } →
          ∃ u, exec (.activationCrumb t k n false slot) s = .next u
            ∧ u.chip.bufWord t w = { data := wordOfBytes k.payload, check := check512 (wordOfBytes k.payload), poison := true }
            ∧ (∀ v x, ¬ (v = t ∧ x = w) → u.chip.bufWord v x = s.chip.bufWord v x)
            ∧ u.chip.marksOf t k.hdr.pass = s.chip.marksOf t k.hdr.pass ||| poisonBit
            ∧ Counted s.chip u.chip Src.recipeMismatch (tileDetail t 0 k.hdr.slot.toNat)
            ∧ Only (.buf :: reportParts) s u))) ∧
    (∀ slice : BitVec 2, Accepted s.chip k → k.hdr.flags &&& 0xAD = 0 →
      (s.chip.isOutput = false → exec (.logitCandidateCrumb slice k) s = .next s) ∧
      (s.chip.isOutput = true → s.chip.hasBegun k.hdr.pass = false → ∃ u, exec (.logitCandidateCrumb slice k) s = .next u
        ∧ u.chip.candsOf k.hdr.req k.hdr.pos slice = s.chip.candsOf k.hdr.req k.hdr.pos slice
          ++ (List.range 8).map (fun i => (BitVec.ofNat 32 (leAt k.payload (8 * i) 4), BitVec.ofNat 32 (leAt k.payload (8 * i + 4) 4)))
        ∧ Only [.serve] s u))

/-- Receive windows and custody (R172 to R178, R335 to R337): opening starts a new epoch at the peer, after the count of an opening
not yet closed; closing acknowledges what is applied; a write in an open window, in its epoch and in range is stored, signalled
and acknowledged by the batch; another is refused, tallied and answered at the first rejection, as is one whose handshake brings
the close; acknowledges signal the sender's object, and a negative one puts it in ERROR; a custody acknowledge that is the last
awaited releases its pass, and one for the buddy's upstream goes on over Z. A rejection's count and a new opening's count of
rejections are the model's choices (log entries 45, 46). -/
def Obligations.WindowsAndCustody : Prop :=
  ∀ (s : State) (t : TileIx) (w : BitVec 2), s.chip.on = true →
    (let x := s.chip.inWin t w
     let fresh : InWin := { x with isOpen := true, epoch := x.epoch + 1, applied := 0, rejected := 0, firstBad := none }
     let due := x.isOpen && x.applied != 0
     (∃ u, exec (.windowOpen t w) s = .next u ∧ u.chip.inWin t w = fresh
       ∧ (x.peerPort = 0 → u.chip.out = s.chip.out ++ (if due then [.crumb (x.ackCrumb x.applied 0 0)] else [])
           ++ [.crumb (fresh.ackCrumb 0 4 0)])
       ∧ (∀ q : PortIx, x.peerPort.toNat = q.toNat + 1 → isZ q = false → (s.chip.port q).isUp = true → due = false →
           Sends s.chip u.chip q (controlRoute s.chip q) (fresh.ackCrumb 0 4 0))
       ∧ (∀ v y, ¬ (v = t ∧ y = w) → u.chip.inWin v y = s.chip.inWin v y) ∧ Only [.fab, .opt, .out] s u) ∧
     (∃ u, exec (.windowClose t w) s = .next u ∧ u.chip.inWin t w = { x with isOpen := false, applied := 0 }
       ∧ (x.peerPort = 0 → u.chip.out = s.chip.out ++ (if due then [.crumb (x.ackCrumb x.applied 0 0)] else []))
       ∧ (∀ q : PortIx, x.peerPort.toNat = q.toNat + 1 → (s.chip.port q).isUp = true → due = true →
           Sends s.chip u.chip q (controlRoute s.chip q) (x.ackCrumb x.applied 0 0))
       ∧ (∀ v y, ¬ (v = t ∧ y = w) → u.chip.inWin v y = s.chip.inWin v y) ∧ Only [.fab, .opt, .out] s u)) ∧
    (∀ (k : Crumb) (x : InWin) (slot : Nat), k.hdr.slot.extractLsb' 12 2 = w → s.chip.inWin t w = x → Accepted s.chip k →
      k.hdr.flags &&& 0xAD = 0 → x.peerPort = 0 →
      let off := field k.hdr.slot.toNat 0 11
      let why := x.status (k.hdr.pos.extractLsb' 12 8) off
      (why = 0 → s.chip.slotOf t (x.start + BitVec.ofNat 11 off) = none → Countable s.chip (soIx t x.arrival) 1 →
        SoSettled s.chip → ∃ u, exec (.windowWrite t k slot []) s = .next u
          ∧ (u.chip.bufWord t (x.start + BitVec.ofNat 11 off)).data = wordOfBytes k.payload
          ∧ (∀ v y, ¬ (v = t ∧ y = x.start + BitVec.ofNat 11 off) → u.chip.bufWord v y = s.chip.bufWord v y)
          ∧ SignalCounted s.chip u.chip (soIx t x.arrival) 1
          ∧ (if max 1 x.batch.toNat ≤ (x.applied + 1).toNat
              then (u.chip.inWin t w).applied = 0 ∧ u.chip.out = s.chip.out ++ [.crumb (x.ackCrumb (x.applied + 1) 0 0)]
              else (u.chip.inWin t w).applied = x.applied + 1 ∧ u.chip.out = s.chip.out)
          ∧ Only [.buf, .so, .fab, .out] s u) ∧
      (why ≠ 0 → x.rejected = 0 → ∃ u l, exec (.windowWrite t k slot []) s = .next u ∧ (u.chip.inWin t w).rejected = 1
        ∧ u.chip.out = l ++ [.crumb (x.ackCrumb 1 why (BitVec.ofNat 16 ((x.firstBad.getD (BitVec.ofNat 11 off)).toNat)))]
        ∧ Counted s.chip u.chip Src.winNack (tileDetail t w.toNat 0) ∧ u.chip.buf = s.chip.buf ∧ Only reportParts s u) ∧
      (x.rejected = 0 → ∃ u l, exec (.windowWrite t k slot [(w, false)]) s = .next u
        ∧ (u.chip.inWin t w).isOpen = false ∧ (u.chip.inWin t w).rejected = 1
        ∧ u.chip.out = l ++ [.crumb (x.ackCrumb 1 1 (BitVec.ofNat 16 ((x.firstBad.getD (BitVec.ofNat 11 off)).toNat)))]
        ∧ Counted s.chip u.chip Src.winNack (tileDetail t w.toNat 0) ∧ u.chip.buf = s.chip.buf ∧ Only reportParts s u)) ∧
    (∀ (n : BitVec 16) (epoch : Byte) (off : BitVec 16), SoSettled s.chip →
      let i := soIx t (s.chip.outWin t w).ackSo
      (Countable s.chip i 1 → ∃ u, exec (.windowAck t w n epoch 4 off) s = .next u
        ∧ u.chip.outWin t w = { s.chip.outWin t w with epoch } ∧ SignalCounted s.chip u.chip i 1 ∧ Only [.fab, .so] s u) ∧
      (Countable s.chip i n.toNat → (s.chip.rcp.active.bind fun r => r.placement.mirror) ≠ some (t, w) →
        ∃ u, exec (.windowAck t w n epoch 0 off) s = .next u ∧ SignalCounted s.chip u.chip i n.toNat ∧ Only [.so] s u) ∧
      (∀ status : Byte, status ≠ 0 → status ≠ 4 → s.chip.rcp.begun = true → (s.chip.soObj i).state = .wait →
        (s.chip.soObj i).waiters = [] → s.chip.slotPartner i = none → ∃ u, exec (.windowAck t w n epoch status off) s = .next u
          ∧ (u.chip.soObj i).state = .error ∧ (u.chip.soObj i).err = 1
          ∧ Counted s.chip u.chip Src.winNack (tileDetail t w.toNat 0) ∧ Only (.so :: reportParts) s u)) ∧
    (∀ (p : PortIx) (pass : Pass) (pos : Pos),
      (∀ q : PortIx, isZ p = true → s.chip.entryPort = some q → (s.chip.port q).isUp = true →
        ∃ u, exec (.custodyAck p pass pos true) s = .next u
          ∧ Sends s.chip u.chip q (controlRoute s.chip q) (custodyAckCrumb pass pos true) ∧ Only [.opt, .out] s u) ∧
      (isZ p = true → s.chip.entryPort = none → exec (.custodyAck p pass pos true) s = .next s) ∧
      ((s.chip.port p).custody = [(pass, false, true)] → (s.chip.port p).holding = none → pos = stepPos s.chip.sys.position p →
        ∃ v : Chip, exec (.custodyAck p pass pos false) s = .next { s with chip := v.advanceMesh }
          ∧ (v.port p).custody = [] ∧ (v.port p).kept = (s.chip.port p).kept.filter (fun k => !(pass == k.1))
          ∧ (∀ q, q ≠ p → v.port q = s.chip.port q) ∧ s.chip.Only [.opt] v))

/-- The control mesh and the host tunnel (R60, R61, R115, R119, R166 to R171, R306, R354, R378): a message crosses a link a tick,
the lowest class first and none overtaking another of its source and destination, X first, then Y, and comes to its tile; a
reserved type is discarded at the first node; a HALT of a pass or of the device; a cancel held by every tile and sent on once;
numeric flags counted, one event for each, or merged within 100 ns of the tile's last message; tile registers read and written;
frames cut into crumbs on the spine port that is up, and put together from fragments in order. A hop a tick, the classes' flits
and the map of tile registers are the model's choices (log entries 6, 22, 42). -/
def Obligations.ControlMessagesAndTunnel : Prop :=
  (∀ (c : Chip) (key cls : Nat) (x : CtlItem), c.ctlNext key = some (cls, x) → x ∈ ctlReady [] (c.ctlAt key)
    ∧ ctlClass (flitType x.flits) = some cls
    ∧ (∀ y ∈ ctlReady [] (c.ctlAt key), ∀ k, ctlClass (flitType y.flits) = some k → cls ≤ k)) ∧
  (∀ t d : TileIx, let away := fun (v : TileIx) => ((tileX v : Int) - tileX d).natAbs + ((tileY v : Int) - tileY d).natAbs
    (t = d → routeTile t d = .local') ∧
    (t ≠ d → ∃ n, neighbour t (routeTile t d) = some n ∧ away n.1 + 1 = away t
      ∧ (tileX t ≠ tileX d → tileY n.1 = tileY t))) ∧
  (∀ (m : CtlMsg), flitType (CtlMsg.flits m) = CtlMsg.type m ∧ flitBcast (CtlMsg.flits m) = (CtlMsg.dest m).isNone
    ∧ (∀ d, CtlMsg.dest m = some d → flitDest (CtlMsg.flits m) = d)
    ∧ (CtlMsg.flits m).length = (match m with
        | .strobe => 1 | .haltPass _ => 4 | .haltDevice => 2 | .cancel _ _ _ => 5 | .signal _ _ _ => 3 | .signalErr _ _ => 2
        | .set _ _ _ _ _ => 5 | .standin _ _ => 2 | .fault _ _ => 4 | .numeric _ _ => 3 | .mgmtRd _ _ => 3
        | .mgmtWr _ _ _ => 7 | .mgmtRsp _ => 5)) ∧
  (∀ (s : State) (t : TileIx) (p : NodePort) (x : CtlItem) (cls : Nat), s.chip.on = true → s.pending = [] →
    s.chip.fab.ctl = [(portKey t p, [x])] → ctlClass (flitType x.flits) = some cls → flitBcast x.flits = false →
    ∃ u, step s = .next u ∧ u.chip.ctlAt (portKey t p) = [] ∧ Only [.fab, .tick, .out] s u
      ∧ (match neighbour t p with
         | some (n, inp) => u.chip.ctlAt (portKey n (routeTile n (flitDest x.flits))) = [{ x with input := inp }]
             ∧ u.chip.out = s.chip.out
         | none => u.chip.fab.ctl = [] ∧ u.chip.out = s.chip.out ++ [.delivered t x.flits])) ∧
  (∀ (c : Chip) (t : TileIx) (x : CtlItem), ctlClass (flitType x.flits) = none → c.ctlArrive t x = c) ∧
  (∀ (s : State) (t : TileIx), s.chip.on = true →
    (∀ p, ∃ v : Chip, exec (.halt (.pass p)) s = .next { s with chip := v.advanceMesh }
      ∧ v.fab.halted = (if p ∈ s.chip.fab.halted then s.chip.fab.halted else s.chip.fab.halted ++ [p])
      ∧ (∀ o ∈ [NodePort.north, .east, .local'], v.ctlAt (portKey 0 o) = s.chip.ctlAt (portKey 0 o)
          ++ [{ src := 0, input := .local', flits := CtlMsg.flits (.haltPass p) }])
      ∧ v.out = s.chip.out ++ [.control 0 (.haltPass p)] ∧ s.chip.Only [.fab, .out] v) ∧
    (exec (.halt .device) s = .next { s with chip := { s.chip with fab := { s.chip.fab with deviceHalt := true } } }) ∧
    (∀ (req : BitVec 12) (p : Pass) (v : BitVec 6), (getEntry (s.chip, s.far) req).state = stFree →
      (s.chip.fab.cancels.any fun y => y.1 == req && !passAfter y.2 p) = false →
      (∃ u, exec (.cancel req p v) s = .next u
        ∧ u.chip.fab = { s.chip.fab with cancels := (s.chip.fab.cancels.filter fun x => x.1 != req) ++ [(req, p)] }
        ∧ (∀ q, if (s.chip.port q).isUp = true
            then (u.chip.port q).sent.getLast? = some ((s.chip.port q).txSeq,
              controlRoute s.chip q :: crumbBytes (controlCrumb 3 0 req p v []))
            else u.chip.port q = s.chip.port q)
        ∧ Only [.fab, .opt, .out] s u) ∧
      (∀ port, ∃ u, exec (.cancelCrumb port req p v) s = .next u
        ∧ u.chip.fab.cancels = (s.chip.fab.cancels.filter fun x => x.1 != req) ++ [(req, p)]
        ∧ u.chip.ctlAt (portKey 0 .local') = s.chip.ctlAt (portKey 0 .local')
          ++ [{ src := 0, input := .local', flits := CtlMsg.flits (.cancel req p v) }]
        ∧ (∀ q, (s.chip.port q).isUp = true → (u.chip.port q).txSeq = (s.chip.port q).txSeq + 1)
        ∧ Only [.fab, .opt, .out] s u)) ∧
    (∀ (port : PortIx) (req : BitVec 12) (p : Pass) (v : BitVec 6),
      (s.chip.fab.cancels.any fun y => y.1 == req && !passAfter y.2 p) = true → exec (.cancelCrumb port req p v) s = .next s) ∧
    (∀ layer : BitVec 14,
      ((∀ at', (sget (fun _ => none) s.chip.fab.lastMsg t.toNat : Option (BitVec 64)) = some at' →
          100 ≤ (s.chip.tick.count - at').toNat) →
        (∃ u, exec (.numeric t layer 0) s = .next u ∧ u.chip.arr = s.chip.arr ∧ Only [.fab] s u) ∧
        (∃ u, exec (.numeric t layer 0x01) s = .next u
          ∧ Counted s.chip u.chip Src.outlierOvf (tileDetail t 0 layer.toNat)
          ∧ sget (fun _ => none) u.chip.fab.lastMsg t.toNat = some s.chip.tick.count
          ∧ (sget (fun _ => {}) u.chip.arr.numeric layer.toNat : NumStat)
              = (sget (fun _ => {}) s.chip.arr.numeric layer.toNat : NumStat).note { overflow := 1 }
          ∧ Only reportParts s u)) ∧
      (∀ at', (sget (fun _ => none) s.chip.fab.lastMsg t.toNat : Option (BitVec 64)) = some at' →
        (s.chip.tick.count - at').toNat < 100 → ∃ u, exec (.numeric t layer 0x01) s = .next u
          ∧ (u.chip.fltSrc Src.outlierOvf.toNat).total = (s.chip.fltSrc Src.outlierOvf.toNat).total
          ∧ (u.chip.fltSrc Src.outlierOvf.toNat).sticky = true
          ∧ (sget (fun _ => {}) u.chip.arr.numeric layer.toNat : NumStat)
              = (sget (fun _ => {}) s.chip.arr.numeric layer.toNat : NumStat).note { overflow := 1 }
          ∧ Only [.flt, .arr] s u)) ∧
    (∀ offset : BitVec 32,
      (∀ w : WordIx, offset.toNat < 0x20000 → w = BitVec.ofNat 11 (offset.toNat / 64) → CleanWord s.chip t w →
        ∃ u, exec (.mgmtRd t offset) s = .next u
          ∧ u.chip.out = s.chip.out ++ [.control t (.mgmtRsp (BitVec.ofNat 64
              (leAt (leBytes 64 (s.chip.bufWord t w).data.toNat) (offset.toNat % 64 / 8 * 8) 8)))]
          ∧ u.chip.fab.mgmtReads = s.chip.fab.mgmtReads ++ [(t, offset)] ∧ OnlyTiming s.chip u.chip
          ∧ Only [.buf, .fab, .out] s u) ∧
      (offset = 0x20000 ∨ offset = 0x20008 → ∃ u, exec (.mgmtRd t offset) s = .next u
        ∧ u.chip.out = s.chip.out ++ [.control t (.mgmtRsp
            (if offset = 0x20000 then s.chip.tileArrayWord t else s.chip.tileBufWord t))]
        ∧ u.chip.fab.mgmtReads = s.chip.fab.mgmtReads ++ [(t, offset)] ∧ Only [.fab, .out] s u) ∧
      (∀ data, 0x20000 ≤ offset.toNat → exec (.mgmtWr t offset data) s = .next s) ∧
      (∀ (data : Word64) (w : WordIx), offset.toNat < 0x20000 → w = BitVec.ofNat 11 (offset.toNat / 64) → CleanWord s.chip t w →
        ∃ u, exec (.mgmtWr t offset data) s = .next u
          ∧ (u.chip.bufWord t w).data = wordOfBytes (setBytes (leBytes 64 (s.chip.bufWord t w).data.toNat)
              (offset.toNat % 64 / 8 * 8) (leBytes 8 data.toNat))
          ∧ (∀ v x, ¬ (v = t ∧ x = w) → u.chip.bufWord v x = s.chip.bufWord v x) ∧ Only [.buf] s u) ∧
      (∀ data, s.chip.fab.mgmtReads = [(t, offset)] → ∃ u, exec (.mgmtRsp t data) s = .next u
        ∧ u.chip.fab = { s.chip.fab with mgmtReads := [] } ∧ Only [.fab] s u)) ∧
    (∀ (p : PortIx) (k : Crumb), k.hdr.slot = 0 → hasFlag k flagPoison = false → 0 < field k.hdr.pos.toNat 0 14 →
      (sget (fun _ => none) s.chip.fab.tunnelRx (k.hdr.req.toNat % 4) : Option TunnelRx) = none →
      ∃ u, exec (.hostTunnelCrumb p k) s = .next u
        ∧ (if field k.hdr.pos.toNat 0 14 ≤ 64
            then u.chip.out = s.chip.out ++ [.frame (BitVec.ofNat 2 (k.hdr.req.toNat % 4)) (k.payload.take (field k.hdr.pos.toNat 0 14))]
            else u.chip.out = s.chip.out ∧ sget (fun _ => none) u.chip.fab.tunnelRx (k.hdr.req.toNat % 4) = some ({
              seq := k.hdr.pass, length := field k.hdr.pos.toNat 0 14, next := 1, bytes := k.payload, bad := false } : TunnelRx))
        ∧ Only [.fab, .out] s u) ∧
    (∀ (p : PortIx) (k : Crumb), k.hdr.slot ≠ 0 →
      (sget (fun _ => none) s.chip.fab.tunnelRx (k.hdr.req.toNat % 4) : Option TunnelRx) = none →
      ∃ u, exec (.hostTunnelCrumb p k) s = .next u ∧ Counted s.chip u.chip Src.tunnelDrop (s.chip.portDetail p 0)
        ∧ Only reportParts s u) ∧
    (s.chip.tunnelPort = none → ∀ q frame, exec (.tunnelFrameSend q frame) s = .next s) ∧
    (∀ (p : PortIx) (q : BitVec 2) (frame : List Byte), s.chip.tunnelPort = some p → 64 ≤ frame.length → frame.length ≤ 9216 →
      ∃ u, exec (.tunnelFrameSend q frame) s = .next u ∧ u.chip.fab = { s.chip.fab with tunnelTx := s.chip.fab.tunnelTx + 1 }
        ∧ (u.chip.port p).txSeq = (s.chip.port p).txSeq + BitVec.ofNat 16 ((frame.length + 63) / 64)
        ∧ (∀ r, r ≠ p → u.chip.port r = s.chip.port r) ∧ Only [.fab, .opt, .out] s u))

/-! ## Recipes, keys and weight loads (chapters 06 and 07) -/

/-- The recipe commands (R198, R200, R201, R225, R255): a load is refused in fallback (18) and while a recipe is armed (14),
else it discards a loaded recipe and fetches; a container that breaks a check is rejected with its code, which LAST_REJECT
keeps, one that passes is LOADED, and both refusals are made again when the bytes are in; an arm needs a loaded recipe (15), a live layout (16), a pass in range and a switch that
agrees (17) and no use of the drain object (19), and the first one locks the locked registers; disarm and discard undo. -/
def Obligations.RecipeCommands : Prop :=
  ∀ (s : State) (q : QueueIx) (e : List Byte),
    let com := (s.chip.mq q).commit
    let Rej := fun (u : State) (code : Nat) => Completed s.chip u.chip q e 1 code com 0
      ∧ u.chip.rcp = { s.chip.rcp with lastReject := BitVec.ofNat 5 code } ∧ Only (.rcp :: mailParts) s u
    (s.chip.command q 0x0100 = some e →
      (s.chip.rcp.fallback ≠ 0 → ∃ u, exec (.svRecipeLoad q) s = .next u ∧ Rej u 18) ∧
      (s.chip.rcp.fallback = 0 → s.chip.stagedArmed.isSome = true → ∃ u, exec (.svRecipeLoad q) s = .next u ∧ Rej u 14) ∧
      (s.chip.rcp.fallback = 0 → s.chip.stagedArmed = none → ∃ u, exec (.svRecipeLoad q) s = .next u
        ∧ u.chip.rcp = { s.chip.rcp with staged := none }
        ∧ u.chip.out = s.chip.out ++ (if s.chip.pins.pwrfailN = true then
            [.hostFetch (BitVec.ofNat 64 (cmdField e 8 8)) (cmdField e 16 4)] else []) ∧ Only [.rcp, .out] s u)) ∧
    (s.chip.command q 0x0100 = some e → (∀ k, k ≠ q → s.chip.command k 0x0100 = none) →
      (s.chip.rcp.fallback ≠ 0 → ∀ got, ∃ u, exec (.recipeLoadDone got) s = .next u ∧ Rej u 18) ∧
      (s.chip.rcp.fallback = 0 → s.chip.stagedArmed.isSome = true → ∀ got, ∃ u, exec (.recipeLoadDone got) s = .next u ∧ Rej u 14) ∧
      (s.chip.rcp.fallback = 0 → s.chip.stagedArmed = none →
      (∃ u, exec (.recipeLoadDone none) s = .next u ∧ Completed s.chip u.chip q e 0x000E 0 com 0 ∧ Only mailParts s u) ∧
      (∀ bytes, ∃ u, exec (.recipeLoadDone (some bytes)) s = .next u ∧
        match s.chip.checkRecipe (bytes.take (cmdField e 16 4)) with
        | .error code => Rej u code
        | .ok r => Completed s.chip u.chip q e 0 0 true 0 ∧ u.chip.rcp = { s.chip.rcp with staged := some (r, .loaded) }
            ∧ Only (.rcp :: mailParts) s u))) ∧
    (s.chip.command q 0x0101 = some e →
      ((∀ r, s.chip.rcp.staged ≠ some (r, .loaded)) → ∃ u, exec (.svRecipeArm q) s = .next u ∧ Rej u 15) ∧
      (∀ (r : Recipe) (a : Pass), s.chip.rcp.staged = some (r, .loaded) → a = BitVec.ofNat 32 (cmdField e 8 4) →
        (s.chip.liveLayout r.layout = false → ∃ u, exec (.svRecipeArm q) s = .next u ∧ Rej u 16) ∧
        (s.chip.liveLayout r.layout = true → s.chip.armRange a = false → ∃ u, exec (.svRecipeArm q) s = .next u ∧ Rej u 17) ∧
        (∀ x so, s.chip.liveLayout r.layout = true → s.chip.armRange a = true → s.chip.armedSwitch = some (x, a) →
          s.chip.load.drainSo = some so → (r.desc.objects.any fun o => o.index == so) = true →
          ∃ u, exec (.svRecipeArm q) s = .next u ∧ Rej u 19) ∧
        (s.chip.liveLayout r.layout = true → s.chip.armRange a = true → s.chip.armedSwitch = none →
          ∃ u, exec (.svRecipeArm q) s = .next u ∧ Completed s.chip u.chip q e 0 0 true 0
            ∧ u.chip.rcp = { s.chip.rcp with staged := some (r, .armed a), drained := false }
            ∧ u.chip.sys = { s.chip.sys with armLocked := true } ∧ Only (.rcp :: .sys :: mailParts) s u))) ∧
    (s.chip.command q 0x0102 = some e →
      (s.chip.stagedArmed = none → ∃ u, exec (.svRecipeDisarm q) s = .next u ∧ Completed s.chip u.chip q e 1 0 com 0 ∧ Only mailParts s u) ∧
      (∀ r a, s.chip.rcp.staged = some (r, .armed a) → s.chip.armedSwitch = none → ∃ u, exec (.svRecipeDisarm q) s = .next u
        ∧ Completed s.chip u.chip q e 0 0 true 0 ∧ u.chip.rcp = { s.chip.rcp with staged := some (r, .loaded), draining := false }
        ∧ Only (.rcp :: mailParts) s u)) ∧
    (s.chip.command q 0x0103 = some e →
      ((∀ r, s.chip.rcp.staged ≠ some (r, .loaded)) → ∃ u, exec (.svRecipeDiscard q) s = .next u
        ∧ Completed s.chip u.chip q e 1 0 com 0 ∧ Only mailParts s u) ∧
      (∀ r, s.chip.rcp.staged = some (r, .loaded) → ∃ u, exec (.svRecipeDiscard q) s = .next u
        ∧ Completed s.chip u.chip q e 0 0 true 0 ∧ u.chip.rcp = { s.chip.rcp with staged := none } ∧ Only (.rcp :: mailParts) s u))

/-- Keys (R241, R242, R475, R509): a blob is unwrapped under the device's key and nonce; a content key goes into the slot its
epoch has, an 0x0D or 0x0E rejection otherwise; a prefix key is installed or its authorisation fails; a key that is
installed uses up the nonce; a device without identity refuses. -/
def Obligations.KeysAreInstalled : Prop :=
  ∀ (s : State) (q : QueueIx) (e b : List Byte),
    let com := (s.chip.mq q).commit
    (s.chip.command q 0x0201 = some e →
      (s.chip.boot.idOk = false → ∀ blob, ∃ u, exec (.svKeyInstall q blob) s = .next u
        ∧ Completed s.chip u.chip q e 1 1 com 0 ∧ Only mailParts s u) ∧
      (s.chip.boot.idOk = true → ∃ u, exec (.svKeyInstall q none) s = .next u
        ∧ Completed s.chip u.chip q e 0x000E 0 com 0 ∧ Only mailParts s u) ∧
      (s.chip.boot.idOk = true → ∃ u, exec (.svKeyInstall q (some b)) s = .next u ∧
        match s.chip.unwrapKey b "FQP2-WKEY" with
        | none => Completed s.chip u.chip q e 1 13 com 0 ∧ u.chip.load = { s.chip.load with lastReject := 13 }
            ∧ Only (.load :: mailParts) s u
        | some key => match s.chip.keySlot (BitVec.ofNat 8 (leAt b 97 1)) with
          | none => Completed s.chip u.chip q e 1 14 com 0 ∧ u.chip.load = { s.chip.load with lastReject := 14 }
              ∧ Only (.load :: mailParts) s u
          | some incoming => Completed s.chip u.chip q e 0 0 true 0
              ∧ u.chip.load = (let k : ContentKey := {
                  wepoch := BitVec.ofNat 8 (leAt b 97 1), key, layout := bytesAt b 100 48, digest := bytesAt b 148 48 }
                if incoming then { s.chip.load with keyIncoming := some k } else { s.chip.load with keyActive := some k })
              ∧ u.chip.boot = { s.chip.boot with keyNonce := none } ∧ Only (.load :: .boot :: mailParts) s u)) ∧
    (s.chip.command q 0x0320 = some e →
      (∃ u, exec (.svPrefixKey q none) s = .next u ∧ Completed s.chip u.chip q e 0x000E 0 com 0 ∧ Only mailParts s u) ∧
      ((allZero (bytesAt b 97 1) && allZero (bytesAt b 100 96)) = false → ∃ u, exec (.svPrefixKey q (some b)) s = .next u
        ∧ Completed s.chip u.chip q e 4 0 com 0 ∧ Only mailParts s u) ∧
      ((allZero (bytesAt b 97 1) && allZero (bytesAt b 100 96)) = true → ∃ u, exec (.svPrefixKey q (some b)) s = .next u ∧
        match s.chip.unwrapKey b "FQP2-PKEY" with
        | none => Completed s.chip u.chip q e 9 0 com 0 ∧ Counted s.chip u.chip Src.mbxAuth 0 ∧ Only (mailParts ++ reportParts) s u
        | some key => Completed s.chip u.chip q e 0 0 true 0 ∧ u.chip.serve = { s.chip.serve with prefixKey := some key }
            ∧ u.chip.boot = { s.chip.boot with keyNonce := none } ∧ Only (.serve :: .boot :: mailParts) s u))

/-- Plans and arms (R233 to R236, R243, R245, R254, R258, R261, R266): a plan whose header, position, key, area or moment is
wrong is rejected with its code; one accepted becomes the incoming epoch, LOADING, its chunks asked for; a query answers the
failed chunks; an arm of a complete epoch fixes its pass and sets the drain object, and a disarm takes both back. -/
def Obligations.PlansAndArms : Prop :=
  ∀ (s : State) (q : QueueIx) (e b : List Byte),
    let com := (s.chip.mq q).commit
    let Rej := fun (u : State) (code : Nat) => Completed s.chip u.chip q e 1 code com 0
      ∧ u.chip.load = { s.chip.load with lastReject := BitVec.ofNat 4 code } ∧ Only (.load :: mailParts) s u
    let n := leAt b 12 4
    -- the plan's epoch is LOADING, its chunks are as its table has them, and each of the first is fetched by its slice
    let Taken := fun (u : State) (x : Epoch) =>
      (u.chip.load.incoming.map fun y => (y.1, y.2.1.area, y.2.1.smap, y.2.1.chunks.length, y.2.2))
          = some (x, leAt b 64 8, bytesAt b 128 8192, n, .loading)
        ∧ (∀ i, i < 16 → i < n → ∀ m, s.chip.sliceOf i = some m → s.chip.pins.pwrfailN = true → (chunkOf b i).state = .waiting →
            s.chip.fetchesOf m = 0 → (u.chip.load.incoming.bind fun y => y.2.1.chunks[i]?) = some { chunkOf b i with state := .fetching m }
              ∧ .chunkFetch m (chunkOf b i).addr (chunkOf b i).len ∈ u.chip.out)
    (s.chip.command q 0x0203 = some e →
      (∃ u, exec (.svWeightPlan q none) s = .next u ∧ Completed s.chip u.chip q e 0x000E 0 com 0 ∧ Only mailParts s u) ∧
      (planHeaderOk (b.take (cmdField e 16 4)) = false → ∃ u, exec (.svWeightPlan q (some b)) s = .next u ∧ Rej u 1) ∧
      (planHeaderOk b = true → b.length = cmdField e 16 4 →
        (s.chip.sys.posValid = false ∨ bytesAt b 8 3 ≠ s.chip.posBytes → ∃ u, exec (.svWeightPlan q (some b)) s = .next u ∧ Rej u 2) ∧
        (s.chip.sys.posValid = true → bytesAt b 8 3 = s.chip.posBytes →
          (bitAt (leAt b 7 1) 1 = true → s.chip.load.active = none → ∃ u, exec (.svWeightPlan q (some b)) s = .next u ∧ Rej u 7) ∧
          (bitAt (leAt b 7 1) 1 = false → s.chip.load.keyIncoming = none →
            ∃ u, exec (.svWeightPlan q (some b)) s = .next u ∧ Rej u 3) ∧
          (∀ k : ContentKey, bitAt (leAt b 7 1) 1 = false → s.chip.load.keyIncoming = some k →
            k.wepoch = BitVec.ofNat 8 (leAt b 6 1) → k.digest = planDigest b → k.layout = bytesAt b 16 48 →
            (s.chip.areaOk b false = false → ∃ u, exec (.svWeightPlan q (some b)) s = .next u ∧ Rej u 4) ∧
            (s.chip.areaOk b false = true → s.chip.load.active = none → s.chip.rcp.begun = true →
              ∃ u, exec (.svWeightPlan q (some b)) s = .next u ∧ Rej u 5) ∧
            (s.chip.areaOk b false = true → s.chip.load.active = none → s.chip.rcp.begun = false →
              s.chip.load.incoming = none → s.chip.load.old = none →
              ∃ u, exec (.svWeightPlan q (some b)) s = .next u ∧ Completed s.chip u.chip q e 0 0 true 0 ∧ Taken u (planEpoch b false)
                ∧ u.chip.load.state = 1 ∧ u.chip.load.active = none ∧ Only (mailParts ++ reportParts) s u) ∧
            (∀ a : Epoch, s.chip.areaOk b false = true → s.chip.load.active = some a → a.buddyOff = false →
              bitAt (leAt b 7 1) 0 = false → s.chip.load.incoming = none → s.chip.load.old = none →
              ∃ u, exec (.svWeightPlan q (some b)) s = .next u ∧ Completed s.chip u.chip q e 0 0 true 0
                ∧ Taken u (planEpoch b (!a.bank)) ∧ u.chip.load.state = 1 ∧ u.chip.load.active = some a
                ∧ u.chip.load.buddyOk = false ∧ Only (mailParts ++ reportParts) s u) ∧
            (∀ (x : Epoch) (p : Plan) (st : IncomingState), s.chip.areaOk b false = true → s.chip.rcp.begun = false →
              s.chip.load.incoming = some (x, p, st) → st ≠ .loading ∨ x.wepoch ≠ BitVec.ofNat 8 (leAt b 6 1) →
              ∃ u, exec (.svWeightPlan q (some b)) s = .next u ∧ Rej u 6)) ∧
          (∀ (a : Epoch) (k : ContentKey), bitAt (leAt b 7 1) 1 = true → s.chip.load.active = some a →
            a.wepoch = BitVec.ofNat 8 (leAt b 6 1) → a.digest = planDigest b → s.chip.load.keyActive = some k →
            k.wepoch = a.wepoch → k.digest = a.digest → k.layout = bytesAt b 16 48 → s.chip.areaOk b true = true →
            s.chip.load.incoming = none → s.chip.load.old = none →
            ∃ u, exec (.svWeightPlan q (some b)) s = .next u ∧ Completed s.chip u.chip q e 0 0 true 0
              ∧ (u.chip.load.activePlan.map fun p => (p.area, p.chunks.length, p.resume)) = some (leAt b 64 8, leAt b 12 4, true)
              ∧ u.chip.load.state = (if s.chip.load.activeLive then s.chip.load.state else 5)
              ∧ Only (mailParts ++ reportParts) s u)))) ∧
    (∀ (x : Epoch) (p : Plan) (st : IncomingState), s.chip.command q 0x0204 = some e → s.chip.load.incoming = some (x, p, st) →
      let bad := p.chunks.zipIdx.filterMap fun y => match y.1.state with
        | .failed n => some (y.2, n)
        | _ => none
      (∃ u, exec (.svPlanQuery q false) s = .next u ∧ Completed s.chip u.chip q e 0x000E 0 com 0 ∧ Only mailParts s u) ∧
      (∃ u, exec (.svPlanQuery q true) s = .next u ∧ Completed s.chip u.chip q e 0 0 true bad.length
        ∧ .hostWrite (BitVec.ofNat 64 (cmdField e 8 8)) (leBytes 4 s.chip.load.state.toNat ++ leBytes 4 bad.length
            ++ bad.flatMap fun y => leBytes 4 y.1 ++ leBytes 4 y.2) ∈ u.chip.out ∧ Only mailParts s u)) ∧
    (∀ (w : Pass) (so : SoIx), s.chip.command q 0x0205 = some e → w = BitVec.ofNat 32 (cmdField e 8 4) →
      so = BitVec.ofNat 13 (cmdField e 12 2) →
      (s.chip.armedSwitch.isSome = true ∨ s.chip.load.old.isSome = true → ∃ u, exec (.svEpochArm q) s = .next u ∧ Rej u 11) ∧
      (s.chip.load.incoming = none → s.chip.load.old = none → ∃ u, exec (.svEpochArm q) s = .next u ∧ Rej u 8) ∧
      (∀ (x : Epoch) (p : Plan), s.chip.load.incoming = some (x, p, .complete) → s.chip.load.old = none →
        (s.chip.armRange w = false → ∃ u, exec (.svEpochArm q) s = .next u ∧ Rej u 9) ∧
        (s.chip.armRange w = true → s.chip.rcp.active = none → s.chip.rcp.staged = none →
          ∃ u, exec (.svEpochArm q) s = .next u ∧ Rej u 10) ∧
        (∀ r : Recipe, s.chip.armRange w = true → s.chip.rcp.active = some r → s.chip.rcp.staged = none → r.layout = x.layout →
          (r.desc.objects.any fun o => o.index == so) = false → SoSettled s.chip → (s.chip.soObj so).waiters = [] →
          s.chip.slotPartner so = none → ∃ u, exec (.svEpochArm q) s = .next u ∧ Completed s.chip u.chip q e 0 0 true 0
            ∧ u.chip.load = { s.chip.load with incoming := some (x, p, .armed w), drainSo := some so, switchPass := w }
            ∧ u.chip.soObj so = { limit := 1024, count := 0, tclass := 3, state := .wait }
            ∧ (∀ j, j ≠ so → u.chip.soObj j = s.chip.soObj j) ∧ Only (.load :: .so :: mailParts) s u))) ∧
    (s.chip.command q 0x0206 = some e →
      (s.chip.armedSwitch = none → ∃ u, exec (.svEpochDisarm q) s = .next u ∧ Completed s.chip u.chip q e 1 0 com 0 ∧ Only mailParts s u) ∧
      (∀ x p w so, s.chip.load.incoming = some (x, p, .armed w) → s.chip.load.drainSo = some so → SoSettled s.chip →
        (s.chip.soObj so).waiters = [] → ∃ u, exec (.svEpochDisarm q) s = .next u ∧ Completed s.chip u.chip q e 0 0 true 0
          ∧ u.chip.load = { s.chip.load with incoming := some (x, p, .complete), drainSo := none, switchPass := 0 }
          ∧ u.chip.soObj so = {} ∧ Only (.load :: .so :: mailParts) s u))

/-- Chunks and buddy notices (R243 to R245, R249, R252, R258, R267): an image of an epoch's chunk that its slice fetches is
copied into its slot and authenticated, its S-array rows on their way; one that is corrupt is fetched again within the limit, and
fails then, with its cause; an image that does not come fails its chunk at once; a host image that a stand-in waits for serves it;
nothing happens to a chunk that is not being fetched. The outcomes are stated for a first plan one of whose other chunks is still
to come. -/
def Obligations.ChunksAreAuthenticated : Prop :=
  ∀ s : State, s.chip.on = true → s.chip.load.requests = [] →
    (∀ (w : Byte) (i : Nat), s.chip.epochPlan w = none → ∀ image,
      exec (.chunkFetchDone w i image) s = .next s ∧ exec (.chunkFetchTimeout w i) s = .next s) ∧
    (∀ (e : Epoch) (p : Plan) (k : ContentKey) (i j : Nat) (r x : ChunkRec) (m m' : UcieIx) (image : List Byte),
      s.chip.load.incoming = some (e, p, .loading) → s.chip.load.active = none → s.chip.load.activePlan = none →
      s.chip.load.old = none → s.chip.load.rebuilding = false → s.chip.load.restores = [] →
      s.chip.load.keyIncoming = some k → p.chunks[i]? = some r → p.chunks[j]? = some x → j ≠ i → x.state = .fetching m' →
      (∀ y ∈ p.chunks, y.state ≠ .waiting) →
      (r.state.isFetching = false →
        exec (.chunkFetchDone e.wepoch i image) s = .next s ∧ exec (.chunkFetchTimeout e.wepoch i) s = .next s) ∧
      (r.state = .fetching m →
        (∃ u, exec (.chunkFetchTimeout e.wepoch i) s = .next u
          ∧ u.chip.load.incoming = some (e, p.modChunk i fun r => { r with state := .failed 1 }, .loading)
          ∧ Counted s.chip u.chip Src.chunkFailed (BitVec.ofNat 32 i) ∧ Only reportParts s u) ∧
        (∃ u, exec (.chunkFetchDone e.wepoch i image) s = .next u ∧ u.far = farWrite s.far (p.area + i * mib) (image.take mib)
          ∧ u.pending = s.pending ∧
          match checkImage s.chip.posBytes e k.key i r image with
          | .good _ segs =>
            u.chip.load.incoming = some (e, p.modChunk i fun r => { r with state := .authenticated, segs }, .loading)
              ∧ (r.role = 3 ∨ r.role = 4 → u.chip.load.sLeft = s.chip.load.sLeft ++ segs.flatMap fun g =>
                  (List.range g.count).map fun n => (e.wepoch, g.tile, g.array, g.first + n))
              ∧ s.chip.Only [.load, .arr, .out] u.chip
          | .invalid => u.chip.load.incoming = some (e, p.modChunk i fun r => { r with state := .failed 2 }, .loading)
              ∧ Counted s.chip u.chip Src.chunkFailed (BitVec.ofNat 32 i) ∧ s.chip.Only reportParts u.chip
          | .corrupt =>
            Counted s.chip u.chip Src.chunkAuth (BitVec.ofNat 32 i) ∧ s.chip.Only reportParts u.chip
              ∧ (3 ≤ r.tries → u.chip.load.incoming = some (e, p.modChunk i fun r => { r with state := .failed 3 }, .loading))
              ∧ (r.tries < 3 → s.chip.sliceOf i = some m → s.chip.fetchesOf m ≤ 16 → s.chip.pins.pwrfailN = true →
                  u.chip.load.incoming = some (e, p.modChunk i fun r => { r with tries := r.tries + 1 }, .loading)
                    ∧ u.chip.load.retries = satAdd s.chip.load.retries 1 ∧ .chunkFetch m r.addr r.len ∈ u.chip.out)))) ∧
    (∀ (w : Byte) (e : Epoch) (p : Plan) (k : ContentKey) (i n : Nat) (r : ChunkRec) (t : TileIx) (a : BitVec 3) (image : List Byte),
      s.chip.epochPlan w = some (e, p, k) → p.chunks[i]? = some r → r.state = .authenticated →
      s.chip.load.restores = [(w, i, t, a, n)] → s.chip.resuming = none →
      (match checkImage s.chip.posBytes e k.key i r image with
        | .good _ _ => True
        | _ => False) →
      ∃ u, exec (.chunkFetchDone w i image) s = .next u ∧ u.chip.load.restores = []
        ∧ u.far = farWrite s.far (p.area + i * mib) (image.take mib) ∧ u.pending = s.pending) ∧
    (exec .buddyProtectionClearNotice s = .next { s with chip := { s.chip with
      load := { s.chip.load with buddyOk := false, buddyNotice := false } } }) ∧
    (s.chip.load.rebuilt = false → exec .buddyRebuildNotice s = .next { s with chip := { s.chip with
      load := { s.chip.load with buddyNotice := true } } }) ∧
    (∀ e : Epoch, s.chip.load.rebuilt = true → s.chip.load.active = some e → e.buddyOff = false → s.chip.arr.tile = [] →
      s.chip.opt.tkState = 0 → exec .buddyRebuildNotice s = .next { s with chip := { s.chip with
        load := { s.chip.load with buddyNotice := true, buddyOk := true } } })

/-! ## Requests and passes (chapter 08) -/

/-- The serving area, parameter sets and the walk (R272, R285, R287, R296, R313): a configure command with entries in use or
a bad layout is rejected (8), else the request table and the node records read as zero, no page is in use and the token ring
is empty; a set that breaks R296 is an invalid field, one in use is rejected (11), another is stored; a walk answers what the
prefix tree holds, nothing without a prefix key. The layout of the command's parameters is the model's (log entry 11). -/
def Obligations.ServingIsConfigured : Prop :=
  ∀ (s : State) (q : QueueIx) (e : List Byte),
    let com := (s.chip.mq q).commit
    let Rej := fun (u : State) (code : Nat) => Completed s.chip u.chip q e 1 code com 0
      ∧ u.chip.serve = { s.chip.serve with lastReject := BitVec.ofNat 5 code } ∧ Only (.serve :: mailParts) s u
    (s.chip.command q 0x0300 = some e →
      (s.chip.serve.used ≠ 0 ∨ s.chip.areaValid (areaOf e) = false → ∃ u, exec (.svServeConfig q) s = .next u ∧ Rej u 8) ∧
      (s.chip.serve.used = 0 → s.chip.areaValid (areaOf e) = true → ∃ u, exec (.svServeConfig q) s = .next u
        ∧ Answered s.chip u.chip q e 0 0 true 0
        ∧ u.chip.serve = { s.chip.serve with
            area := some (areaOf e), head := 0, tail := 0, pairsUsed := [], framesUsed := [], owned := [], refs := [], promptUsed := [] }
        ∧ (∀ n, n < 2048 → nodeValid (nodeBytes (u.chip, u.far) n) = false)
        ∧ (∀ a, ((areaOf e).table ≤ a ∧ a < (areaOf e).table + 512 * 1024)
            ∨ ((areaOf e).nodes ≤ a ∧ a < (areaOf e).nodes + 64 * (areaOf e).nodeCount) → farByte u.far a = 0)
        ∧ (∀ a, ¬ ((areaOf e).table ≤ a ∧ a < (areaOf e).table + 512 * 1024)
            → ¬ ((areaOf e).nodes ≤ a ∧ a < (areaOf e).nodes + 64 * (areaOf e).nodeCount) → farByte u.far a = farByte s.far a)
        ∧ u.pending = s.pending ∧ s.chip.Only (.serve :: mailParts) u.chip)) ∧
    (s.chip.command q 0x0310 = some e →
      (∃ u, exec (.svSparamWrite q none) s = .next u ∧ Completed s.chip u.chip q e 0x000E 0 com 0 ∧ Only mailParts s u) ∧
      (∀ b, (setOk b = false → ∃ u, exec (.svSparamWrite q (some b)) s = .next u ∧ Completed s.chip u.chip q e 4 0 com 0 ∧ Only mailParts s u) ∧
        (setOk b = true → setInUse (s.chip, s.far) (cmdField e 8 1) = true →
          ∃ u, exec (.svSparamWrite q (some b)) s = .next u ∧ Rej u 11) ∧
        (setOk b = true → setInUse (s.chip, s.far) (cmdField e 8 1) = false → ∃ u, exec (.svSparamWrite q (some b)) s = .next u
          ∧ Completed s.chip u.chip q e 0 0 true 0 ∧ sget (fun _ => none) u.chip.serve.sparams (cmdField e 8 1) = some b
          ∧ (∀ j, j ≠ cmdField e 8 1 → sget (fun _ => none) u.chip.serve.sparams j = (sget (fun _ => none) s.chip.serve.sparams j : Option (List Byte)))
          ∧ Only (.serve :: mailParts) s u))) ∧
    (s.chip.command q 0x0321 = some e →
      (∃ u, exec (.svPrefixWalk q none) s = .next u ∧ Completed s.chip u.chip q e 0x000E 0 com 0 ∧ Only mailParts s u) ∧
      (∀ ts, s.chip.serve.prefixKey = none → ∃ u, exec (.svPrefixWalk q (some ts)) s = .next u
        ∧ Completed s.chip u.chip q e 0 0 true (0 + 2 ^ 32 * noNode) ∧ Only mailParts s u) ∧
      (∀ (ts : List (BitVec 32)) (k : List Byte) (n : Nat), s.chip.serve.prefixKey = some k → ts.length = 128 → cmdField e 12 4 = 128 →
        (findNode (s.chip, s.far) (pageKey k zeroKey (BitVec.ofNat 8 (cmdField e 8 1)) s.chip.activeWepoch s.chip.activeRepoch ts)
          ts = some n) → ∃ u, exec (.svPrefixWalk q (some ts)) s = .next u
        ∧ Completed s.chip u.chip q e 0 0 true (1 + 2 ^ 32 * n) ∧ Only mailParts s u))

/-- Submission, query and release (R273, R275, R278, R313): a submission that fails a check is rejected with its code; one that
passes is a QUEUED entry of the table, its prompt, on an entry-group device, in the prompt store (13 when it has no room); a
query gives out the entry; a release of an entry that has ended frees it. -/
def Obligations.RequestsComeAndGo : Prop :=
  ∀ (s : State) (q : QueueIx) (e : List Byte) (req : BitVec 12),
    let com := (s.chip.mq q).commit
    let n := submitted e
    let Rej := fun (u : State) (code : Nat) => Completed s.chip u.chip q e 1 code com 0
      ∧ u.chip.serve = { s.chip.serve with lastReject := BitVec.ofNat 5 code } ∧ Only (.serve :: mailParts) s u
    cmdField e 8 2 = req.toNat →
    (s.chip.command q 0x0301 = some e →
      (∀ code prompt, submitFails (s.chip, s.far) req.toNat n = some code → ∃ u, exec (.svReqSubmit q prompt) s = .next u ∧ Rej u code) ∧
      (∀ a, s.chip.serve.area = some a → submitFails (s.chip, s.far) req.toNat n = none → s.chip.hotEntry req = none → n.shared = 0 →
        (s.chip.isEntry = false → ∀ prompt, ∃ u, exec (.svReqSubmit q prompt) s = .next u ∧ Completed s.chip u.chip q e 0 0 true 0
          ∧ u.far = farWrite s.far (a.table + 128 * req.toNat) n.bytes
          ∧ u.chip.serve = { s.chip.serve with used := s.chip.serve.used + 1 }
          ∧ u.pending = s.pending ∧ s.chip.Only (.serve :: mailParts) u.chip) ∧
        (s.chip.isEntry = true → ∃ u, exec (.svReqSubmit q none) s = .next u
          ∧ Completed s.chip u.chip q e 0x000E 0 com 0 ∧ Only mailParts s u) ∧
        (∀ bytes, s.chip.isEntry = true →
          (freeRun s.chip.serve.promptUsed a.promptUnits ((n.promptLen.toNat + 1023) / 1024) = none →
            ∃ u, exec (.svReqSubmit q (some bytes)) s = .next u ∧ Rej u 13) ∧
          (∀ i, freeRun s.chip.serve.promptUsed a.promptUnits ((n.promptLen.toNat + 1023) / 1024) = some i →
            ∃ u, exec (.svReqSubmit q (some bytes)) s = .next u ∧ Completed s.chip u.chip q e 0 0 true 0
              ∧ u.far = farWrite (farWrite s.far (a.prompt + 4096 * i) (bytes.take (4 * n.promptLen.toNat)))
                  (a.table + 128 * req.toNat) ({ n with promptUnit := BitVec.ofNat 32 i } : Entry).bytes
              ∧ u.chip.serve = { s.chip.serve with
                  used := s.chip.serve.used + 1, promptUsed := s.chip.serve.promptUsed ++ [(i, (n.promptLen.toNat + 1023) / 1024)] }
              ∧ u.pending = s.pending ∧ s.chip.Only (.serve :: mailParts) u.chip)))) ∧
    (s.chip.command q 0x0305 = some e →
      ((getEntry (s.chip, s.far) req).state = stFree → ∀ ok, ∃ u, exec (.svReqQuery q ok) s = .next u
        ∧ Completed s.chip u.chip q e 0x0D 0 com 0 ∧ Only mailParts s u) ∧
      ((getEntry (s.chip, s.far) req).state ≠ stFree →
        (∃ u, exec (.svReqQuery q false) s = .next u ∧ Completed s.chip u.chip q e 0x000E 0 com 0 ∧ Only mailParts s u) ∧
        (∃ u, exec (.svReqQuery q true) s = .next u ∧ Completed s.chip u.chip q e 0 0 true 0
          ∧ .hostWrite (BitVec.ofNat 64 (cmdField e 16 8)) (getEntry (s.chip, s.far) req).bytes ∈ u.chip.out ∧ Only mailParts s u))) ∧
    (s.chip.command q 0x0304 = some e →
      ((getEntry (s.chip, s.far) req).state = stFree → ∃ u, exec (.svReqRelease q) s = .next u
        ∧ Completed s.chip u.chip q e 0x0D 0 com 0 ∧ Only mailParts s u) ∧
      (inRange 1 5 (getEntry (s.chip, s.far) req).state.toNat = true → ∃ u, exec (.svReqRelease q) s = .next u ∧ Rej u 10) ∧
      (∀ a, (getEntry (s.chip, s.far) req).state ∈ [stDone, stCancelled, stFailed] → s.chip.serve.area = some a →
        (s.chip.serve.owned.filter fun o => o.1 == req) = [] → (s.chip.serve.refs.filter fun r => r.1 == req) = [] →
        ∃ u, exec (.svReqRelease q) s = .next u ∧ Completed s.chip u.chip q e 0 0 true 0 ∧ u.chip.hotEntry req = none
          ∧ u.far = farWrite s.far (a.table + 128 * req.toNat) ({} : Entry).bytes
          ∧ u.chip.serve.used = s.chip.serve.used - 1
          ∧ u.chip.serve.eligible = s.chip.serve.eligible.filter (· != req)
          ∧ (∀ r, r ≠ req → u.chip.hotEntry r = s.chip.hotEntry r)
          ∧ u.pending = s.pending ∧ s.chip.Only (.serve :: mailParts) u.chip))

/-- Admission and cancel (R271, R276, R306, R308, R313): an admission needs a QUEUED entry (9), a hot place (6) and pages (7);
it reserves the lowest pages and makes the entry READY under the active epochs, and on the authority its partners hear of it
for pass S; a cancel on another device is refused, one of a request that has ended is answered so, one of a running request
names F and S, sends the notice and is held by every tile. -/
def Obligations.AdmissionAndCancel : Prop :=
  ∀ (s : State) (q : QueueIx) (e : List Byte) (req : BitVec 12) (v : Entry),
    let com := (s.chip.mq q).commit
    let next := s.chip.nextNumber.getD 0
    let Rej := fun (u : State) (code : Nat) => Completed s.chip u.chip q e 1 code com 0
      ∧ u.chip.serve = { s.chip.serve with lastReject := BitVec.ofNat 5 code } ∧ Only (.serve :: mailParts) s u
    cmdField e 8 2 = req.toNat → getEntry (s.chip, s.far) req = v →
    (s.chip.command q 0x0302 = some e →
      (s.chip.serve.area = none → ∃ u, exec (.svReqAdmit q) s = .next u ∧ Rej u 8) ∧
      (∀ a, s.chip.serve.area = some a →
        (v.state ≠ stQueued → ∃ u, exec (.svReqAdmit q) s = .next u ∧ Rej u 9) ∧
        (v.state = stQueued → 256 ≤ s.chip.serve.hot.length → ∃ u, exec (.svReqAdmit q) s = .next u ∧ Rej u 6) ∧
        (∀ n, v.state = stQueued → s.chip.serve.hot.length < 256 → v.shared = 0 → 0 < v.maxLen.toNat → v.maxLen.toNat ≤ 128 →
          n = (s.chip.servingRecipe.map fun r => r.placement.pairs.length).getD 0 →
          (lowestFree s.chip.serve.pairsUsed n = none → ∃ u, exec (.svReqAdmit q) s = .next u ∧ Rej u 7) ∧
          (∀ i, lowestFree s.chip.serve.pairsUsed n = some i → s.chip.mirrors = false →
            ∃ u, exec (.svReqAdmit q) s = .next u ∧ Completed s.chip u.chip q e 0 0 true 0
              ∧ u.chip.hotEntry req = some (({ v with
                  state := stReady, len := 0, wepoch := s.chip.activeWepoch, repoch := s.chip.activeRepoch
                  draftCur := if v.flag 0 && s.chip.isEntry then 1 else v.draftCur } : Entry).setFlag 3 true)
              ∧ u.chip.serve.owned = s.chip.serve.owned ++ [(req, 0, i)]
              ∧ u.chip.serve.pairsUsed = s.chip.serve.pairsUsed ++ [i]
              ∧ u.far = farWrite s.far (a.pageAddr req 0) (leBytes 4 i)
              ∧ u.chip.serve.changes = s.chip.serve.changes
                  ++ (if s.chip.isAuthority then [{ at' := next + 64, notice := .admission req }] else [])
              ∧ (s.chip.isAuthority = true → .rack (([4, 5] : List PortIx).filter fun p => (s.chip.port p).isUp) (.schedule (.admission req) (next + 64)) ∈ u.chip.out)
              ∧ u.pending = s.pending ∧ s.chip.Only (.serve :: mailParts) u.chip)))) ∧
    (s.chip.command q 0x0303 = some e →
      (s.chip.isAuthority = false → ∃ u, exec (.svReqCancel q) s = .next u ∧ Completed s.chip u.chip q e 0x10 0 com 0 ∧ Only mailParts s u) ∧
      (s.chip.isAuthority = true →
        (v.state = stFree → ∃ u, exec (.svReqCancel q) s = .next u ∧ Completed s.chip u.chip q e 0x0D 0 com 0 ∧ Only mailParts s u) ∧
        (v.state ∈ [stDone, stFailed] → ∃ u, exec (.svReqCancel q) s = .next u ∧ Completed s.chip u.chip q e 0x0B 0 com 0 ∧ Only mailParts s u) ∧
        (v.state ∈ [stCancelling, stCancelled] → ∃ u, exec (.svReqCancel q) s = .next u
          ∧ Completed s.chip u.chip q e 0x0C 0 com 0 ∧ Only mailParts s u) ∧
        (∀ f : Pass, v.state ∈ [stPrompt, stGenerating] → s.chip.hotEntry req = some v →
          f = (match (s.chip.outOf req).head? with
            | some o => o.pass + 1
            | none => next) →
          ∃ u, exec (.svReqCancel q) s = .next u ∧ Completed s.chip u.chip q e 0 0 true (f.toNat + 2 ^ 32 * (next + 64).toNat)
            ∧ u.chip.hotEntry req = some (if (s.chip.outOf req).isEmpty then { v with cancelPass := f }
                else { v with cancelPass := f, state := stCancelling })
            ∧ u.chip.serve.changes = s.chip.serve.changes ++ [{ at' := next + 64, notice := .cancel req f 3 }]
            ∧ (u.chip.fab.cancels.any fun y => y.1 == req && !passAfter y.2 f) = true
            ∧ .rack (([4, 5] : List PortIx).filter fun p => (s.chip.port p).isUp) (.schedule (.cancel req f 3) (next + 64)) ∈ u.chip.out
            ∧ .control 0 (.cancel req f (v.variant.setWidth 6)) ∈ u.chip.out
            ∧ (∀ r, r ≠ req → u.chip.hotEntry r = s.chip.hotEntry r) ∧ Only (.serve :: .fab :: mailParts) s u)))

/-- Prefix nodes (R285, R286, R289): an insert is refused for want of a serving area (8) or a prefix key (5), of an entry, of
enough tokens; a page that the tree lacks gets the lowest free node, with its key, page and tokens, and the entry counts in
its REFS; an evict of a node in use is rejected (12), another clears it. -/
def Obligations.PrefixNodes : Prop :=
  ∀ (s : State) (q : QueueIx) (e : List Byte),
    let com := (s.chip.mq q).commit
    let Rej := fun (u : State) (code : Nat) => Completed s.chip u.chip q e 1 code com 0
      ∧ u.chip.serve = { s.chip.serve with lastReject := BitVec.ofNat 5 code } ∧ Only (.serve :: mailParts) s u
    (∀ (req : BitVec 12) (v : Entry), s.chip.command q 0x0322 = some e → cmdField e 10 2 = req.toNat →
      getEntry (s.chip, s.far) req = v →
      (v.state = stFree → ∀ ts, ∃ u, exec (.svPrefixInsert q ts) s = .next u ∧ Completed s.chip u.chip q e 0x0D 0 com 0 ∧ Only mailParts s u) ∧
      (v.state ≠ stFree → s.chip.serve.area = none → ∀ ts, ∃ u, exec (.svPrefixInsert q ts) s = .next u ∧ Rej u 8) ∧
      (∀ a, v.state ≠ stFree → s.chip.serve.area = some a → s.chip.serve.prefixKey = none →
        ∀ ts, ∃ u, exec (.svPrefixInsert q ts) s = .next u ∧ Rej u 5) ∧
      (∀ a k ts, v.state ≠ stFree → s.chip.serve.area = some a → s.chip.serve.prefixKey = some k →
        ts.length < 128 * cmdField e 12 4 → ∃ u, exec (.svPrefixInsert q (some ts)) s = .next u
          ∧ Completed s.chip u.chip q e 4 0 com 0 ∧ Only mailParts s u) ∧
      (∀ (a : Area) (k : List Byte) (ts : List (BitVec 32)) (n : Nat) (key : List Byte), s.chip.serve.area = some a →
        s.chip.serve.prefixKey = some k → v.state ∈ [stDone, stGenerating] → cmdField e 12 4 = 1 → cmdField e 8 1 ≠ 1 →
        128 ≤ v.len.toNat → ts.length = 128 → key = pageKey k zeroKey v.variant v.wepoch v.repoch ts →
        findNode (s.chip, s.far) key ts = none → freeNode (s.chip, s.far) 0 = some n →
        s.chip.serve.refs.contains (req, n) = false →
        ∃ u, exec (.svPrefixInsert q (some ts)) s = .next u ∧ Answered s.chip u.chip q e 0 0 true 1
          ∧ nodeBytes (u.chip, u.far) n = setBytes (nodeOf key noNode (getPage (s.chip, s.far) req 0) 0 v n) 20 (leBytes 4 1)
          ∧ u.chip.serve = { s.chip.serve with
              owned := s.chip.serve.owned.filter fun o => !(o.1 == req && o.2.1 == 0), refs := s.chip.serve.refs ++ [(req, n)] }
          ∧ u.far = farWrite s.far (a.blockAddr n) (ts.flatMap fun t => leBytes 4 t.toNat)
          ∧ u.pending = s.pending ∧ s.chip.Only (.serve :: mailParts) u.chip)) ∧
    (∀ n : Nat, s.chip.command q 0x0323 = some e → cmdField e 8 4 = n →
      (s.chip.nodeLimit ≤ n ∨ nodeValid (nodeBytes (s.chip, s.far) n) = false → ∃ u, exec (.svPrefixEvict q) s = .next u
        ∧ Completed s.chip u.chip q e 0x0D 0 com 0 ∧ Only mailParts s u) ∧
      (n < s.chip.nodeLimit → nodeValid (nodeBytes (s.chip, s.far) n) = true → nodeRefs (nodeBytes (s.chip, s.far) n) ≠ 0 →
        ∃ u, exec (.svPrefixEvict q) s = .next u ∧ Rej u 12) ∧
      (n < 2048 → nodeValid (nodeBytes (s.chip, s.far) n) = true → nodeRefs (nodeBytes (s.chip, s.far) n) = 0 →
        nodeParent (nodeBytes (s.chip, s.far) n) = noNode → ∃ u, exec (.svPrefixEvict q) s = .next u
          ∧ Answered s.chip u.chip q e 0 0 true 0 ∧ nodeValid (nodeBytes (u.chip, u.far) n) = false
          ∧ Only (.serve :: mailParts) s u))

/-- Passes (R203, R207, R271, R284, R292, R295, R300, R302, R304): the entry group starts the first eligible generation with
the next number; a token that comes back is appended to the token ring and the request goes on; a drain that lasts too long
halts what is still out; a notice waits for its pass, a late one is reported; a KV failure cancels its request with reason 6;
a missed deadline is reported once. -/
def Obligations.PassesStartAndReturn : Prop :=
  ∀ s : State, s.chip.on = true →
    (s.chip.isEntry = false ∨ s.chip.serve.stopped = true ∨ s.chip.fab.deviceHalt = true ∨ s.chip.nextNumber = none →
      exec .passStart s = .next s) ∧
    (∀ (p : Pass) (r : Recipe) (req : BitVec 12) (e : Entry), s.chip.isEntry = true → s.chip.serve.stopped = false →
      s.chip.fab.deviceHalt = false → s.chip.serve.nextPass = some p → s.chip.rcp.staged = none → s.chip.rcp.active = some r →
      s.chip.serve.changes = [] → s.chip.serve.out = [] → s.chip.serve.rerun = [] → s.chip.serve.eligible = [req] →
      s.chip.hotEntry req = some e → e.state = stGenerating → e.flag 0 = false → s.chip.rcp.passes = [] → s.chip.ringRoom = true →
      (r.lengthOf e.len.toNat 1).isSome = true → s.chip.load.incoming = none → s.chip.opt.returnAt = none →
      s.chip.rcp.fallback = s.chip.rcp.fallbackNext → s.chip.spk.boundNext = none → s.chip.spk.unboundNext = none →
      s.chip.so.obj = [] → s.chip.arr.tile = [] → s.chip.fab.listPos = [] →
      ∃ u, exec .passStart s = .next u
        ∧ u.chip.serve.out = [{ pass := p, req, kind := 0, pos := e.len.toNat, positions := 1 }]
        ∧ u.chip.serve.nextPass = some (p + 1) ∧ u.chip.hotEntry req = some e
        ∧ u.chip.out = s.chip.out ++ [.started p req 0 e.len.toNat 1]
        ∧ u.chip.rcp.passes = [{
            pass := p, req, variant := e.variant.setWidth 6, wepoch := s.chip.activeWepoch, pos := BitVec.ofNat 20 e.len.toNat
            positions := 1, kind := 0, began := s.chip.tick.count }]
        ∧ u.chip.rcp.begun = true ∧ Only [.serve, .rcp, .fab, .spk, .out] s u) ∧
    (∀ (t : TileIx) (k : Crumb) (a : Area) (e : Entry) (o : OutPass) (tok pos slot : Nat), s.chip.load.requests = [] →
      s.chip.isEntry = true → s.chip.hasBegun k.hdr.pass = true → s.chip.repochOf k.hdr.pass = some k.hdr.repoch →
      s.chip.wepochOf k.hdr.pass = some k.hdr.wepoch →
      (∀ r, s.chip.rcp.active = some r → (r.lengthOf k.hdr.pos.toNat 1).isSome = true) →
      s.chip.hotEntry k.hdr.req = some e → s.chip.tileOrder t = none → s.chip.fab.marks = [] → k.hdr.flags = 0 →
      s.chip.serve.out = [o] → o = { pass := k.hdr.pass, req := k.hdr.req, kind := 0, pos, positions := 1 } →
      e.state = stGenerating → e.cancelPass = 0 → e.flag 0 = false → pos + 2 < e.maxLen.toNat → s.chip.serve.area = some a →
      a.ringSize ≠ 0 → leAt k.payload 0 4 = tok → tok ≠ noToken → leAt k.payload 4 4 = noToken →
      ∃ u, exec (.activationCrumb t k 1 true slot) s = .next u ∧ u.chip.serve.out = []
        ∧ u.chip.hotEntry k.hdr.req = some { e with len := BitVec.ofNat 32 (pos + 1), tokensOut := e.tokensOut + 1 }
        ∧ u.chip.serve.head = s.chip.serve.head + 1
        ∧ u.far = farWrite s.far (a.ring + 16 * (s.chip.serve.head.toNat % a.ringSize))
            (leBytes 2 k.hdr.req.toNat ++ leBytes 1 0
              ++ leBytes 1 (recFlags false false (s.chip.epochChanged k.hdr.pass e) (e.flag 4)) ++ leBytes 4 tok
              ++ leBytes 4 (pos + 1) ++ leBytes 4 k.hdr.pass.toNat)
        ∧ u.pending = s.pending ∧ s.chip.Only [.serve] u.chip) ∧
    (∀ (r : Recipe) (a : Pass), s.chip.rcp.staged = some (r, .armed a) → s.chip.rcp.draining = true →
      ((s.chip.serve.out.filter fun o => passBefore o.pass a) = [] → exec .recipeDrainTimeout s = .next { s with chip := { s.chip with
        rcp := { s.chip.rcp with draining := false, drained := true } } }) ∧
      (∀ o, (s.chip.serve.out.filter fun o => passBefore o.pass a) = [o] → ∃ u, exec .recipeDrainTimeout s = .next u
        ∧ u.chip.rcp = { s.chip.rcp with draining := false, drained := true } ∧ o.pass ∈ u.chip.fab.halted
        ∧ Counted s.chip u.chip Src.recipeDrain 0 ∧ Only (.rcp :: reportParts) s u)) ∧
    (s.chip.rcp.draining = false → exec .recipeDrainTimeout s = .next s) ∧
    (∀ (n : Notice) (sp : Pass),
      ((s.chip.nextNumber.any fun p => passAfter p sp) = false → exec (.schedulingNotice n sp) s = .next { s with chip := { s.chip with
        serve := { s.chip.serve with changes := s.chip.serve.changes ++ [{ at' := sp, notice := n }] } } }) ∧
      ((s.chip.nextNumber.any fun p => passAfter p sp) = true → ∃ u, exec (.schedulingNotice n sp) s = .next u
        ∧ u.chip.serve = { s.chip.serve with changes := s.chip.serve.changes ++ [{ at' := sp, notice := n }] }
        ∧ Counted s.chip u.chip Src.schedLate ((match n with
            | .admission r => r
            | .cancel r _ _ => r).setWidth 32) ∧ Only (.serve :: reportParts) s u)) ∧
    (∀ (req : BitVec 12) (v : Entry),
      (s.chip.isAuthority = false → exec (.kvFailureNotice req) s = .next s) ∧
      (s.chip.isAuthority = true → s.chip.hotEntry req = some v → v.state = stGenerating → (s.chip.outOf req) = [] →
        ∃ u, exec (.kvFailureNotice req) s = .next u
          ∧ u.chip.hotEntry req = some { v with status := 6, cancelPass := s.chip.nextNumber.getD 0 }
          ∧ u.chip.serve.changes = s.chip.serve.changes
              ++ [{ at' := s.chip.nextNumber.getD 0 + 64, notice := .cancel req (s.chip.nextNumber.getD 0) 6 }]
          ∧ Only [.serve, .fab, .out] s u) ∧
      (s.chip.hotEntry req = some v → v.deadline = 0 ∨ s.chip.tick.count.toNat ≤ v.deadline.toNat ∨ v.flag 4 = true →
        exec (.deadlineMiss req) s = .next s) ∧
      (s.chip.hotEntry req = some v → v.deadline ≠ 0 → v.deadline.toNat < s.chip.tick.count.toNat → v.state = stGenerating →
        v.flag 4 = false → v.flag 1 = false → ∃ u, exec (.deadlineMiss req) s = .next u
          ∧ u.chip.hotEntry req = some (v.setFlag 4 true)
          ∧ Counted s.chip u.chip Src.deadlineMiss (req.setWidth 32) ∧ Only (.serve :: reportParts) s u))

/-! ## Pace, the rack tick and the links (chapters 05 and 09) -/

/-- The pace gate and the rack tick (R180, R181, R183 to R187): the gate gives each sector's u_q4 once in a round, one too
slow is reported; a child sends its stamp to its parent; the end of an exchange keeps its offset; sixteen are averaged, the
first alignment steps the count, a later one slews it by at most 50 ppm (by how much the spec leaves open, log entry 23); a
child that hears nothing for 100 µs is no longer aligned. -/
def Obligations.PaceAndRackTick : Prop :=
  ∀ s : State, s.chip.on = true →
    (s.chip.hk.inRound = false ∨ s.chip.hk.paceDone = true → ∀ n, exec (.paceGateClose n) s = .next s) ∧
    (∀ n : Vector Nat 16, s.chip.hk.inRound = true → s.chip.hk.paceDone = false →
      (∀ k : Fin 16, 0 < n[k] ∧ divHalfEven 1600000000 (32 * n[k]) < 65536) →
      let fast := fun k : Fin 16 => decide (divHalfEven 1600000000 (32 * n[k]) ≤ 8400)
      ∃ u, exec (.paceGateClose n) s = .next u ∧ u.chip.hk = { s.chip.hk with paceDone := true }
        ∧ (∀ k : Fin 16, (sget (fun _ => {}) u.chip.fab.pace k.val : Pace).u = BitVec.ofNat 16 (divHalfEven 1600000000 (32 * n[k]))
          ∧ ((fast k = false) → (sget (fun _ => {}) u.chip.fab.pace k.val : Pace).slow = true))
        ∧ ((∀ k, fast k = true) → Only [.hk, .fab] s u)
        ∧ (∀ j, (∀ k, fast k = false ↔ k = j) → Counted s.chip u.chip Src.paceSlow (BitVec.ofNat 32 j.val)
          ∧ Only (.hk :: reportParts) s u)) ∧
    (s.chip.sys.posValid = false → ∀ frac, exec (.tickExchange frac) s = .next s) ∧
    (∀ (p : PortIx) (frac : BitVec 6), s.chip.sys.posValid = true → parentPort s.chip.sys.position = some p →
      s.chip.rootAbsent = false → (s.chip.port p).isUp = true → ∃ u, exec (.tickExchange frac) s = .next u
        ∧ u.chip.out = s.chip.out ++ [.link p (.tstamp [sendStamp p (64 * s.chip.tick.count.toNat + frac.toNat)])]
        ∧ u.chip.tick = { s.chip.tick with
            parent := BitVec.ofNat 4 (p.toNat + 1), actingRoot := false
            sent := some (sendStamp p (64 * s.chip.tick.count.toNat + frac.toNat)) }
        ∧ Only [.tick, .out] s u) ∧
    (∀ (p : PortIx) (frac : BitVec 6) (turn : Nat),
      ((s.chip.port p).isUp = false → ∀ r, exec (.tstampBlock p r frac turn) s = .next s) ∧
      ((s.chip.port p).isUp = true → exec (.tstampBlock p none frac turn) s = .next { s with chip := { s.chip with
        out := s.chip.out ++ [.link p (.tstamp [arrivalStamp p (64 * s.chip.tick.count.toNat + frac.toNat),
          sendStamp p (64 * s.chip.tick.count.toNat + frac.toNat + turn)])] } }) ∧
      (∀ t1 t2 t3 : Int, (s.chip.port p).isUp = true → s.chip.sys.posValid = true → s.chip.tick.actingRoot = false →
        parentPort s.chip.sys.position = some p → s.chip.tick.offs.length < 16 → s.chip.tick.sent = some t1 →
        exec (.tstampBlock p (some (t2, t3)) frac turn) s = .next { s with chip := { s.chip with tick := { s.chip.tick with
          offs := s.chip.tick.offs ++ [(t2 - t1) - (arrivalStamp p (64 * s.chip.tick.count.toNat + frac.toNat) - t3)]
          lastEx := s.chip.tick.count, sent := none } } })) ∧
    (s.chip.tick.offs.length < 16 → exec .tickCorrection s = .next s) ∧
    (16 ≤ s.chip.tick.offs.length → ∃ u, exec .tickCorrection s = .next u ∧ u.chip.tick.offs = [] ∧ u.chip.tick.aligned = true ∧ u.chip.tick.holdover = false
      ∧ u.chip.tick.offsetPs = offsetPs (s.chip.tick.offs.foldl (· + ·) 0)
      ∧ (s.chip.tick.stepped = false → u.chip.tick.stepped = true ∧ Only [.tick] s u
        ∧ u.chip.tick.count = s.chip.tick.count + BitVec.ofInt 64 (intDivHalfEven (s.chip.tick.offs.foldl (· + ·) 0) 2048))
      ∧ (s.chip.tick.stepped = true → u.chip.tick.count = s.chip.tick.count ∧ -50000 ≤ u.chip.tick.ratePpb
        ∧ u.chip.tick.ratePpb ≤ 50000 ∧ Only [.tick, .free] s u)) ∧
    (s.chip.tick.aligned = false → exec .tickAlignLost s = .next s) ∧
    (∀ p, s.chip.tick.aligned = true → s.chip.tick.actingRoot = false → s.chip.sys.posValid = true →
      parentPort s.chip.sys.position = some p → 100000 ≤ (s.chip.tick.count - s.chip.tick.lastEx).toNat →
      exec .tickAlignLost s = .next { s with chip := { s.chip with tick := { s.chip.tick with aligned := false } } })

/-- Training (R324, R326 to R328): light starts it; each phase needs what the peer's block shows and sends the next; on an
axis port the wrong peer is reported once; in phase 3 the port is UP with LSEQ 0; an attempt that times out is reported and
the next one waits. -/
def Obligations.LinksTrain : Prop :=
  ∀ (s : State) (p : PortIx) (b : TrainInfo), s.chip.on = true → s.chip.fab.inputs = [] →
    let x := s.chip.port p
    (x.state = .disabled → exec (.lightDetect p) s = .next s) ∧
    (x.state = .down → x.enable = true → x.retryWait = false → s.chip.mayTrain = true → ∃ u, exec (.lightDetect p) s = .next u
      ∧ u.chip.port p = { x with light := true, state := .training, phase := 0, wiring := false, dark := false }
      ∧ u.chip.out = s.chip.out ++ [trainSent u.chip p 0] ∧ (∀ q, q ≠ p → u.chip.port q = s.chip.port q) ∧ Only [.opt, .out] s u) ∧
    (x.state ≠ .training → exec (.trainBlock p b) s = .next s ∧ exec (.trainingTimeout p) s = .next s) ∧
    (x.state = .training →
      (x.phase = 0 → b.lanes = 0xFF → ∃ u, exec (.trainBlock p b) s = .next u ∧ u.chip.port p = { x with phase := 1 }
        ∧ u.chip.out = s.chip.out ++ [trainSent u.chip p 1] ∧ (∀ q, q ≠ p → u.chip.port q = s.chip.port q) ∧ Only [.opt, .out] s u) ∧
      (x.phase = 1 → b.phase ≠ 0 → s.chip.peerMatches p b = false → x.wiring = false → ∃ u, exec (.trainBlock p b) s = .next u
        ∧ (u.chip.port p).wiring = true ∧ (u.chip.port p).phase = 1 ∧ Counted s.chip u.chip Src.linkWiring (wiringDetail p b)
        ∧ Only (.opt :: reportParts) s u) ∧
      (x.phase = 1 → b.phase ≠ 0 → s.chip.peerMatches p b = true → max 1 b.lowVer.toNat ≤ min 2 b.highVer.toNat →
        ∃ u, exec (.trainBlock p b) s = .next u
          ∧ u.chip.port p = { x with
              phase := 2, version := BitVec.ofNat 4 (min 2 b.highVer.toNat), peerPart := peerPartOf b.part
              peer := if isAxis p then posOfWire b.position else 0 }
          ∧ u.chip.out = s.chip.out ++ [trainSent u.chip p 2] ∧ (∀ q, q ≠ p → u.chip.port q = s.chip.port q) ∧ Only [.opt, .out] s u) ∧
      (x.phase = 2 → 2 ≤ b.phase.toNat → b.agreed.toNat = x.version.toNat → ∃ u, exec (.trainBlock p b) s = .next u
        ∧ u.chip.port p = { x with phase := 3, delayNs := b.delayNs } ∧ u.chip.out = s.chip.out ++ [trainSent u.chip p 3]
        ∧ (∀ q, q ≠ p → u.chip.port q = s.chip.port q) ∧ Only [.opt, .out] s u) ∧
      (x.phase = 3 → b.phase = 3 → isAxis p = true ∨ NoVirtual s.chip p → ∃ u, exec (.trainBlock p b) s = .next u
        ∧ (u.chip.port p).state = .up ∧ (u.chip.port p).txSeq = 0 ∧ (u.chip.port p).rxSeq = 0 ∧ (u.chip.port p).laneMap = 0xFF
        ∧ (u.chip.port p).sent = [] ∧ u.chip.out = s.chip.out ++ [idleSent u.chip p]
        ∧ u.chip.serve = { s.chip.serve with
            stopped := s.chip.serve.stopped && !(x.isVirtual && s.chip.opt.lost.contains (stepPos s.chip.sys.position p)) }
        ∧ Only [.opt, .serve, .out] s u) ∧
      (∃ u, exec (.trainingTimeout p) s = .next u ∧ (u.chip.port p).state = .down ∧ (u.chip.port p).retryWait = true
        ∧ Counted s.chip u.chip Src.linkTrain (s.chip.portDetail p 0) ∧ Only (.opt :: reportParts) s u)) ∧
    (x.state = .down → x.enable = true → x.light = true → s.chip.mayTrain = true → ∃ u, exec (.trainingRetry p) s = .next u
      ∧ u.chip.port p = { x with retryWait := false, state := .training, phase := 0, wiring := false, dark := false }
      ∧ u.chip.out = s.chip.out ++ [trainSent u.chip p 0] ∧ (∀ q, q ≠ p → u.chip.port q = s.chip.port q) ∧ Only [.opt, .out] s u)

/-- Crumb blocks and retry (R318 to R323, R333, R341): the block due is delivered and LSEQ moves on, on a Z port to the slice that
ROUTE names; one ahead of it asks for the missing one once, one behind is dropped; a RETRY resends from the LSEQ it names, a
fifth in a row for one takes the port DOWN; a RETRY without answer is repeated four times; an IDLE that shows a missing block
asks for it. -/
def Obligations.CrumbBlocksAndRetry : Prop :=
  ∀ (s : State) (p : PortIx), s.chip.on = true →
    let x := s.chip.port p
    (x.isUp = false → ∀ bytes l, exec (.crumbBlock p bytes) s = .next s ∧ exec (.retryBlock p l) s = .next s
      ∧ exec (.retryRepeat p) s = .next s) ∧
    (x.isUp = true → x.version ≠ 1 →
      (∀ bytes, readBlock bytes = none → x.retrying = 0 → ∃ u, exec (.crumbBlock p bytes) s = .next u
        ∧ u.chip.port p = { x with retrying := 1 } ∧ u.chip.out = s.chip.out ++ [retrySent s.chip p]
        ∧ (∀ q, q ≠ p → u.chip.port q = s.chip.port q) ∧ Only [.opt, .out] s u) ∧
      (∀ (bytes bs : List Byte) (fixed : Bool) (k : Crumb), readBlock bytes = some (bs, fixed) → bs.headD 0 = crumbType →
        isAxis p = true ∨ bs.getD 1 0 = 0 → k = crumbOf (bytesAt bs 4 80) →
        let y : Port := if fixed then { x with fecCorr := satAdd x.fecCorr 1 } else x
        let lseq := BitVec.ofNat 16 (leAt bs 2 2)
        (lseq = x.rxSeq → isZ p = false → custodyKind k.hdr.kind = false ∨ s.chip.entryPort ≠ some p →
          ∃ u, exec (.crumbBlock p bytes) s = .next u
            ∧ u.chip.port p = { y with rxSeq := x.rxSeq + 1, retrying := 0 } ∧ u.chip.out = s.chip.out ++ [.region p k]
            ∧ (∀ q, q ≠ p → u.chip.port q = s.chip.port q) ∧ Only [.opt, .out] s u) ∧
        (lseq = x.rxSeq → isZ p = false → custodyKind k.hdr.kind = true → s.chip.entryPort = some p →
          s.chip.opt.mirrorFrom = none → s.chip.opt.skip = none → ∃ u, exec (.crumbBlock p bytes) s = .next u
            ∧ u.chip.port p = { y with rxSeq := x.rxSeq + 1, retrying := 0 } ∧ u.chip.out = s.chip.out ++ [.region p k]
            ∧ u.chip.entered k.hdr.pass = s.chip.entered k.hdr.pass + 1
            ∧ (∀ q, q ≠ p → u.chip.port q = s.chip.port q) ∧ Only [.opt, .fab, .out] s u) ∧
        (lseq = x.rxSeq → isZ p = true → field (bs.getD 1 0).toNat 0 2 = s.chip.posZ → custodyKind k.hdr.kind = false →
          ∃ u, exec (.crumbBlock p bytes) s = .next u
            ∧ u.chip.port p = { y with rxSeq := x.rxSeq + 1, retrying := 0 }
            ∧ u.chip.out = s.chip.out ++ [.region (BitVec.ofNat 3 (field (bs.getD 1 0).toNat 2 3)) k]
            ∧ (∀ q, q ≠ p → u.chip.port q = s.chip.port q) ∧ Only [.opt, .out] s u) ∧
        (lseq = x.rxSeq → isZ p = true → field (bs.getD 1 0).toNat 0 2 ≠ s.chip.posZ → (s.chip.port (otherZ p)).isUp = true →
          (s.chip.port (otherZ p)).version ≠ 1 → ∃ u, exec (.crumbBlock p bytes) s = .next u
            ∧ u.chip.port p = { y with rxSeq := x.rxSeq + 1, retrying := 0 }
            ∧ (u.chip.port (otherZ p)).sent.getLast? = some ((s.chip.port (otherZ p)).txSeq, bs.getD 1 0 :: crumbBytes k)
            ∧ (∀ q, q ≠ p → q ≠ otherZ p → u.chip.port q = s.chip.port q) ∧ Only [.opt, .out] s u) ∧
        (seqAhead lseq x.rxSeq = true → x.retrying = 0 → ∃ u, exec (.crumbBlock p bytes) s = .next u
          ∧ u.chip.port p = { y with retrying := 1 } ∧ u.chip.out = s.chip.out ++ [retrySent s.chip p]
          ∧ (∀ q, q ≠ p → u.chip.port q = s.chip.port q) ∧ Only [.opt, .out] s u) ∧
        (lseq ≠ x.rxSeq → seqAhead lseq x.rxSeq = false → ∃ u, exec (.crumbBlock p bytes) s = .next u
          ∧ u.chip.port p = y ∧ (∀ q, q ≠ p → u.chip.port q = s.chip.port q) ∧ Only [.opt] s u)) ∧
      (∀ (l : BitVec 16) (bytes : List Byte), x.sent = [(l, bytes)] → x.lastRetry = none → x.vlink = none →
        ∃ u w, exec (.retryBlock p l) s = .next u
          ∧ u.chip.out = s.chip.out ++ w ++ [.link p (.crumb l (linkBlock crumbType (bytes.headD 0) l (bytes.drop 1)))]
          ∧ (u.chip.port p).retries = satAdd x.retries 1 ∧ (u.chip.port p).lastRetry = some (l, 1) ∧ (u.chip.port p).sent = x.sent
          ∧ Counted s.chip u.chip Src.linkRetry (s.chip.portDetail p 0) ∧ Only (.opt :: reportParts) s u) ∧
      (∀ l, x.lastRetry = some (l, 4) → isAxis p = false → NoVirtual s.chip p → ∃ u, exec (.retryBlock p l) s = .next u
        ∧ (u.chip.port p).state = .down ∧ Counted s.chip u.chip Src.linkRetryExhausted (s.chip.portDetail p 0)
        ∧ Counted s.chip u.chip Src.portDown (s.chip.portDetail p 0) ∧ Only (.opt :: reportParts) s u) ∧
      (∀ l, x.lastRetry = some (l, 4) → isAxis p = true → s.chip.opt.reports = [] → ∃ u, exec (.retryBlock p l) s = .next u
        ∧ (u.chip.port p).state = .down ∧ Counted s.chip u.chip Src.linkRetryExhausted (s.chip.portDetail p 0)
        ∧ Counted s.chip u.chip Src.portDown (s.chip.portDetail p 0) ∧ Only (.opt :: .tick :: reportParts) s u) ∧
      (x.retrying = 0 → exec (.retryRepeat p) s = .next s) ∧
      (0 < x.retrying → x.retrying < 4 → ∃ u, exec (.retryRepeat p) s = .next u
        ∧ u.chip.port p = { x with retrying := x.retrying + 1 } ∧ u.chip.out = s.chip.out ++ [retrySent s.chip p]
        ∧ (∀ q, q ≠ p → u.chip.port q = s.chip.port q) ∧ Only [.opt, .out] s u) ∧
      (∀ b : IdleInfo, b.status.getLsbD 0 = true → x.state ≠ .disabled →
        (seqAhead b.lseq x.rxSeq = false → ∃ u, exec (.idleBlock p b) s = .next u ∧ u.chip.port p = { x with peerAlive := true }
          ∧ (∀ q, q ≠ p → u.chip.port q = s.chip.port q) ∧ Only [.opt] s u) ∧
        (seqAhead b.lseq x.rxSeq = true → x.retrying = 0 → ∃ u, exec (.idleBlock p b) s = .next u
          ∧ u.chip.port p = { x with peerAlive := true, retrying := 1 }
          ∧ u.chip.out = s.chip.out ++ [retrySent s.chip p] ∧ Only [.opt, .out] s u)))

/-- Ports going down and lanes (R329 to R334, R345): an IDLE that does not come, a HALT and light that is lost take a port that is
up DOWN, which is reported, its light forgotten in the last case; over an axis port the rack hears of it; a failed lane asks for
a map without it, a second one takes the port DOWN; an agreed map is answered and both ends switch, to seven lanes with the
port's section, if the recipe has one; the lane that returns asks for all eight. -/
def Obligations.PortsAndLanes : Prop :=
  ∀ (s : State) (p : PortIx), s.chip.on = true →
    let x := s.chip.port p
    let Down := fun (u : State) => (u.chip.port p).state = .down ∧ (u.chip.port p).downs = satAdd x.downs 1
      ∧ Counted s.chip u.chip Src.portDown (s.chip.portDetail p 0) ∧ Only (.opt :: .tick :: reportParts) s u
      ∧ (isAxis p = false → u.chip.tick = s.chip.tick)
      ∧ (isAxis p = true → u.chip.opt.reports = [(x.peer, s.chip.tick.count, s.chip.sys.position)]
        ∧ .rack (s.chip.noticePorts.filter fun q => q != p && (s.chip.port q).isUp) (.portDown x.peer s.chip.sys.position) ∈ u.chip.out)
    (x.isUp = false → exec (.idleTimeout p) s = .next s ∧ (∀ lane, exec (.laneFault p lane) s = .next s)) ∧
    (x.isUp = true → (if isAxis p then s.chip.opt.reports = [] else NoVirtual s.chip p) →
      (∃ u, exec (.idleTimeout p) s = .next u ∧ Down u) ∧
      (∀ reason, ∃ u, exec (.haltBlock p reason) s = .next u ∧ Down u) ∧
      (∃ u, exec (.lightLoss p) s = .next u ∧ Down u ∧ (u.chip.port p).light = false) ∧
      (∀ lane, x.laneMap.getLsbD lane.toNat = true → x.state = .degraded → ∃ u, exec (.laneFault p lane) s = .next u ∧ Down u)) ∧
    (∀ lane : BitVec 3, x.state = .up → x.version ≠ 1 → x.laneMap.getLsbD lane.toNat = true → x.laneTo = none →
      ∃ u, exec (.laneFault p lane) s = .next u
        ∧ u.chip.port p = { x with laneTo := some (x.laneMap &&& ~~~(1#8 <<< lane.toNat)), laneAsk := true }
        ∧ u.chip.out = s.chip.out ++ [lanemapSent s.chip p (x.laneMap &&& ~~~(1#8 <<< lane.toNat)) 0]
        ∧ (∀ q, q ≠ p → u.chip.port q = s.chip.port q) ∧ Only [.opt, .out] s u) ∧
    (∀ (map : BitVec 8) (l : BitVec 16), x.state = .up → x.version ≠ 1 →
      (7 ≤ laneCount map → x.laneTo = none → ∃ u, exec (.lanemapBlock p map 0 l) s = .next u
        ∧ u.chip.port p = { x with laneTo := some map, laneAsk := false }
        ∧ u.chip.out = s.chip.out ++ [lanemapSent s.chip p map 1]
        ∧ (∀ q, q ≠ p → u.chip.port q = s.chip.port q) ∧ Only [.opt, .out] s u) ∧
      (∀ phase : Byte, phase = (if x.laneAsk then 1 else 2) → x.laneTo = some map → map ≠ 0xFF → s.chip.rcp.fallbackNext = 0 →
        s.chip.rcp.fallback.toNat < 8 → ∃ u w, exec (.lanemapBlock p map phase l) s = .next u
          ∧ (u.chip.port p).state = .degraded ∧ (u.chip.port p).laneMap = map ∧ (u.chip.port p).laneTo = none
          ∧ (u.chip.port p).laneLosses = satAdd x.laneLosses 1
          ∧ u.chip.out = s.chip.out ++ [lanemapSent s.chip p map 2] ++ w
          ∧ Counted s.chip u.chip Src.laneLoss
              (s.chip.portDetail p (((List.range 8).find? fun i => !map.getLsbD i).getD 0))
          ∧ u.chip.rcp = (if (s.chip.rcp.active.bind fun r => r.fallbackOf (BitVec.ofNat 4 (8 + p.toNat))).isSome then
              { s.chip.rcp with fallbackNext := BitVec.ofNat 4 (8 + p.toNat) } else s.chip.rcp)
          ∧ Only (.opt :: .rcp :: reportParts) s u) ∧
      (x.laneTo ≠ some map → exec (.lanemapBlock p map 1 l) s = .next s)) ∧
    (x.state = .degraded → x.version ≠ 1 → x.laneTo = some 0xFF → x.laneAsk = true → ∀ l,
      ∃ u, exec (.lanemapBlock p 0xFF 1 l) s = .next u
        ∧ u.chip.port p = { x with state := .up, laneMap := 0xFF, laneTo := none, laneAsk := false }
        ∧ u.chip.out = s.chip.out ++ [lanemapSent s.chip p 0xFF 2]
        ∧ u.chip.rcp = (if s.chip.rcp.fallbackNext = BitVec.ofNat 4 (8 + p.toNat) then { s.chip.rcp with fallbackNext := 0 }
            else s.chip.rcp)
        ∧ (∀ q, q ≠ p → u.chip.port q = s.chip.port q) ∧ Only [.opt, .rcp, .out] s u) ∧
    (∀ m, x.laneTo = some m → x.laneAsk = true → exec (.lanemapRepeat p) s = .next { s with chip := { s.chip with
      out := s.chip.out ++ [lanemapSent s.chip p m 0] } }) ∧
    (x.laneTo = none → exec (.lanemapRepeat p) s = .next s) ∧
    (∀ lane : BitVec 3, s.chip.opt.autoReinstate = true → x.state = .degraded → x.laneMap.getLsbD lane.toNat = false →
      x.laneTo = none → ∃ u, exec (.laneReinstate p lane) s = .next u
        ∧ u.chip.port p = { x with laneTo := some 0xFF, laneAsk := true }
        ∧ u.chip.out = s.chip.out ++ [lanemapSent s.chip p 0xFF 0]
        ∧ (∀ q, q ≠ p → u.chip.port q = s.chip.port q) ∧ Only [.opt, .out] s u) ∧
    (s.chip.opt.autoReinstate = false → ∀ lane, exec (.laneReinstate p lane) s = .next s)

/-- Device loss and takeover (R341, R343, R345, R347, R350, R351): a notice that is new goes on and is kept, one known or its own
changes nothing; a second one within 5 µs declares the neighbour lost; a protected buddy is taken over, an unprotected group is
uncovered; the buddy's section runs from the next boundary; the takeover is announced, a late one reported; entry crumbs go to
the buddy from M on, and unacknowledged crumbs are replayed. -/
def Obligations.LossAndTakeover : Prop :=
  ∀ (s : State) (p : PortIx) (pos : Pos), s.chip.on = true →
    (exec (.portDownNotice p pos s.chip.sys.position) s = .next s) ∧
    (∀ reporter, reporter ≠ s.chip.sys.position →
      ((s.chip.opt.reports.any fun r => r.1 == pos && r.2.2 == reporter) = true → exec (.portDownNotice p pos reporter) s = .next s) ∧
      (s.chip.opt.reports = [] → ∃ u, exec (.portDownNotice p pos reporter) s = .next u
        ∧ u.chip.out = s.chip.out ++ [.rack ((if isZ p then [otherZ p] else [4, 5]).filter fun q => (s.chip.port q).isUp) (.portDown pos reporter)]
        ∧ u.chip.opt.reports = [(pos, s.chip.tick.count, reporter)]
        ∧ (∀ q, u.chip.port q = if isZ q && groupOf pos == groupOf s.chip.sys.position && groupOf reporter == groupOf s.chip.sys.position
            then { s.chip.port q with detour := true } else s.chip.port q)
        ∧ Only [.opt, .out] s u) ∧
      (∀ other at', s.chip.opt.reports = [(pos, at', other)] → other ≠ reporter → (s.chip.tick.count - at').toNat ≤ 5000 →
        pos ∉ s.chip.opt.lost → (∀ q, (s.chip.port q).custody = []) →
        (∀ q, q ∈ [(0 : PortIx), 1, 2, 3, 4, 5] → stepPos s.chip.sys.position q = pos → groupOf pos ≠ groupOf s.chip.sys.position →
          ∃ u, exec (.portDownNotice p pos reporter) s = .next u ∧ u.chip.opt.lost = s.chip.opt.lost ++ [pos]
            ∧ Counted s.chip u.chip Src.deviceLost (BitVec.ofNat 32 (place 8 9 pos.toNat)) ∧ Only (.opt :: reportParts) s u) ∧
        (∀ q, q = s.chip.buddyPort → pos = buddyPos s.chip.sys.position → stepPos s.chip.sys.position q = pos →
          s.chip.rcp.staged = none → (s.chip.opt.lost.any fun l => groupOf l == groupOf pos) = false →
          (s.chip.load.buddyOk = true → s.chip.hasBuddySection = true → (s.chip.port (otherZ q)).isUp = true →
            (s.chip.port (otherZ q)).version ≠ 1 → ∃ u, exec (.portDownNotice p pos reporter) s = .next u
              ∧ u.chip.opt.lost = s.chip.opt.lost ++ [pos] ∧ u.chip.opt.tkState = 1 ∧ u.chip.opt.tkLost = pos
              ∧ u.chip.opt.tkAt = s.chip.tick.count
              ∧ Counted s.chip u.chip Src.deviceLost (BitVec.ofNat 32 (place 8 9 pos.toNat)) ∧ Only (.opt :: reportParts) s u) ∧
          (s.chip.load.buddyOk = false → ∃ u, exec (.portDownNotice p pos reporter) s = .next u
            ∧ u.chip.opt.lost = s.chip.opt.lost ++ [pos] ∧ u.chip.opt.tkState = s.chip.opt.tkState
            ∧ Counted s.chip u.chip Src.groupUncovered 0
            ∧ u.chip.serve = { s.chip.serve with stopped := s.chip.serve.stopped || s.chip.isEntry }
            ∧ Only (.opt :: .serve :: reportParts) s u)))) ∧
    (exec (.lossReportWindow pos) s = .next { s with chip := { s.chip with opt := { s.chip.opt with
      reports := s.chip.opt.reports.filter fun r => r.1 != pos } } }) ∧
    (s.chip.opt.tkState = 1 → exec .buddySectionLoaded s = .next { s with chip := { s.chip with
      opt := { s.chip.opt with tkState := 2, tkLoaded := true }, rcp := { s.chip.rcp with fallbackNext := 1 } } }) ∧
    (s.chip.opt.tkState ≠ 1 → exec .buddySectionLoaded s = .next s) ∧
    (∀ t, exec (.takeoverAnnounce pos t) s = .next { s with chip := { s.chip with opt := { s.chip.opt with tkFirst := t } } }) ∧
    (s.chip.opt.tkState = 1 ∨ s.chip.opt.tkState = 2 → ∃ u, exec .takeoverLate s = .next u
      ∧ Counted s.chip u.chip Src.takeoverLate 0 ∧ Only reportParts s u) ∧
    (s.chip.opt.tkState = 0 ∨ s.chip.opt.tkState = 3 → exec .takeoverLate s = .next s) ∧
    (∀ (oldest m : Pass) (n : Nat), (s.chip.fab.entered = [] ∧ m = oldest) ∨
        (∃ x ∈ s.chip.fab.entered, s.chip.fab.entered = [x] ∧ passBefore x.1 oldest = false ∧ m = x.1 + 1) →
      ∃ u, exec (.mirrorRequest oldest n) s = .next u
        ∧ u.chip.opt.mirrorFrom = some m ∧ (u.chip.port s.chip.buddyPort).mirrorOut = true
        ∧ u.chip.out = s.chip.out ++ [.rack (s.chip.entryPort.toList.filter fun q => (s.chip.port q).isUp) (.replayRequest m)]
        ∧ (∀ q, q ≠ s.chip.buddyPort → u.chip.port q = s.chip.port q) ∧ Only [.opt, .out] s u) ∧
    (∀ m, (s.chip.port p).isUp = false ∨ (s.chip.port p).kept = [] → exec (.custodyReplayRequest p m) s = .next s) ∧
    (∀ (m pass : Pass) (route : Byte) (bytes : List Byte), (s.chip.port p).isUp = true → (s.chip.port p).kept = [(pass, route :: bytes)] →
      (s.chip.port p).custody = [(pass, false, false)] → passBefore pass m = true → (s.chip.port p).vlink = none →
      (s.chip.port p).version ≠ 1 → (s.chip.port p).sinceIdle ≠ 126 → ∃ u, exec (.custodyReplayRequest p m) s = .next u
        ∧ (u.chip.port p).txSeq = (s.chip.port p).txSeq + 1 ∧ (u.chip.port p).kept = (s.chip.port p).kept
        ∧ u.chip.out = s.chip.out ++ [.link p (.crumb (s.chip.port p).txSeq
            (linkBlock crumbType (if p.toNat < 4 then 0 else route) (s.chip.port p).txSeq (s.chip.replayed pass bytes)))]
        ∧ (∀ q, q ≠ p → u.chip.port q = s.chip.port q) ∧ Only [.opt, .out] s u)

/-- Link commands (R337, R340, R352 to R357): the ports' figures are given out; a custody area, the mirror region, the tunnel's
queues and a virtual link are set, a value out of range is an invalid field; a restore starts and completes when its copies
are made; a return is armed. The layout of the commands' parameters is the model's (log entry 11). -/
def Obligations.LinkCommands : Prop :=
  ∀ (s : State) (q : QueueIx) (e : List Byte),
    let com := (s.chip.mq q).commit
    (s.chip.command q 0x0A00 = some e →
      (∃ u, exec (.svLinkQuery q false) s = .next u ∧ Completed s.chip u.chip q e 0x000E 0 com 0 ∧ Only mailParts s u) ∧
      (∃ u, exec (.svLinkQuery q true) s = .next u ∧ Completed s.chip u.chip q e 0 0 true 0
        ∧ .hostWrite (BitVec.ofNat 64 (cmdField e 8 8)) ((List.range 8).flatMap fun p => ([0, 8, 0x10] : List Nat).flatMap fun o =>
            leBytes 8 (regOpt s.chip (0x40 * p + o)).toNat) ∈ u.chip.out ∧ Only mailParts s u)) ∧
    (s.chip.command q 0x0A02 = some e →
      (∀ p : PortIx, cmdField e 8 1 = 1 → cmdField e 9 1 = p.toNat → isAxis p = true → cmdField e 16 8 + 16 * mib ≤ farSize →
        ∃ u, exec (.svLinkConfig q) s = .next u ∧ Completed s.chip u.chip q e 0 0 true 0
          ∧ u.chip.port p = { s.chip.port p with custodyArea := some (cmdField e 16 8) }
          ∧ (∀ r, r ≠ p → u.chip.port r = s.chip.port r) ∧ Only (.opt :: mailParts) s u) ∧
      (cmdField e 8 1 = 1 → 6 ≤ cmdField e 9 1 ∨ farSize < cmdField e 16 8 + 16 * mib → ∃ u, exec (.svLinkConfig q) s = .next u
        ∧ Completed s.chip u.chip q e 4 0 com 0 ∧ Only mailParts s u) ∧
      (cmdField e 8 1 = 2 → cmdField e 16 8 + 128 * mib ≤ farSize → ∃ u, exec (.svLinkConfig q) s = .next u
        ∧ Completed s.chip u.chip q e 0 0 true 0 ∧ u.chip.opt = { s.chip.opt with mirrorBase := some (cmdField e 16 8) }
        ∧ Only (.opt :: mailParts) s u) ∧
      (cmdField e 8 1 = 3 → cmdField e 12 4 < 16 → ∃ u, exec (.svLinkConfig q) s = .next u
        ∧ Completed s.chip u.chip q e 0 0 true 0
        ∧ u.chip.opt = { s.chip.opt with tunnelQueues := BitVec.ofNat 4 (cmdField e 12 4) } ∧ Only (.opt :: mailParts) s u) ∧
      (4 ≤ cmdField e 8 1 → ∃ u, exec (.svLinkConfig q) s = .next u ∧ Completed s.chip u.chip q e 4 0 com 0 ∧ Only mailParts s u) ∧
      (∀ (p spine : PortIx) (n : Byte), cmdField e 8 1 = 0 → cmdField e 9 1 = p.toNat → isAxis p = true →
        spine ∈ [(6 : PortIx), 7] → n ≠ 0 → cmdField e 10 2 = spine.toNat + 256 * n.toNat → (s.chip.port p).state = .disabled →
        ∃ u, exec (.svLinkConfig q) s = .next u ∧ Completed s.chip u.chip q e 0 0 true 0
          ∧ (u.chip.port p).vlink = some (spine, n) ∧ (u.chip.port p).isVirtual = true
          ∧ (∀ r, r ≠ p → u.chip.port r = s.chip.port r) ∧ Only (.opt :: mailParts) s u) ∧
      (∀ (p spine : PortIx) (n : Byte), cmdField e 8 1 = 0 → cmdField e 9 1 = p.toNat → isAxis p = true →
        spine ∈ [(6 : PortIx), 7] → n ≠ 0 → cmdField e 10 2 = spine.toNat + 256 * n.toNat → (s.chip.port p).state = .down →
        (s.chip.port p).enable = true → (s.chip.port spine).isUp = true → s.chip.mayTrain = true →
        ∃ u, exec (.svLinkConfig q) s = .next u ∧ Completed s.chip u.chip q e 0 0 true 0
          ∧ (u.chip.port p).vlink = some (spine, n) ∧ (u.chip.port p).state = .training ∧ trainSent u.chip p 0 ∈ u.chip.out
          ∧ (∀ r, r ≠ p → u.chip.port r = s.chip.port r) ∧ Only (.opt :: mailParts) s u)) ∧
    (s.chip.command q 0x0A03 = some e →
      ((s.chip.mq q).commit = true → exec (.svKvRestore q) s = .next s) ∧
      ((s.chip.mq q).commit = false → ∃ u, exec (.svKvRestore q) s = .next u ∧ u.chip.opt = { s.chip.opt with restoring := true }
        ∧ u.chip.mq q = { s.chip.mq q with commit := true } ∧ (∀ k, k ≠ q → u.chip.mq k = s.chip.mq k) ∧ Only [.opt, .mbx] s u) ∧
      ((s.chip.mq q).commit = true → (∀ k, k ≠ q → s.chip.command k 0x0A03 = none) → ∃ u, exec .kvRestoreComplete s = .next u
        ∧ Completed s.chip u.chip q e 0 0 true 0 ∧ .rack ([s.chip.buddyPort].filter fun p => (s.chip.port p).isUp) .restored ∈ u.chip.out
        ∧ (∀ o ∈ restoreCopies (s.chip, s.far), o ∈ u.chip.out) ∧ Only mailParts s u)) ∧
    (s.chip.command q 0x0A04 = some e →
      (s.chip.rcp.begun = false → ∃ u, exec (.svReturnArm q) s = .next u ∧ Completed s.chip u.chip q e 0 0 true 0
        ∧ u.chip.opt = { s.chip.opt with returnAt := some (BitVec.ofNat 32 (cmdField e 8 4)) } ∧ Only (.opt :: mailParts) s u) ∧
      (s.chip.rcp.begun = true → inRange 65536 (2 ^ 31 - 1) (BitVec.ofNat 32 (cmdField e 8 4) - s.chip.rcp.lastPass).toNat = false →
        ∃ u, exec (.svReturnArm q) s = .next u ∧ Completed s.chip u.chip q e 4 0 com 0 ∧ Only mailParts s u))
end

