-- ==== Sys2Proof/Laws/Sparse.lean ====
section
/-! SUPPORT. What a sparse table does: a read after a write gives the value written, other keys keep theirs (of every table,
canonical or not), and a write keeps the canonical form. -/

namespace Sys2Proof.Laws

open Sys2Proof.Machine

variable {α : Type} (d : Nat → α)

@[simp] theorem sget_nil (k : Nat) : sget d [] k = d k := rfl

@[simp] theorem sget_sput_same (m : Sparse α) (k : Nat) (v : α) : sget d (sput m k v) k = v := by
  induction m with
  | nil => simp [sput, sget]
  | cons e m ih =>
    obtain ⟨i, w⟩ := e
    unfold sput
    split
    · simp [sget]
    · split
      · simp [sget]
      · simp [sget, *]

theorem sget_sput_other (m : Sparse α) (k j : Nat) (v : α) (hj : j ≠ k) :
    sget d (sput m k v) j = sget d m j := by
  induction m with
  | nil => simp [sput, sget, hj]
  | cons e m ih =>
    obtain ⟨i, w⟩ := e
    unfold sput
    split
    · subst_vars; simp [sget, hj]
    · split
      · simp [sget, hj]
      · simp [sget, ih]

@[simp] theorem sget_sdel_same (m : Sparse α) (k : Nat) : sget d (sdel m k) k = d k := by
  induction m with
  | nil => rfl
  | cons e m ih =>
    obtain ⟨i, w⟩ := e
    unfold sdel
    split
    · exact ih
    · simp [sget, *]

theorem sget_sdel_other (m : Sparse α) (k j : Nat) (hj : j ≠ k) : sget d (sdel m k) j = sget d m j := by
  induction m with
  | nil => rfl
  | cons e m ih =>
    obtain ⟨i, w⟩ := e
    unfold sdel
    split
    · subst_vars; simp [sget, hj, ih]
    · simp [sget, ih]

@[simp] theorem sget_sset_same [DecidableEq α] (m : Sparse α) (k : Nat) (v : α) : sget d (sset d m k v) k = v := by
  unfold sset
  split <;> simp [*]

theorem sget_sset_other [DecidableEq α] (m : Sparse α) (k j : Nat) (v : α) (hj : j ≠ k) :
    sget d (sset d m k v) j = sget d m j := by
  unfold sset
  split
  · exact sget_sdel_other d m k j hj
  · exact sget_sput_other d m k j v hj

/-- One key read after a write at any key. -/
theorem sget_sset [DecidableEq α] (m : Sparse α) (k j : Nat) (v : α) :
    sget d (sset d m k v) j = if j = k then v else sget d m j := by
  by_cases h : j = k
  · subst h; simp
  · simp [h, sget_sset_other d m k j v h]

@[simp] theorem sget_smod_same [DecidableEq α] (m : Sparse α) (k : Nat) (f : α → α) :
    sget d (smod d m k f) k = f (sget d m k) := by simp [smod]

theorem sget_smod_other [DecidableEq α] (m : Sparse α) (k j : Nat) (f : α → α) (hj : j ≠ k) :
    sget d (smod d m k f) j = sget d m j := by simp [smod, sget_sset_other d m k j _ hj]

theorem swfFrom_mono [DecidableEq α] (m : Sparse α) (lo lo' : Nat) (hl : lo ≤ lo') (h : swfFrom d lo' m = true) :
    swfFrom d lo m = true := by
  cases m with
  | nil => rfl
  | cons e m =>
    simp only [swfFrom, Bool.and_eq_true, decide_eq_true_eq] at h ⊢
    exact ⟨⟨by omega, h.1.2⟩, h.2⟩

theorem swfFrom_sput [DecidableEq α] (m : Sparse α) (k lo : Nat) (v : α) (hv : v ≠ d k) (hk : lo ≤ k)
    (h : swfFrom d lo m = true) : swfFrom d lo (sput m k v) = true := by
  induction m generalizing lo with
  | nil => simp [sput, swfFrom, hk, hv]
  | cons e m ih =>
    obtain ⟨i, w⟩ := e
    simp only [swfFrom, Bool.and_eq_true, decide_eq_true_eq] at h
    unfold sput
    split
    · subst_vars; simp [swfFrom, hk, hv, h.2]
    · split
      · simp [swfFrom, hk, hv, h.1.2, h.2]; omega
      · simp only [swfFrom, Bool.and_eq_true, decide_eq_true_eq]
        exact ⟨⟨h.1.1, h.1.2⟩, ih (i + 1) (by omega) h.2⟩

theorem swfFrom_sdel [DecidableEq α] (m : Sparse α) (k lo : Nat) (h : swfFrom d lo m = true) :
    swfFrom d lo (sdel m k) = true := by
  induction m generalizing lo with
  | nil => rfl
  | cons e m ih =>
    obtain ⟨i, w⟩ := e
    simp only [swfFrom, Bool.and_eq_true, decide_eq_true_eq] at h
    unfold sdel
    split
    · exact swfFrom_mono d _ lo (i + 1) (by omega) (ih (i + 1) h.2)
    · simp only [swfFrom, Bool.and_eq_true, decide_eq_true_eq]
      exact ⟨⟨h.1.1, h.1.2⟩, ih (i + 1) h.2⟩

/-- Every write keeps the canonical form. -/
theorem swf_sset [DecidableEq α] (m : Sparse α) (k : Nat) (v : α) (h : swf d m = true) :
    swf d (sset d m k v) = true := by
  unfold sset swf
  split
  · exact swfFrom_sdel d m k 0 h
  · exact swfFrom_sput d m k 0 v (by assumption) (by omega) h

/-- Rewriting a value keeps the canonical form. -/
theorem swf_smod [DecidableEq α] (m : Sparse α) (k : Nat) (f : α → α) (h : swf d m = true) :
    swf d (smod d m k f) = true := swf_sset d m k _ h

/-- Dropping entries keeps the canonical form. -/
theorem swfFrom_filter [DecidableEq α] (m : Sparse α) (lo : Nat) (p : Nat × α → Bool) (h : swfFrom d lo m = true) :
    swfFrom d lo (m.filter p) = true := by
  induction m generalizing lo with
  | nil => rfl
  | cons e m ih =>
    obtain ⟨i, w⟩ := e
    simp only [swfFrom, Bool.and_eq_true, decide_eq_true_eq] at h
    simp only [List.filter]
    split
    · simp only [swfFrom, Bool.and_eq_true, decide_eq_true_eq]
      exact ⟨⟨h.1.1, h.1.2⟩, ih (i + 1) h.2⟩
    · exact swfFrom_mono d _ lo (i + 1) (by omega) (ih (i + 1) h.2)

end Sys2Proof.Laws
end

