-- ==== Sys2Proof/Laws/State.lean ====
section
/-! SUPPORT. Every field of the block after each primitive update, so that no proof unfolds a record update. -/

namespace Sys2Proof.Laws

open Sys2Proof.Machine

variable (c : Chip)

@[simp] theorem emit_sys (o : Output) : (c.emit o).sys = c.sys := rfl
@[simp] theorem emit_flt (o : Output) : (c.emit o).flt = c.flt := rfl
@[simp] theorem emit_hk (o : Output) : (c.emit o).hk = c.hk := rfl
@[simp] theorem emit_cal (o : Output) : (c.emit o).cal = c.cal := rfl
@[simp] theorem emit_evr (o : Output) : (c.emit o).evr = c.evr := rfl
@[simp] theorem emit_mbx (o : Output) : (c.emit o).mbx = c.mbx := rfl
@[simp] theorem emit_boot (o : Output) : (c.emit o).boot = c.boot := rfl
@[simp] theorem emit_pins (o : Output) : (c.emit o).pins = c.pins := rfl
@[simp] theorem emit_side (o : Output) : (c.emit o).side = c.side := rfl
@[simp] theorem emit_tick (o : Output) : (c.emit o).tick = c.tick := rfl
@[simp] theorem emit_arr (o : Output) : (c.emit o).arr = c.arr := rfl
@[simp] theorem emit_buf (o : Output) : (c.emit o).buf = c.buf := rfl
@[simp] theorem emit_so (o : Output) : (c.emit o).so = c.so := rfl
@[simp] theorem emit_vu (o : Output) : (c.emit o).vu = c.vu := rfl
@[simp] theorem emit_fab (o : Output) : (c.emit o).fab = c.fab := rfl
@[simp] theorem emit_rcp (o : Output) : (c.emit o).rcp = c.rcp := rfl
@[simp] theorem emit_load (o : Output) : (c.emit o).load = c.load := rfl
@[simp] theorem emit_serve (o : Output) : (c.emit o).serve = c.serve := rfl
@[simp] theorem emit_spk (o : Output) : (c.emit o).spk = c.spk := rfl
@[simp] theorem emit_opt (o : Output) : (c.emit o).opt = c.opt := rfl
@[simp] theorem emit_out (o : Output) : (c.emit o).out = c.out ++ [o] := rfl
@[simp] theorem emit_free (o : Output) : (c.emit o).free = c.free := rfl

@[simp] theorem emits_sys (os : List Output) : (c.emits os).sys = c.sys := rfl
@[simp] theorem emits_flt (os : List Output) : (c.emits os).flt = c.flt := rfl
@[simp] theorem emits_hk (os : List Output) : (c.emits os).hk = c.hk := rfl
@[simp] theorem emits_cal (os : List Output) : (c.emits os).cal = c.cal := rfl
@[simp] theorem emits_evr (os : List Output) : (c.emits os).evr = c.evr := rfl
@[simp] theorem emits_mbx (os : List Output) : (c.emits os).mbx = c.mbx := rfl
@[simp] theorem emits_boot (os : List Output) : (c.emits os).boot = c.boot := rfl
@[simp] theorem emits_pins (os : List Output) : (c.emits os).pins = c.pins := rfl
@[simp] theorem emits_side (os : List Output) : (c.emits os).side = c.side := rfl
@[simp] theorem emits_tick (os : List Output) : (c.emits os).tick = c.tick := rfl
@[simp] theorem emits_arr (os : List Output) : (c.emits os).arr = c.arr := rfl
@[simp] theorem emits_buf (os : List Output) : (c.emits os).buf = c.buf := rfl
@[simp] theorem emits_so (os : List Output) : (c.emits os).so = c.so := rfl
@[simp] theorem emits_vu (os : List Output) : (c.emits os).vu = c.vu := rfl
@[simp] theorem emits_fab (os : List Output) : (c.emits os).fab = c.fab := rfl
@[simp] theorem emits_rcp (os : List Output) : (c.emits os).rcp = c.rcp := rfl
@[simp] theorem emits_load (os : List Output) : (c.emits os).load = c.load := rfl
@[simp] theorem emits_serve (os : List Output) : (c.emits os).serve = c.serve := rfl
@[simp] theorem emits_spk (os : List Output) : (c.emits os).spk = c.spk := rfl
@[simp] theorem emits_opt (os : List Output) : (c.emits os).opt = c.opt := rfl
@[simp] theorem emits_out (os : List Output) : (c.emits os).out = c.out ++ os := rfl
@[simp] theorem emits_free (os : List Output) : (c.emits os).free = c.free := rfl

@[simp] theorem tickFree_sys : (c.tickFree).sys = c.sys := rfl
@[simp] theorem tickFree_flt : (c.tickFree).flt = c.flt := rfl
@[simp] theorem tickFree_hk : (c.tickFree).hk = c.hk := rfl
@[simp] theorem tickFree_cal : (c.tickFree).cal = c.cal := rfl
@[simp] theorem tickFree_evr : (c.tickFree).evr = c.evr := rfl
@[simp] theorem tickFree_mbx : (c.tickFree).mbx = c.mbx := rfl
@[simp] theorem tickFree_boot : (c.tickFree).boot = c.boot := rfl
@[simp] theorem tickFree_pins : (c.tickFree).pins = c.pins := rfl
@[simp] theorem tickFree_side : (c.tickFree).side = c.side := rfl
@[simp] theorem tickFree_tick : (c.tickFree).tick = c.tick := rfl
@[simp] theorem tickFree_arr : (c.tickFree).arr = c.arr := rfl
@[simp] theorem tickFree_buf : (c.tickFree).buf = c.buf := rfl
@[simp] theorem tickFree_so : (c.tickFree).so = c.so := rfl
@[simp] theorem tickFree_vu : (c.tickFree).vu = c.vu := rfl
@[simp] theorem tickFree_fab : (c.tickFree).fab = c.fab := rfl
@[simp] theorem tickFree_rcp : (c.tickFree).rcp = c.rcp := rfl
@[simp] theorem tickFree_load : (c.tickFree).load = c.load := rfl
@[simp] theorem tickFree_serve : (c.tickFree).serve = c.serve := rfl
@[simp] theorem tickFree_spk : (c.tickFree).spk = c.spk := rfl
@[simp] theorem tickFree_opt : (c.tickFree).opt = c.opt := rfl
@[simp] theorem tickFree_out : (c.tickFree).out = c.out := rfl
@[simp] theorem tickFree_free : (c.tickFree).free = c.free + 1 := rfl

@[simp] theorem bufStore_sys (t : TileIx) (w : WordIx) (x : BufWord) : (c.bufStore t w x).sys = c.sys := rfl
@[simp] theorem bufStore_flt (t : TileIx) (w : WordIx) (x : BufWord) : (c.bufStore t w x).flt = c.flt := rfl
@[simp] theorem bufStore_hk (t : TileIx) (w : WordIx) (x : BufWord) : (c.bufStore t w x).hk = c.hk := rfl
@[simp] theorem bufStore_cal (t : TileIx) (w : WordIx) (x : BufWord) : (c.bufStore t w x).cal = c.cal := rfl
@[simp] theorem bufStore_evr (t : TileIx) (w : WordIx) (x : BufWord) : (c.bufStore t w x).evr = c.evr := rfl
@[simp] theorem bufStore_mbx (t : TileIx) (w : WordIx) (x : BufWord) : (c.bufStore t w x).mbx = c.mbx := rfl
@[simp] theorem bufStore_boot (t : TileIx) (w : WordIx) (x : BufWord) : (c.bufStore t w x).boot = c.boot := rfl
@[simp] theorem bufStore_pins (t : TileIx) (w : WordIx) (x : BufWord) : (c.bufStore t w x).pins = c.pins := rfl
@[simp] theorem bufStore_side (t : TileIx) (w : WordIx) (x : BufWord) : (c.bufStore t w x).side = c.side := rfl
@[simp] theorem bufStore_tick (t : TileIx) (w : WordIx) (x : BufWord) : (c.bufStore t w x).tick = c.tick := rfl
@[simp] theorem bufStore_arr (t : TileIx) (w : WordIx) (x : BufWord) : (c.bufStore t w x).arr = c.arr := rfl
@[simp] theorem bufStore_so (t : TileIx) (w : WordIx) (x : BufWord) : (c.bufStore t w x).so = c.so := rfl
@[simp] theorem bufStore_vu (t : TileIx) (w : WordIx) (x : BufWord) : (c.bufStore t w x).vu = c.vu := rfl
@[simp] theorem bufStore_fab (t : TileIx) (w : WordIx) (x : BufWord) : (c.bufStore t w x).fab = c.fab := rfl
@[simp] theorem bufStore_rcp (t : TileIx) (w : WordIx) (x : BufWord) : (c.bufStore t w x).rcp = c.rcp := rfl
@[simp] theorem bufStore_load (t : TileIx) (w : WordIx) (x : BufWord) : (c.bufStore t w x).load = c.load := rfl
@[simp] theorem bufStore_serve (t : TileIx) (w : WordIx) (x : BufWord) : (c.bufStore t w x).serve = c.serve := rfl
@[simp] theorem bufStore_spk (t : TileIx) (w : WordIx) (x : BufWord) : (c.bufStore t w x).spk = c.spk := rfl
@[simp] theorem bufStore_opt (t : TileIx) (w : WordIx) (x : BufWord) : (c.bufStore t w x).opt = c.opt := rfl
@[simp] theorem bufStore_out (t : TileIx) (w : WordIx) (x : BufWord) : (c.bufStore t w x).out = c.out := rfl
@[simp] theorem bufStore_free (t : TileIx) (w : WordIx) (x : BufWord) : (c.bufStore t w x).free = c.free := rfl

@[simp] theorem bufPut_sys (t : TileIx) (w : WordIx) (d : BitVec 512) (p : Bool) : (c.bufPut t w d p).sys = c.sys := rfl
@[simp] theorem bufPut_flt (t : TileIx) (w : WordIx) (d : BitVec 512) (p : Bool) : (c.bufPut t w d p).flt = c.flt := rfl
@[simp] theorem bufPut_hk (t : TileIx) (w : WordIx) (d : BitVec 512) (p : Bool) : (c.bufPut t w d p).hk = c.hk := rfl
@[simp] theorem bufPut_cal (t : TileIx) (w : WordIx) (d : BitVec 512) (p : Bool) : (c.bufPut t w d p).cal = c.cal := rfl
@[simp] theorem bufPut_evr (t : TileIx) (w : WordIx) (d : BitVec 512) (p : Bool) : (c.bufPut t w d p).evr = c.evr := rfl
@[simp] theorem bufPut_mbx (t : TileIx) (w : WordIx) (d : BitVec 512) (p : Bool) : (c.bufPut t w d p).mbx = c.mbx := rfl
@[simp] theorem bufPut_boot (t : TileIx) (w : WordIx) (d : BitVec 512) (p : Bool) : (c.bufPut t w d p).boot = c.boot := rfl
@[simp] theorem bufPut_pins (t : TileIx) (w : WordIx) (d : BitVec 512) (p : Bool) : (c.bufPut t w d p).pins = c.pins := rfl
@[simp] theorem bufPut_side (t : TileIx) (w : WordIx) (d : BitVec 512) (p : Bool) : (c.bufPut t w d p).side = c.side := rfl
@[simp] theorem bufPut_tick (t : TileIx) (w : WordIx) (d : BitVec 512) (p : Bool) : (c.bufPut t w d p).tick = c.tick := rfl
@[simp] theorem bufPut_arr (t : TileIx) (w : WordIx) (d : BitVec 512) (p : Bool) : (c.bufPut t w d p).arr = c.arr := rfl
@[simp] theorem bufPut_so (t : TileIx) (w : WordIx) (d : BitVec 512) (p : Bool) : (c.bufPut t w d p).so = c.so := rfl
@[simp] theorem bufPut_vu (t : TileIx) (w : WordIx) (d : BitVec 512) (p : Bool) : (c.bufPut t w d p).vu = c.vu := rfl
@[simp] theorem bufPut_fab (t : TileIx) (w : WordIx) (d : BitVec 512) (p : Bool) : (c.bufPut t w d p).fab = c.fab := rfl
@[simp] theorem bufPut_rcp (t : TileIx) (w : WordIx) (d : BitVec 512) (p : Bool) : (c.bufPut t w d p).rcp = c.rcp := rfl
@[simp] theorem bufPut_load (t : TileIx) (w : WordIx) (d : BitVec 512) (p : Bool) : (c.bufPut t w d p).load = c.load := rfl
@[simp] theorem bufPut_serve (t : TileIx) (w : WordIx) (d : BitVec 512) (p : Bool) : (c.bufPut t w d p).serve = c.serve := rfl
@[simp] theorem bufPut_spk (t : TileIx) (w : WordIx) (d : BitVec 512) (p : Bool) : (c.bufPut t w d p).spk = c.spk := rfl
@[simp] theorem bufPut_opt (t : TileIx) (w : WordIx) (d : BitVec 512) (p : Bool) : (c.bufPut t w d p).opt = c.opt := rfl
@[simp] theorem bufPut_out (t : TileIx) (w : WordIx) (d : BitVec 512) (p : Bool) : (c.bufPut t w d p).out = c.out := rfl
@[simp] theorem bufPut_free (t : TileIx) (w : WordIx) (d : BitVec 512) (p : Bool) : (c.bufPut t w d p).free = c.free := rfl

@[simp] theorem setBank_sys (t : TileIx) (w : WordIx) (b : Bank) : (c.setBank t w b).sys = c.sys := rfl
@[simp] theorem setBank_flt (t : TileIx) (w : WordIx) (b : Bank) : (c.setBank t w b).flt = c.flt := rfl
@[simp] theorem setBank_hk (t : TileIx) (w : WordIx) (b : Bank) : (c.setBank t w b).hk = c.hk := rfl
@[simp] theorem setBank_cal (t : TileIx) (w : WordIx) (b : Bank) : (c.setBank t w b).cal = c.cal := rfl
@[simp] theorem setBank_evr (t : TileIx) (w : WordIx) (b : Bank) : (c.setBank t w b).evr = c.evr := rfl
@[simp] theorem setBank_mbx (t : TileIx) (w : WordIx) (b : Bank) : (c.setBank t w b).mbx = c.mbx := rfl
@[simp] theorem setBank_boot (t : TileIx) (w : WordIx) (b : Bank) : (c.setBank t w b).boot = c.boot := rfl
@[simp] theorem setBank_pins (t : TileIx) (w : WordIx) (b : Bank) : (c.setBank t w b).pins = c.pins := rfl
@[simp] theorem setBank_side (t : TileIx) (w : WordIx) (b : Bank) : (c.setBank t w b).side = c.side := rfl
@[simp] theorem setBank_tick (t : TileIx) (w : WordIx) (b : Bank) : (c.setBank t w b).tick = c.tick := rfl
@[simp] theorem setBank_arr (t : TileIx) (w : WordIx) (b : Bank) : (c.setBank t w b).arr = c.arr := rfl
@[simp] theorem setBank_so (t : TileIx) (w : WordIx) (b : Bank) : (c.setBank t w b).so = c.so := rfl
@[simp] theorem setBank_vu (t : TileIx) (w : WordIx) (b : Bank) : (c.setBank t w b).vu = c.vu := rfl
@[simp] theorem setBank_fab (t : TileIx) (w : WordIx) (b : Bank) : (c.setBank t w b).fab = c.fab := rfl
@[simp] theorem setBank_rcp (t : TileIx) (w : WordIx) (b : Bank) : (c.setBank t w b).rcp = c.rcp := rfl
@[simp] theorem setBank_load (t : TileIx) (w : WordIx) (b : Bank) : (c.setBank t w b).load = c.load := rfl
@[simp] theorem setBank_serve (t : TileIx) (w : WordIx) (b : Bank) : (c.setBank t w b).serve = c.serve := rfl
@[simp] theorem setBank_spk (t : TileIx) (w : WordIx) (b : Bank) : (c.setBank t w b).spk = c.spk := rfl
@[simp] theorem setBank_opt (t : TileIx) (w : WordIx) (b : Bank) : (c.setBank t w b).opt = c.opt := rfl
@[simp] theorem setBank_out (t : TileIx) (w : WordIx) (b : Bank) : (c.setBank t w b).out = c.out := rfl
@[simp] theorem setBank_free (t : TileIx) (w : WordIx) (b : Bank) : (c.setBank t w b).free = c.free := rfl

@[simp] theorem modHk_sys (f : Hk → Hk) : (c.modHk f).sys = c.sys := rfl
@[simp] theorem modHk_flt (f : Hk → Hk) : (c.modHk f).flt = c.flt := rfl
@[simp] theorem modHk_hk (f : Hk → Hk) : (c.modHk f).hk = f c.hk := rfl
@[simp] theorem modHk_cal (f : Hk → Hk) : (c.modHk f).cal = c.cal := rfl
@[simp] theorem modHk_evr (f : Hk → Hk) : (c.modHk f).evr = c.evr := rfl
@[simp] theorem modHk_mbx (f : Hk → Hk) : (c.modHk f).mbx = c.mbx := rfl
@[simp] theorem modHk_boot (f : Hk → Hk) : (c.modHk f).boot = c.boot := rfl
@[simp] theorem modHk_pins (f : Hk → Hk) : (c.modHk f).pins = c.pins := rfl
@[simp] theorem modHk_side (f : Hk → Hk) : (c.modHk f).side = c.side := rfl
@[simp] theorem modHk_tick (f : Hk → Hk) : (c.modHk f).tick = c.tick := rfl
@[simp] theorem modHk_arr (f : Hk → Hk) : (c.modHk f).arr = c.arr := rfl
@[simp] theorem modHk_buf (f : Hk → Hk) : (c.modHk f).buf = c.buf := rfl
@[simp] theorem modHk_so (f : Hk → Hk) : (c.modHk f).so = c.so := rfl
@[simp] theorem modHk_vu (f : Hk → Hk) : (c.modHk f).vu = c.vu := rfl
@[simp] theorem modHk_fab (f : Hk → Hk) : (c.modHk f).fab = c.fab := rfl
@[simp] theorem modHk_rcp (f : Hk → Hk) : (c.modHk f).rcp = c.rcp := rfl
@[simp] theorem modHk_load (f : Hk → Hk) : (c.modHk f).load = c.load := rfl
@[simp] theorem modHk_serve (f : Hk → Hk) : (c.modHk f).serve = c.serve := rfl
@[simp] theorem modHk_spk (f : Hk → Hk) : (c.modHk f).spk = c.spk := rfl
@[simp] theorem modHk_opt (f : Hk → Hk) : (c.modHk f).opt = c.opt := rfl
@[simp] theorem modHk_out (f : Hk → Hk) : (c.modHk f).out = c.out := rfl
@[simp] theorem modHk_free (f : Hk → Hk) : (c.modHk f).free = c.free := rfl

@[simp] theorem modLoad_sys (f : Load → Load) : (c.modLoad f).sys = c.sys := rfl
@[simp] theorem modLoad_flt (f : Load → Load) : (c.modLoad f).flt = c.flt := rfl
@[simp] theorem modLoad_hk (f : Load → Load) : (c.modLoad f).hk = c.hk := rfl
@[simp] theorem modLoad_cal (f : Load → Load) : (c.modLoad f).cal = c.cal := rfl
@[simp] theorem modLoad_evr (f : Load → Load) : (c.modLoad f).evr = c.evr := rfl
@[simp] theorem modLoad_mbx (f : Load → Load) : (c.modLoad f).mbx = c.mbx := rfl
@[simp] theorem modLoad_boot (f : Load → Load) : (c.modLoad f).boot = c.boot := rfl
@[simp] theorem modLoad_pins (f : Load → Load) : (c.modLoad f).pins = c.pins := rfl
@[simp] theorem modLoad_side (f : Load → Load) : (c.modLoad f).side = c.side := rfl
@[simp] theorem modLoad_tick (f : Load → Load) : (c.modLoad f).tick = c.tick := rfl
@[simp] theorem modLoad_arr (f : Load → Load) : (c.modLoad f).arr = c.arr := rfl
@[simp] theorem modLoad_buf (f : Load → Load) : (c.modLoad f).buf = c.buf := rfl
@[simp] theorem modLoad_so (f : Load → Load) : (c.modLoad f).so = c.so := rfl
@[simp] theorem modLoad_vu (f : Load → Load) : (c.modLoad f).vu = c.vu := rfl
@[simp] theorem modLoad_fab (f : Load → Load) : (c.modLoad f).fab = c.fab := rfl
@[simp] theorem modLoad_rcp (f : Load → Load) : (c.modLoad f).rcp = c.rcp := rfl
@[simp] theorem modLoad_load (f : Load → Load) : (c.modLoad f).load = f c.load := rfl
@[simp] theorem modLoad_serve (f : Load → Load) : (c.modLoad f).serve = c.serve := rfl
@[simp] theorem modLoad_spk (f : Load → Load) : (c.modLoad f).spk = c.spk := rfl
@[simp] theorem modLoad_opt (f : Load → Load) : (c.modLoad f).opt = c.opt := rfl
@[simp] theorem modLoad_out (f : Load → Load) : (c.modLoad f).out = c.out := rfl
@[simp] theorem modLoad_free (f : Load → Load) : (c.modLoad f).free = c.free := rfl

@[simp] theorem modRcp_sys (f : Rcp → Rcp) : (c.modRcp f).sys = c.sys := rfl
@[simp] theorem modRcp_flt (f : Rcp → Rcp) : (c.modRcp f).flt = c.flt := rfl
@[simp] theorem modRcp_hk (f : Rcp → Rcp) : (c.modRcp f).hk = c.hk := rfl
@[simp] theorem modRcp_cal (f : Rcp → Rcp) : (c.modRcp f).cal = c.cal := rfl
@[simp] theorem modRcp_evr (f : Rcp → Rcp) : (c.modRcp f).evr = c.evr := rfl
@[simp] theorem modRcp_mbx (f : Rcp → Rcp) : (c.modRcp f).mbx = c.mbx := rfl
@[simp] theorem modRcp_boot (f : Rcp → Rcp) : (c.modRcp f).boot = c.boot := rfl
@[simp] theorem modRcp_pins (f : Rcp → Rcp) : (c.modRcp f).pins = c.pins := rfl
@[simp] theorem modRcp_side (f : Rcp → Rcp) : (c.modRcp f).side = c.side := rfl
@[simp] theorem modRcp_tick (f : Rcp → Rcp) : (c.modRcp f).tick = c.tick := rfl
@[simp] theorem modRcp_arr (f : Rcp → Rcp) : (c.modRcp f).arr = c.arr := rfl
@[simp] theorem modRcp_buf (f : Rcp → Rcp) : (c.modRcp f).buf = c.buf := rfl
@[simp] theorem modRcp_so (f : Rcp → Rcp) : (c.modRcp f).so = c.so := rfl
@[simp] theorem modRcp_vu (f : Rcp → Rcp) : (c.modRcp f).vu = c.vu := rfl
@[simp] theorem modRcp_fab (f : Rcp → Rcp) : (c.modRcp f).fab = c.fab := rfl
@[simp] theorem modRcp_rcp (f : Rcp → Rcp) : (c.modRcp f).rcp = f c.rcp := rfl
@[simp] theorem modRcp_load (f : Rcp → Rcp) : (c.modRcp f).load = c.load := rfl
@[simp] theorem modRcp_serve (f : Rcp → Rcp) : (c.modRcp f).serve = c.serve := rfl
@[simp] theorem modRcp_spk (f : Rcp → Rcp) : (c.modRcp f).spk = c.spk := rfl
@[simp] theorem modRcp_opt (f : Rcp → Rcp) : (c.modRcp f).opt = c.opt := rfl
@[simp] theorem modRcp_out (f : Rcp → Rcp) : (c.modRcp f).out = c.out := rfl
@[simp] theorem modRcp_free (f : Rcp → Rcp) : (c.modRcp f).free = c.free := rfl

@[simp] theorem modServe_sys (f : Serve → Serve) : (c.modServe f).sys = c.sys := rfl
@[simp] theorem modServe_flt (f : Serve → Serve) : (c.modServe f).flt = c.flt := rfl
@[simp] theorem modServe_hk (f : Serve → Serve) : (c.modServe f).hk = c.hk := rfl
@[simp] theorem modServe_cal (f : Serve → Serve) : (c.modServe f).cal = c.cal := rfl
@[simp] theorem modServe_evr (f : Serve → Serve) : (c.modServe f).evr = c.evr := rfl
@[simp] theorem modServe_mbx (f : Serve → Serve) : (c.modServe f).mbx = c.mbx := rfl
@[simp] theorem modServe_boot (f : Serve → Serve) : (c.modServe f).boot = c.boot := rfl
@[simp] theorem modServe_pins (f : Serve → Serve) : (c.modServe f).pins = c.pins := rfl
@[simp] theorem modServe_side (f : Serve → Serve) : (c.modServe f).side = c.side := rfl
@[simp] theorem modServe_tick (f : Serve → Serve) : (c.modServe f).tick = c.tick := rfl
@[simp] theorem modServe_arr (f : Serve → Serve) : (c.modServe f).arr = c.arr := rfl
@[simp] theorem modServe_buf (f : Serve → Serve) : (c.modServe f).buf = c.buf := rfl
@[simp] theorem modServe_so (f : Serve → Serve) : (c.modServe f).so = c.so := rfl
@[simp] theorem modServe_vu (f : Serve → Serve) : (c.modServe f).vu = c.vu := rfl
@[simp] theorem modServe_fab (f : Serve → Serve) : (c.modServe f).fab = c.fab := rfl
@[simp] theorem modServe_rcp (f : Serve → Serve) : (c.modServe f).rcp = c.rcp := rfl
@[simp] theorem modServe_load (f : Serve → Serve) : (c.modServe f).load = c.load := rfl
@[simp] theorem modServe_serve (f : Serve → Serve) : (c.modServe f).serve = f c.serve := rfl
@[simp] theorem modServe_spk (f : Serve → Serve) : (c.modServe f).spk = c.spk := rfl
@[simp] theorem modServe_opt (f : Serve → Serve) : (c.modServe f).opt = c.opt := rfl
@[simp] theorem modServe_out (f : Serve → Serve) : (c.modServe f).out = c.out := rfl
@[simp] theorem modServe_free (f : Serve → Serve) : (c.modServe f).free = c.free := rfl

@[simp] theorem modSector_sys (n : Nat) (f : Sector → Sector) : (c.modSector n f).sys = c.sys := rfl
@[simp] theorem modSector_flt (n : Nat) (f : Sector → Sector) : (c.modSector n f).flt = c.flt := rfl
@[simp] theorem modSector_hk (n : Nat) (f : Sector → Sector) : (c.modSector n f).hk = c.hk := rfl
@[simp] theorem modSector_cal (n : Nat) (f : Sector → Sector) : (c.modSector n f).cal = c.cal := rfl
@[simp] theorem modSector_evr (n : Nat) (f : Sector → Sector) : (c.modSector n f).evr = c.evr := rfl
@[simp] theorem modSector_mbx (n : Nat) (f : Sector → Sector) : (c.modSector n f).mbx = c.mbx := rfl
@[simp] theorem modSector_boot (n : Nat) (f : Sector → Sector) : (c.modSector n f).boot = c.boot := rfl
@[simp] theorem modSector_pins (n : Nat) (f : Sector → Sector) : (c.modSector n f).pins = c.pins := rfl
@[simp] theorem modSector_side (n : Nat) (f : Sector → Sector) : (c.modSector n f).side = c.side := rfl
@[simp] theorem modSector_tick (n : Nat) (f : Sector → Sector) : (c.modSector n f).tick = c.tick := rfl
@[simp] theorem modSector_buf (n : Nat) (f : Sector → Sector) : (c.modSector n f).buf = c.buf := rfl
@[simp] theorem modSector_so (n : Nat) (f : Sector → Sector) : (c.modSector n f).so = c.so := rfl
@[simp] theorem modSector_vu (n : Nat) (f : Sector → Sector) : (c.modSector n f).vu = c.vu := rfl
@[simp] theorem modSector_fab (n : Nat) (f : Sector → Sector) : (c.modSector n f).fab = c.fab := rfl
@[simp] theorem modSector_rcp (n : Nat) (f : Sector → Sector) : (c.modSector n f).rcp = c.rcp := rfl
@[simp] theorem modSector_load (n : Nat) (f : Sector → Sector) : (c.modSector n f).load = c.load := rfl
@[simp] theorem modSector_serve (n : Nat) (f : Sector → Sector) : (c.modSector n f).serve = c.serve := rfl
@[simp] theorem modSector_spk (n : Nat) (f : Sector → Sector) : (c.modSector n f).spk = c.spk := rfl
@[simp] theorem modSector_opt (n : Nat) (f : Sector → Sector) : (c.modSector n f).opt = c.opt := rfl
@[simp] theorem modSector_out (n : Nat) (f : Sector → Sector) : (c.modSector n f).out = c.out := rfl
@[simp] theorem modSector_free (n : Nat) (f : Sector → Sector) : (c.modSector n f).free = c.free := rfl

@[simp] theorem setArrOp_sys (t : TileIx) (a : ArrRef) (o : Option ArrOp) : (c.setArrOp t a o).sys = c.sys := rfl
@[simp] theorem setArrOp_flt (t : TileIx) (a : ArrRef) (o : Option ArrOp) : (c.setArrOp t a o).flt = c.flt := rfl
@[simp] theorem setArrOp_hk (t : TileIx) (a : ArrRef) (o : Option ArrOp) : (c.setArrOp t a o).hk = c.hk := rfl
@[simp] theorem setArrOp_cal (t : TileIx) (a : ArrRef) (o : Option ArrOp) : (c.setArrOp t a o).cal = c.cal := rfl
@[simp] theorem setArrOp_evr (t : TileIx) (a : ArrRef) (o : Option ArrOp) : (c.setArrOp t a o).evr = c.evr := rfl
@[simp] theorem setArrOp_mbx (t : TileIx) (a : ArrRef) (o : Option ArrOp) : (c.setArrOp t a o).mbx = c.mbx := rfl
@[simp] theorem setArrOp_boot (t : TileIx) (a : ArrRef) (o : Option ArrOp) : (c.setArrOp t a o).boot = c.boot := rfl
@[simp] theorem setArrOp_pins (t : TileIx) (a : ArrRef) (o : Option ArrOp) : (c.setArrOp t a o).pins = c.pins := rfl
@[simp] theorem setArrOp_side (t : TileIx) (a : ArrRef) (o : Option ArrOp) : (c.setArrOp t a o).side = c.side := rfl
@[simp] theorem setArrOp_tick (t : TileIx) (a : ArrRef) (o : Option ArrOp) : (c.setArrOp t a o).tick = c.tick := rfl
@[simp] theorem setArrOp_buf (t : TileIx) (a : ArrRef) (o : Option ArrOp) : (c.setArrOp t a o).buf = c.buf := rfl
@[simp] theorem setArrOp_so (t : TileIx) (a : ArrRef) (o : Option ArrOp) : (c.setArrOp t a o).so = c.so := rfl
@[simp] theorem setArrOp_vu (t : TileIx) (a : ArrRef) (o : Option ArrOp) : (c.setArrOp t a o).vu = c.vu := rfl
@[simp] theorem setArrOp_fab (t : TileIx) (a : ArrRef) (o : Option ArrOp) : (c.setArrOp t a o).fab = c.fab := rfl
@[simp] theorem setArrOp_rcp (t : TileIx) (a : ArrRef) (o : Option ArrOp) : (c.setArrOp t a o).rcp = c.rcp := rfl
@[simp] theorem setArrOp_load (t : TileIx) (a : ArrRef) (o : Option ArrOp) : (c.setArrOp t a o).load = c.load := rfl
@[simp] theorem setArrOp_serve (t : TileIx) (a : ArrRef) (o : Option ArrOp) : (c.setArrOp t a o).serve = c.serve := rfl
@[simp] theorem setArrOp_spk (t : TileIx) (a : ArrRef) (o : Option ArrOp) : (c.setArrOp t a o).spk = c.spk := rfl
@[simp] theorem setArrOp_opt (t : TileIx) (a : ArrRef) (o : Option ArrOp) : (c.setArrOp t a o).opt = c.opt := rfl
@[simp] theorem setArrOp_out (t : TileIx) (a : ArrRef) (o : Option ArrOp) : (c.setArrOp t a o).out = c.out := rfl
@[simp] theorem setArrOp_free (t : TileIx) (a : ArrRef) (o : Option ArrOp) : (c.setArrOp t a o).free = c.free := rfl

@[simp] theorem setCell_sys (t : TileIx) (n : Fin 17) (p : BitVec 2) (r : Nat) (x : BitVec 1024) : (c.setCell t n p r x).sys = c.sys := by unfold Chip.setCell; split <;> rfl
@[simp] theorem setCell_flt (t : TileIx) (n : Fin 17) (p : BitVec 2) (r : Nat) (x : BitVec 1024) : (c.setCell t n p r x).flt = c.flt := by unfold Chip.setCell; split <;> rfl
@[simp] theorem setCell_hk (t : TileIx) (n : Fin 17) (p : BitVec 2) (r : Nat) (x : BitVec 1024) : (c.setCell t n p r x).hk = c.hk := by unfold Chip.setCell; split <;> rfl
@[simp] theorem setCell_cal (t : TileIx) (n : Fin 17) (p : BitVec 2) (r : Nat) (x : BitVec 1024) : (c.setCell t n p r x).cal = c.cal := by unfold Chip.setCell; split <;> rfl
@[simp] theorem setCell_evr (t : TileIx) (n : Fin 17) (p : BitVec 2) (r : Nat) (x : BitVec 1024) : (c.setCell t n p r x).evr = c.evr := by unfold Chip.setCell; split <;> rfl
@[simp] theorem setCell_mbx (t : TileIx) (n : Fin 17) (p : BitVec 2) (r : Nat) (x : BitVec 1024) : (c.setCell t n p r x).mbx = c.mbx := by unfold Chip.setCell; split <;> rfl
@[simp] theorem setCell_boot (t : TileIx) (n : Fin 17) (p : BitVec 2) (r : Nat) (x : BitVec 1024) : (c.setCell t n p r x).boot = c.boot := by unfold Chip.setCell; split <;> rfl
@[simp] theorem setCell_pins (t : TileIx) (n : Fin 17) (p : BitVec 2) (r : Nat) (x : BitVec 1024) : (c.setCell t n p r x).pins = c.pins := by unfold Chip.setCell; split <;> rfl
@[simp] theorem setCell_side (t : TileIx) (n : Fin 17) (p : BitVec 2) (r : Nat) (x : BitVec 1024) : (c.setCell t n p r x).side = c.side := by unfold Chip.setCell; split <;> rfl
@[simp] theorem setCell_tick (t : TileIx) (n : Fin 17) (p : BitVec 2) (r : Nat) (x : BitVec 1024) : (c.setCell t n p r x).tick = c.tick := by unfold Chip.setCell; split <;> rfl
@[simp] theorem setCell_buf (t : TileIx) (n : Fin 17) (p : BitVec 2) (r : Nat) (x : BitVec 1024) : (c.setCell t n p r x).buf = c.buf := by unfold Chip.setCell; split <;> rfl
@[simp] theorem setCell_so (t : TileIx) (n : Fin 17) (p : BitVec 2) (r : Nat) (x : BitVec 1024) : (c.setCell t n p r x).so = c.so := by unfold Chip.setCell; split <;> rfl
@[simp] theorem setCell_vu (t : TileIx) (n : Fin 17) (p : BitVec 2) (r : Nat) (x : BitVec 1024) : (c.setCell t n p r x).vu = c.vu := by unfold Chip.setCell; split <;> rfl
@[simp] theorem setCell_fab (t : TileIx) (n : Fin 17) (p : BitVec 2) (r : Nat) (x : BitVec 1024) : (c.setCell t n p r x).fab = c.fab := by unfold Chip.setCell; split <;> rfl
@[simp] theorem setCell_rcp (t : TileIx) (n : Fin 17) (p : BitVec 2) (r : Nat) (x : BitVec 1024) : (c.setCell t n p r x).rcp = c.rcp := by unfold Chip.setCell; split <;> rfl
@[simp] theorem setCell_load (t : TileIx) (n : Fin 17) (p : BitVec 2) (r : Nat) (x : BitVec 1024) : (c.setCell t n p r x).load = c.load := by unfold Chip.setCell; split <;> rfl
@[simp] theorem setCell_serve (t : TileIx) (n : Fin 17) (p : BitVec 2) (r : Nat) (x : BitVec 1024) : (c.setCell t n p r x).serve = c.serve := by unfold Chip.setCell; split <;> rfl
@[simp] theorem setCell_spk (t : TileIx) (n : Fin 17) (p : BitVec 2) (r : Nat) (x : BitVec 1024) : (c.setCell t n p r x).spk = c.spk := by unfold Chip.setCell; split <;> rfl
@[simp] theorem setCell_opt (t : TileIx) (n : Fin 17) (p : BitVec 2) (r : Nat) (x : BitVec 1024) : (c.setCell t n p r x).opt = c.opt := by unfold Chip.setCell; split <;> rfl
@[simp] theorem setCell_out (t : TileIx) (n : Fin 17) (p : BitVec 2) (r : Nat) (x : BitVec 1024) : (c.setCell t n p r x).out = c.out := by unfold Chip.setCell; split <;> rfl
@[simp] theorem setCell_free (t : TileIx) (n : Fin 17) (p : BitVec 2) (r : Nat) (x : BitVec 1024) : (c.setCell t n p r x).free = c.free := by unfold Chip.setCell; split <;> rfl

@[simp] theorem setSRow_sys (t : TileIx) (a : Fin 9) (r : Nat) (x : BitVec 1024) : (c.setSRow t a r x).sys = c.sys := by unfold Chip.setSRow; split <;> rfl
@[simp] theorem setSRow_flt (t : TileIx) (a : Fin 9) (r : Nat) (x : BitVec 1024) : (c.setSRow t a r x).flt = c.flt := by unfold Chip.setSRow; split <;> rfl
@[simp] theorem setSRow_hk (t : TileIx) (a : Fin 9) (r : Nat) (x : BitVec 1024) : (c.setSRow t a r x).hk = c.hk := by unfold Chip.setSRow; split <;> rfl
@[simp] theorem setSRow_cal (t : TileIx) (a : Fin 9) (r : Nat) (x : BitVec 1024) : (c.setSRow t a r x).cal = c.cal := by unfold Chip.setSRow; split <;> rfl
@[simp] theorem setSRow_evr (t : TileIx) (a : Fin 9) (r : Nat) (x : BitVec 1024) : (c.setSRow t a r x).evr = c.evr := by unfold Chip.setSRow; split <;> rfl
@[simp] theorem setSRow_mbx (t : TileIx) (a : Fin 9) (r : Nat) (x : BitVec 1024) : (c.setSRow t a r x).mbx = c.mbx := by unfold Chip.setSRow; split <;> rfl
@[simp] theorem setSRow_boot (t : TileIx) (a : Fin 9) (r : Nat) (x : BitVec 1024) : (c.setSRow t a r x).boot = c.boot := by unfold Chip.setSRow; split <;> rfl
@[simp] theorem setSRow_pins (t : TileIx) (a : Fin 9) (r : Nat) (x : BitVec 1024) : (c.setSRow t a r x).pins = c.pins := by unfold Chip.setSRow; split <;> rfl
@[simp] theorem setSRow_side (t : TileIx) (a : Fin 9) (r : Nat) (x : BitVec 1024) : (c.setSRow t a r x).side = c.side := by unfold Chip.setSRow; split <;> rfl
@[simp] theorem setSRow_tick (t : TileIx) (a : Fin 9) (r : Nat) (x : BitVec 1024) : (c.setSRow t a r x).tick = c.tick := by unfold Chip.setSRow; split <;> rfl
@[simp] theorem setSRow_buf (t : TileIx) (a : Fin 9) (r : Nat) (x : BitVec 1024) : (c.setSRow t a r x).buf = c.buf := by unfold Chip.setSRow; split <;> rfl
@[simp] theorem setSRow_so (t : TileIx) (a : Fin 9) (r : Nat) (x : BitVec 1024) : (c.setSRow t a r x).so = c.so := by unfold Chip.setSRow; split <;> rfl
@[simp] theorem setSRow_vu (t : TileIx) (a : Fin 9) (r : Nat) (x : BitVec 1024) : (c.setSRow t a r x).vu = c.vu := by unfold Chip.setSRow; split <;> rfl
@[simp] theorem setSRow_fab (t : TileIx) (a : Fin 9) (r : Nat) (x : BitVec 1024) : (c.setSRow t a r x).fab = c.fab := by unfold Chip.setSRow; split <;> rfl
@[simp] theorem setSRow_rcp (t : TileIx) (a : Fin 9) (r : Nat) (x : BitVec 1024) : (c.setSRow t a r x).rcp = c.rcp := by unfold Chip.setSRow; split <;> rfl
@[simp] theorem setSRow_load (t : TileIx) (a : Fin 9) (r : Nat) (x : BitVec 1024) : (c.setSRow t a r x).load = c.load := by unfold Chip.setSRow; split <;> rfl
@[simp] theorem setSRow_serve (t : TileIx) (a : Fin 9) (r : Nat) (x : BitVec 1024) : (c.setSRow t a r x).serve = c.serve := by unfold Chip.setSRow; split <;> rfl
@[simp] theorem setSRow_spk (t : TileIx) (a : Fin 9) (r : Nat) (x : BitVec 1024) : (c.setSRow t a r x).spk = c.spk := by unfold Chip.setSRow; split <;> rfl
@[simp] theorem setSRow_opt (t : TileIx) (a : Fin 9) (r : Nat) (x : BitVec 1024) : (c.setSRow t a r x).opt = c.opt := by unfold Chip.setSRow; split <;> rfl
@[simp] theorem setSRow_out (t : TileIx) (a : Fin 9) (r : Nat) (x : BitVec 1024) : (c.setSRow t a r x).out = c.out := by unfold Chip.setSRow; split <;> rfl
@[simp] theorem setSRow_free (t : TileIx) (a : Fin 9) (r : Nat) (x : BitVec 1024) : (c.setSRow t a r x).free = c.free := by unfold Chip.setSRow; split <;> rfl

@[simp] theorem setAcc_sys (t : TileIx) (i : Nat) (x : Acc) : (c.setAcc t i x).sys = c.sys := rfl
@[simp] theorem setAcc_flt (t : TileIx) (i : Nat) (x : Acc) : (c.setAcc t i x).flt = c.flt := rfl
@[simp] theorem setAcc_hk (t : TileIx) (i : Nat) (x : Acc) : (c.setAcc t i x).hk = c.hk := rfl
@[simp] theorem setAcc_cal (t : TileIx) (i : Nat) (x : Acc) : (c.setAcc t i x).cal = c.cal := rfl
@[simp] theorem setAcc_evr (t : TileIx) (i : Nat) (x : Acc) : (c.setAcc t i x).evr = c.evr := rfl
@[simp] theorem setAcc_mbx (t : TileIx) (i : Nat) (x : Acc) : (c.setAcc t i x).mbx = c.mbx := rfl
@[simp] theorem setAcc_boot (t : TileIx) (i : Nat) (x : Acc) : (c.setAcc t i x).boot = c.boot := rfl
@[simp] theorem setAcc_pins (t : TileIx) (i : Nat) (x : Acc) : (c.setAcc t i x).pins = c.pins := rfl
@[simp] theorem setAcc_side (t : TileIx) (i : Nat) (x : Acc) : (c.setAcc t i x).side = c.side := rfl
@[simp] theorem setAcc_tick (t : TileIx) (i : Nat) (x : Acc) : (c.setAcc t i x).tick = c.tick := rfl
@[simp] theorem setAcc_arr (t : TileIx) (i : Nat) (x : Acc) : (c.setAcc t i x).arr = c.arr := rfl
@[simp] theorem setAcc_buf (t : TileIx) (i : Nat) (x : Acc) : (c.setAcc t i x).buf = c.buf := rfl
@[simp] theorem setAcc_so (t : TileIx) (i : Nat) (x : Acc) : (c.setAcc t i x).so = c.so := rfl
@[simp] theorem setAcc_fab (t : TileIx) (i : Nat) (x : Acc) : (c.setAcc t i x).fab = c.fab := rfl
@[simp] theorem setAcc_rcp (t : TileIx) (i : Nat) (x : Acc) : (c.setAcc t i x).rcp = c.rcp := rfl
@[simp] theorem setAcc_load (t : TileIx) (i : Nat) (x : Acc) : (c.setAcc t i x).load = c.load := rfl
@[simp] theorem setAcc_serve (t : TileIx) (i : Nat) (x : Acc) : (c.setAcc t i x).serve = c.serve := rfl
@[simp] theorem setAcc_spk (t : TileIx) (i : Nat) (x : Acc) : (c.setAcc t i x).spk = c.spk := rfl
@[simp] theorem setAcc_opt (t : TileIx) (i : Nat) (x : Acc) : (c.setAcc t i x).opt = c.opt := rfl
@[simp] theorem setAcc_out (t : TileIx) (i : Nat) (x : Acc) : (c.setAcc t i x).out = c.out := rfl
@[simp] theorem setAcc_free (t : TileIx) (i : Nat) (x : Acc) : (c.setAcc t i x).free = c.free := rfl

@[simp] theorem setVreg_sys (t : TileIx) (r : BitVec 4) (v : VecVal) : (c.setVreg t r v).sys = c.sys := rfl
@[simp] theorem setVreg_flt (t : TileIx) (r : BitVec 4) (v : VecVal) : (c.setVreg t r v).flt = c.flt := rfl
@[simp] theorem setVreg_hk (t : TileIx) (r : BitVec 4) (v : VecVal) : (c.setVreg t r v).hk = c.hk := rfl
@[simp] theorem setVreg_cal (t : TileIx) (r : BitVec 4) (v : VecVal) : (c.setVreg t r v).cal = c.cal := rfl
@[simp] theorem setVreg_evr (t : TileIx) (r : BitVec 4) (v : VecVal) : (c.setVreg t r v).evr = c.evr := rfl
@[simp] theorem setVreg_mbx (t : TileIx) (r : BitVec 4) (v : VecVal) : (c.setVreg t r v).mbx = c.mbx := rfl
@[simp] theorem setVreg_boot (t : TileIx) (r : BitVec 4) (v : VecVal) : (c.setVreg t r v).boot = c.boot := rfl
@[simp] theorem setVreg_pins (t : TileIx) (r : BitVec 4) (v : VecVal) : (c.setVreg t r v).pins = c.pins := rfl
@[simp] theorem setVreg_side (t : TileIx) (r : BitVec 4) (v : VecVal) : (c.setVreg t r v).side = c.side := rfl
@[simp] theorem setVreg_tick (t : TileIx) (r : BitVec 4) (v : VecVal) : (c.setVreg t r v).tick = c.tick := rfl
@[simp] theorem setVreg_arr (t : TileIx) (r : BitVec 4) (v : VecVal) : (c.setVreg t r v).arr = c.arr := rfl
@[simp] theorem setVreg_buf (t : TileIx) (r : BitVec 4) (v : VecVal) : (c.setVreg t r v).buf = c.buf := rfl
@[simp] theorem setVreg_so (t : TileIx) (r : BitVec 4) (v : VecVal) : (c.setVreg t r v).so = c.so := rfl
@[simp] theorem setVreg_fab (t : TileIx) (r : BitVec 4) (v : VecVal) : (c.setVreg t r v).fab = c.fab := rfl
@[simp] theorem setVreg_rcp (t : TileIx) (r : BitVec 4) (v : VecVal) : (c.setVreg t r v).rcp = c.rcp := rfl
@[simp] theorem setVreg_load (t : TileIx) (r : BitVec 4) (v : VecVal) : (c.setVreg t r v).load = c.load := rfl
@[simp] theorem setVreg_serve (t : TileIx) (r : BitVec 4) (v : VecVal) : (c.setVreg t r v).serve = c.serve := rfl
@[simp] theorem setVreg_spk (t : TileIx) (r : BitVec 4) (v : VecVal) : (c.setVreg t r v).spk = c.spk := rfl
@[simp] theorem setVreg_opt (t : TileIx) (r : BitVec 4) (v : VecVal) : (c.setVreg t r v).opt = c.opt := rfl
@[simp] theorem setVreg_out (t : TileIx) (r : BitVec 4) (v : VecVal) : (c.setVreg t r v).out = c.out := rfl
@[simp] theorem setVreg_free (t : TileIx) (r : BitVec 4) (v : VecVal) : (c.setVreg t r v).free = c.free := rfl

@[simp] theorem modPort_sys (p : PortIx) (f : Port → Port) : (c.modPort p f).sys = c.sys := rfl
@[simp] theorem modPort_flt (p : PortIx) (f : Port → Port) : (c.modPort p f).flt = c.flt := rfl
@[simp] theorem modPort_hk (p : PortIx) (f : Port → Port) : (c.modPort p f).hk = c.hk := rfl
@[simp] theorem modPort_cal (p : PortIx) (f : Port → Port) : (c.modPort p f).cal = c.cal := rfl
@[simp] theorem modPort_evr (p : PortIx) (f : Port → Port) : (c.modPort p f).evr = c.evr := rfl
@[simp] theorem modPort_mbx (p : PortIx) (f : Port → Port) : (c.modPort p f).mbx = c.mbx := rfl
@[simp] theorem modPort_boot (p : PortIx) (f : Port → Port) : (c.modPort p f).boot = c.boot := rfl
@[simp] theorem modPort_pins (p : PortIx) (f : Port → Port) : (c.modPort p f).pins = c.pins := rfl
@[simp] theorem modPort_side (p : PortIx) (f : Port → Port) : (c.modPort p f).side = c.side := rfl
@[simp] theorem modPort_tick (p : PortIx) (f : Port → Port) : (c.modPort p f).tick = c.tick := rfl
@[simp] theorem modPort_arr (p : PortIx) (f : Port → Port) : (c.modPort p f).arr = c.arr := rfl
@[simp] theorem modPort_buf (p : PortIx) (f : Port → Port) : (c.modPort p f).buf = c.buf := rfl
@[simp] theorem modPort_so (p : PortIx) (f : Port → Port) : (c.modPort p f).so = c.so := rfl
@[simp] theorem modPort_vu (p : PortIx) (f : Port → Port) : (c.modPort p f).vu = c.vu := rfl
@[simp] theorem modPort_fab (p : PortIx) (f : Port → Port) : (c.modPort p f).fab = c.fab := rfl
@[simp] theorem modPort_rcp (p : PortIx) (f : Port → Port) : (c.modPort p f).rcp = c.rcp := rfl
@[simp] theorem modPort_load (p : PortIx) (f : Port → Port) : (c.modPort p f).load = c.load := rfl
@[simp] theorem modPort_serve (p : PortIx) (f : Port → Port) : (c.modPort p f).serve = c.serve := rfl
@[simp] theorem modPort_spk (p : PortIx) (f : Port → Port) : (c.modPort p f).spk = c.spk := rfl
@[simp] theorem modPort_out (p : PortIx) (f : Port → Port) : (c.modPort p f).out = c.out := rfl
@[simp] theorem modPort_free (p : PortIx) (f : Port → Port) : (c.modPort p f).free = c.free := rfl

@[simp] theorem modTileArr_sys (t : TileIx) (f : TileArr → TileArr) : (c.modTileArr t f).sys = c.sys := rfl
@[simp] theorem modTileArr_flt (t : TileIx) (f : TileArr → TileArr) : (c.modTileArr t f).flt = c.flt := rfl
@[simp] theorem modTileArr_hk (t : TileIx) (f : TileArr → TileArr) : (c.modTileArr t f).hk = c.hk := rfl
@[simp] theorem modTileArr_cal (t : TileIx) (f : TileArr → TileArr) : (c.modTileArr t f).cal = c.cal := rfl
@[simp] theorem modTileArr_evr (t : TileIx) (f : TileArr → TileArr) : (c.modTileArr t f).evr = c.evr := rfl
@[simp] theorem modTileArr_mbx (t : TileIx) (f : TileArr → TileArr) : (c.modTileArr t f).mbx = c.mbx := rfl
@[simp] theorem modTileArr_boot (t : TileIx) (f : TileArr → TileArr) : (c.modTileArr t f).boot = c.boot := rfl
@[simp] theorem modTileArr_pins (t : TileIx) (f : TileArr → TileArr) : (c.modTileArr t f).pins = c.pins := rfl
@[simp] theorem modTileArr_side (t : TileIx) (f : TileArr → TileArr) : (c.modTileArr t f).side = c.side := rfl
@[simp] theorem modTileArr_tick (t : TileIx) (f : TileArr → TileArr) : (c.modTileArr t f).tick = c.tick := rfl
@[simp] theorem modTileArr_buf (t : TileIx) (f : TileArr → TileArr) : (c.modTileArr t f).buf = c.buf := rfl
@[simp] theorem modTileArr_so (t : TileIx) (f : TileArr → TileArr) : (c.modTileArr t f).so = c.so := rfl
@[simp] theorem modTileArr_vu (t : TileIx) (f : TileArr → TileArr) : (c.modTileArr t f).vu = c.vu := rfl
@[simp] theorem modTileArr_fab (t : TileIx) (f : TileArr → TileArr) : (c.modTileArr t f).fab = c.fab := rfl
@[simp] theorem modTileArr_rcp (t : TileIx) (f : TileArr → TileArr) : (c.modTileArr t f).rcp = c.rcp := rfl
@[simp] theorem modTileArr_load (t : TileIx) (f : TileArr → TileArr) : (c.modTileArr t f).load = c.load := rfl
@[simp] theorem modTileArr_serve (t : TileIx) (f : TileArr → TileArr) : (c.modTileArr t f).serve = c.serve := rfl
@[simp] theorem modTileArr_spk (t : TileIx) (f : TileArr → TileArr) : (c.modTileArr t f).spk = c.spk := rfl
@[simp] theorem modTileArr_opt (t : TileIx) (f : TileArr → TileArr) : (c.modTileArr t f).opt = c.opt := rfl
@[simp] theorem modTileArr_out (t : TileIx) (f : TileArr → TileArr) : (c.modTileArr t f).out = c.out := rfl
@[simp] theorem modTileArr_free (t : TileIx) (f : TileArr → TileArr) : (c.modTileArr t f).free = c.free := rfl

@[simp] theorem modMq_sys (q : QueueIx) (f : MbxQueue → MbxQueue) : (c.modMq q f).sys = c.sys := rfl
@[simp] theorem modMq_flt (q : QueueIx) (f : MbxQueue → MbxQueue) : (c.modMq q f).flt = c.flt := rfl
@[simp] theorem modMq_hk (q : QueueIx) (f : MbxQueue → MbxQueue) : (c.modMq q f).hk = c.hk := rfl
@[simp] theorem modMq_cal (q : QueueIx) (f : MbxQueue → MbxQueue) : (c.modMq q f).cal = c.cal := rfl
@[simp] theorem modMq_evr (q : QueueIx) (f : MbxQueue → MbxQueue) : (c.modMq q f).evr = c.evr := rfl
@[simp] theorem modMq_boot (q : QueueIx) (f : MbxQueue → MbxQueue) : (c.modMq q f).boot = c.boot := rfl
@[simp] theorem modMq_pins (q : QueueIx) (f : MbxQueue → MbxQueue) : (c.modMq q f).pins = c.pins := rfl
@[simp] theorem modMq_side (q : QueueIx) (f : MbxQueue → MbxQueue) : (c.modMq q f).side = c.side := rfl
@[simp] theorem modMq_tick (q : QueueIx) (f : MbxQueue → MbxQueue) : (c.modMq q f).tick = c.tick := rfl
@[simp] theorem modMq_arr (q : QueueIx) (f : MbxQueue → MbxQueue) : (c.modMq q f).arr = c.arr := rfl
@[simp] theorem modMq_buf (q : QueueIx) (f : MbxQueue → MbxQueue) : (c.modMq q f).buf = c.buf := rfl
@[simp] theorem modMq_so (q : QueueIx) (f : MbxQueue → MbxQueue) : (c.modMq q f).so = c.so := rfl
@[simp] theorem modMq_vu (q : QueueIx) (f : MbxQueue → MbxQueue) : (c.modMq q f).vu = c.vu := rfl
@[simp] theorem modMq_fab (q : QueueIx) (f : MbxQueue → MbxQueue) : (c.modMq q f).fab = c.fab := rfl
@[simp] theorem modMq_rcp (q : QueueIx) (f : MbxQueue → MbxQueue) : (c.modMq q f).rcp = c.rcp := rfl
@[simp] theorem modMq_load (q : QueueIx) (f : MbxQueue → MbxQueue) : (c.modMq q f).load = c.load := rfl
@[simp] theorem modMq_serve (q : QueueIx) (f : MbxQueue → MbxQueue) : (c.modMq q f).serve = c.serve := rfl
@[simp] theorem modMq_spk (q : QueueIx) (f : MbxQueue → MbxQueue) : (c.modMq q f).spk = c.spk := rfl
@[simp] theorem modMq_opt (q : QueueIx) (f : MbxQueue → MbxQueue) : (c.modMq q f).opt = c.opt := rfl
@[simp] theorem modMq_out (q : QueueIx) (f : MbxQueue → MbxQueue) : (c.modMq q f).out = c.out := rfl
@[simp] theorem modMq_free (q : QueueIx) (f : MbxQueue → MbxQueue) : (c.modMq q f).free = c.free := rfl

@[simp] theorem modFlt_sys (f : Flt → Flt) : (c.modFlt f).sys = c.sys := rfl
@[simp] theorem modFlt_flt (f : Flt → Flt) : (c.modFlt f).flt = f c.flt := rfl
@[simp] theorem modFlt_hk (f : Flt → Flt) : (c.modFlt f).hk = c.hk := rfl
@[simp] theorem modFlt_cal (f : Flt → Flt) : (c.modFlt f).cal = c.cal := rfl
@[simp] theorem modFlt_evr (f : Flt → Flt) : (c.modFlt f).evr = c.evr := rfl
@[simp] theorem modFlt_mbx (f : Flt → Flt) : (c.modFlt f).mbx = c.mbx := rfl
@[simp] theorem modFlt_boot (f : Flt → Flt) : (c.modFlt f).boot = c.boot := rfl
@[simp] theorem modFlt_pins (f : Flt → Flt) : (c.modFlt f).pins = c.pins := rfl
@[simp] theorem modFlt_side (f : Flt → Flt) : (c.modFlt f).side = c.side := rfl
@[simp] theorem modFlt_tick (f : Flt → Flt) : (c.modFlt f).tick = c.tick := rfl
@[simp] theorem modFlt_arr (f : Flt → Flt) : (c.modFlt f).arr = c.arr := rfl
@[simp] theorem modFlt_buf (f : Flt → Flt) : (c.modFlt f).buf = c.buf := rfl
@[simp] theorem modFlt_so (f : Flt → Flt) : (c.modFlt f).so = c.so := rfl
@[simp] theorem modFlt_vu (f : Flt → Flt) : (c.modFlt f).vu = c.vu := rfl
@[simp] theorem modFlt_fab (f : Flt → Flt) : (c.modFlt f).fab = c.fab := rfl
@[simp] theorem modFlt_rcp (f : Flt → Flt) : (c.modFlt f).rcp = c.rcp := rfl
@[simp] theorem modFlt_load (f : Flt → Flt) : (c.modFlt f).load = c.load := rfl
@[simp] theorem modFlt_serve (f : Flt → Flt) : (c.modFlt f).serve = c.serve := rfl
@[simp] theorem modFlt_spk (f : Flt → Flt) : (c.modFlt f).spk = c.spk := rfl
@[simp] theorem modFlt_opt (f : Flt → Flt) : (c.modFlt f).opt = c.opt := rfl
@[simp] theorem modFlt_out (f : Flt → Flt) : (c.modFlt f).out = c.out := rfl
@[simp] theorem modFlt_free (f : Flt → Flt) : (c.modFlt f).free = c.free := rfl

@[simp] theorem modEvr_sys (f : Evr → Evr) : (c.modEvr f).sys = c.sys := rfl
@[simp] theorem modEvr_flt (f : Evr → Evr) : (c.modEvr f).flt = c.flt := rfl
@[simp] theorem modEvr_hk (f : Evr → Evr) : (c.modEvr f).hk = c.hk := rfl
@[simp] theorem modEvr_cal (f : Evr → Evr) : (c.modEvr f).cal = c.cal := rfl
@[simp] theorem modEvr_evr (f : Evr → Evr) : (c.modEvr f).evr = f c.evr := rfl
@[simp] theorem modEvr_mbx (f : Evr → Evr) : (c.modEvr f).mbx = c.mbx := rfl
@[simp] theorem modEvr_boot (f : Evr → Evr) : (c.modEvr f).boot = c.boot := rfl
@[simp] theorem modEvr_pins (f : Evr → Evr) : (c.modEvr f).pins = c.pins := rfl
@[simp] theorem modEvr_side (f : Evr → Evr) : (c.modEvr f).side = c.side := rfl
@[simp] theorem modEvr_tick (f : Evr → Evr) : (c.modEvr f).tick = c.tick := rfl
@[simp] theorem modEvr_arr (f : Evr → Evr) : (c.modEvr f).arr = c.arr := rfl
@[simp] theorem modEvr_buf (f : Evr → Evr) : (c.modEvr f).buf = c.buf := rfl
@[simp] theorem modEvr_so (f : Evr → Evr) : (c.modEvr f).so = c.so := rfl
@[simp] theorem modEvr_vu (f : Evr → Evr) : (c.modEvr f).vu = c.vu := rfl
@[simp] theorem modEvr_fab (f : Evr → Evr) : (c.modEvr f).fab = c.fab := rfl
@[simp] theorem modEvr_rcp (f : Evr → Evr) : (c.modEvr f).rcp = c.rcp := rfl
@[simp] theorem modEvr_load (f : Evr → Evr) : (c.modEvr f).load = c.load := rfl
@[simp] theorem modEvr_serve (f : Evr → Evr) : (c.modEvr f).serve = c.serve := rfl
@[simp] theorem modEvr_spk (f : Evr → Evr) : (c.modEvr f).spk = c.spk := rfl
@[simp] theorem modEvr_opt (f : Evr → Evr) : (c.modEvr f).opt = c.opt := rfl
@[simp] theorem modEvr_out (f : Evr → Evr) : (c.modEvr f).out = c.out := rfl
@[simp] theorem modEvr_free (f : Evr → Evr) : (c.modEvr f).free = c.free := rfl

@[simp] theorem setSo_sys (i : SoIx) (o : SyncObj) : (c.setSo i o).sys = c.sys := rfl
@[simp] theorem setSo_flt (i : SoIx) (o : SyncObj) : (c.setSo i o).flt = c.flt := rfl
@[simp] theorem setSo_hk (i : SoIx) (o : SyncObj) : (c.setSo i o).hk = c.hk := rfl
@[simp] theorem setSo_cal (i : SoIx) (o : SyncObj) : (c.setSo i o).cal = c.cal := rfl
@[simp] theorem setSo_evr (i : SoIx) (o : SyncObj) : (c.setSo i o).evr = c.evr := rfl
@[simp] theorem setSo_mbx (i : SoIx) (o : SyncObj) : (c.setSo i o).mbx = c.mbx := rfl
@[simp] theorem setSo_boot (i : SoIx) (o : SyncObj) : (c.setSo i o).boot = c.boot := rfl
@[simp] theorem setSo_pins (i : SoIx) (o : SyncObj) : (c.setSo i o).pins = c.pins := rfl
@[simp] theorem setSo_side (i : SoIx) (o : SyncObj) : (c.setSo i o).side = c.side := rfl
@[simp] theorem setSo_tick (i : SoIx) (o : SyncObj) : (c.setSo i o).tick = c.tick := rfl
@[simp] theorem setSo_arr (i : SoIx) (o : SyncObj) : (c.setSo i o).arr = c.arr := rfl
@[simp] theorem setSo_buf (i : SoIx) (o : SyncObj) : (c.setSo i o).buf = c.buf := rfl
@[simp] theorem setSo_vu (i : SoIx) (o : SyncObj) : (c.setSo i o).vu = c.vu := rfl
@[simp] theorem setSo_fab (i : SoIx) (o : SyncObj) : (c.setSo i o).fab = c.fab := rfl
@[simp] theorem setSo_rcp (i : SoIx) (o : SyncObj) : (c.setSo i o).rcp = c.rcp := rfl
@[simp] theorem setSo_load (i : SoIx) (o : SyncObj) : (c.setSo i o).load = c.load := rfl
@[simp] theorem setSo_serve (i : SoIx) (o : SyncObj) : (c.setSo i o).serve = c.serve := rfl
@[simp] theorem setSo_spk (i : SoIx) (o : SyncObj) : (c.setSo i o).spk = c.spk := rfl
@[simp] theorem setSo_opt (i : SoIx) (o : SyncObj) : (c.setSo i o).opt = c.opt := rfl
@[simp] theorem setSo_out (i : SoIx) (o : SyncObj) : (c.setSo i o).out = c.out := rfl
@[simp] theorem setSo_free (i : SoIx) (o : SyncObj) : (c.setSo i o).free = c.free := rfl

@[simp] theorem port_modPort_same (p : PortIx) (f : Port → Port) : (c.modPort p f).port p = f (c.port p) := by
  simp [Chip.port, Chip.modPort]

theorem port_modPort_other (p r : PortIx) (f : Port → Port) (h : r ≠ p) : (c.modPort p f).port r = c.port r := by
  have : r.toNat ≠ p.toNat := fun e => h (BitVec.eq_of_toNat_eq e)
  simp [Chip.port, Chip.modPort, sget_smod_other _ _ _ _ _ this]

@[simp] theorem mq_modMq_same (q : QueueIx) (f : MbxQueue → MbxQueue) : (c.modMq q f).mq q = f (c.mq q) := by
  simp [Chip.mq, Chip.modMq]

theorem mq_modMq_other (q r : QueueIx) (f : MbxQueue → MbxQueue) (h : r ≠ q) : (c.modMq q f).mq r = c.mq r := by
  have : r.toNat ≠ q.toNat := fun e => h (BitVec.eq_of_toNat_eq e)
  simp [Chip.mq, Chip.modMq, sget_smod_other _ _ _ _ _ this]

@[simp] theorem tileArr_modTileArr_same (t : TileIx) (f : TileArr → TileArr) :
    (c.modTileArr t f).tileArr t = f (c.tileArr t) := by simp [Chip.tileArr, Chip.modTileArr]

theorem tileArr_modTileArr_other (t u : TileIx) (f : TileArr → TileArr) (h : u ≠ t) :
    (c.modTileArr t f).tileArr u = c.tileArr u := by
  have : u.toNat ≠ t.toNat := fun e => h (BitVec.eq_of_toNat_eq e)
  simp [Chip.tileArr, Chip.modTileArr, sget_smod_other _ _ _ _ _ this]

theorem bufKey_inj {t u : TileIx} {w v : WordIx} (h : bufKey t w = bufKey u v) : t = u ∧ w = v := by
  have a := w.isLt
  have b := v.isLt
  unfold bufKey at h
  exact ⟨BitVec.eq_of_toNat_eq (by omega), BitVec.eq_of_toNat_eq (by omega)⟩

@[simp] theorem bufWord_bufStore_same (t : TileIx) (w : WordIx) (x : BufWord) : (c.bufStore t w x).bufWord t w = x := by
  simp [Chip.bufWord, Chip.bufStore]

theorem bufWord_bufStore_other (t u : TileIx) (w v : WordIx) (x : BufWord) (h : ¬ (u = t ∧ v = w)) :
    (c.bufStore t w x).bufWord u v = c.bufWord u v := by
  have : bufKey u v ≠ bufKey t w := fun e => h (bufKey_inj e)
  simp [Chip.bufWord, Chip.bufStore, sget_sset_other _ _ _ _ _ this]

@[simp] theorem soObj_setSo_same (i : SoIx) (o : SyncObj) : (c.setSo i o).soObj i = o := by
  simp [Chip.soObj, Chip.setSo]

theorem soObj_setSo_other (i j : SoIx) (o : SyncObj) (h : j ≠ i) : (c.setSo i o).soObj j = c.soObj j := by
  have : j.toNat ≠ i.toNat := fun e => h (BitVec.eq_of_toNat_eq e)
  simp [Chip.soObj, Chip.setSo, sget_sset_other _ _ _ _ _ this]

end Sys2Proof.Laws
end

