-- ==== Sys2Proof/Laws/Frames.lean ====
section
/-! SUPPORT. What each shared operation can change: one frame lemma for each, composed from those it calls. -/

namespace Sys2Proof.Laws

open Sys2Proof.Machine

theorem only_refl (ps : List Part) (c : Chip) : c.Only ps c := fun p _ => by cases p <;> rfl

theorem only_trans {ps : List Part} {a b c : Chip} (h : a.Only ps b) (k : b.Only ps c) : a.Only ps c := by
  intro p hp
  have x := h p hp
  have y := k p hp
  cases p <;> simp_all [Part.same]

theorem only_mono {ps qs : List Part} {a b : Chip} (h : a.Only ps b) (s : ∀ p ∈ ps, p ∈ qs := by decide) : a.Only qs b :=
  fun p hp => h p fun m => hp (s p m)

/-- One change after another, the second within the parts of the whole. -/
theorem only_then {ps qs rs : List Part} {a b c : Chip} (h : a.Only ps b) (k : b.Only qs c)
    (s : ∀ p ∈ ps, p ∈ rs := by decide) (t : ∀ p ∈ qs, p ∈ rs := by decide) : a.Only rs c :=
  only_trans (only_mono h s) (only_mono k t)

/-- The last change, within the parts of the whole, after the others. -/
theorem only_after {ps qs : List Part} {a b c : Chip} (k : b.Only qs c) (h : a.Only ps b)
    (t : ∀ p ∈ qs, p ∈ ps := by decide) : a.Only ps c := only_trans h (only_mono k t)

theorem only_ite {ps : List Part} {a b d : Chip} (p : Prop) [Decidable p] (h : a.Only ps b) (k : a.Only ps d) :
    a.Only ps (if p then b else d) := by split <;> assumption

theorem only_foldl {α : Type} {ps : List Part} {f : Chip → α → Chip} (h : ∀ (c : Chip) (x : α), c.Only ps (f c x)) (l : List α) (c : Chip) :
    c.Only ps (l.foldl f c) := by
  induction l generalizing c with
  | nil => exact only_refl ps c
  | cons x l ih => exact only_trans (h c x) (ih _)

theorem emit_only (c : Chip) (o : Output) : c.Only [.out] (c.emit o) := by intro p hp; cases p <;> first | rfl | simp at hp
theorem emits_only (c : Chip) (o : List Output) : c.Only [.out] (c.emits o) := by
  intro p hp; cases p <;> first | rfl | simp at hp
theorem tickFree_only (c : Chip) : c.Only [.free] c.tickFree := by intro p hp; cases p <;> first | rfl | simp at hp
theorem bufStore_only (c : Chip) (t : TileIx) (w : WordIx) (x : BufWord) : c.Only [.buf] (c.bufStore t w x) := by
  intro p hp; cases p <;> first | rfl | simp at hp
theorem modPort_only (c : Chip) (p : PortIx) (f : Port → Port) : c.Only [.opt] (c.modPort p f) := by
  intro p hp; cases p <;> first | rfl | simp at hp
theorem modTileArr_only (c : Chip) (t : TileIx) (f : TileArr → TileArr) : c.Only [.arr] (c.modTileArr t f) := by
  intro p hp; cases p <;> first | rfl | simp at hp
theorem modMq_only (c : Chip) (q : QueueIx) (f : MbxQueue → MbxQueue) : c.Only [.mbx] (c.modMq q f) := by
  intro p hp; cases p <;> first | rfl | simp at hp
theorem modFlt_only (c : Chip) (f : Flt → Flt) : c.Only [.flt] (c.modFlt f) := by
  intro p hp; cases p <;> first | rfl | simp at hp
theorem modEvr_only (c : Chip) (f : Evr → Evr) : c.Only [.evr] (c.modEvr f) := by
  intro p hp; cases p <;> first | rfl | simp at hp
theorem setSo_only (c : Chip) (i : SoIx) (o : SyncObj) : c.Only [.so] (c.setSo i o) := by
  intro p hp; cases p <;> first | rfl | simp at hp

/-- The recorder's flush changes the recorder alone (R434, R441, R443). -/
theorem pumpBank_only (bank n : Nat) (c : Chip) : c.Only [.evr] (pumpBank bank n c).1 := by
  induction n generalizing c with
  | zero => exact only_refl _ c
  | succ n ih =>
    simp only [pumpBank]
    split
    · exact only_refl _ c
    · split
      · exact only_refl _ c
      · split
        · exact only_trans (modEvr_only _ _) (modEvr_only _ _)
        · exact only_trans (modEvr_only _ _) (ih _)

theorem pump_only (c : Chip) : c.Only [.evr] c.pump.1 := by
  have fold : ∀ (l : List Nat) (a : Chip × List EvRec), a.1.Only [.evr]
      (l.foldl (fun (acc : Chip × List EvRec) bank => ((pumpBank bank 65 acc.1).1, acc.2 ++ (pumpBank bank 65 acc.1).2)) a).1 := by
    intro l
    induction l with
    | nil => exact fun a => only_refl _ _
    | cons x l ih => exact fun a => only_trans (pumpBank_only x 65 a.1) (ih _)
  unfold Chip.pump
  split
  · dsimp only
    split
    · exact fold _ _
    · exact only_trans (fold _ _) (modEvr_only _ _)
  · exact only_refl _ c

theorem startFlush_only (c : Chip) : c.Only [.evr] c.startFlush.1 := by
  unfold Chip.startFlush
  split
  · exact only_refl _ c
  · exact only_trans (modEvr_only _ _) (pump_only _)

theorem evr_only (c : Chip) (e : Evr) : c.Only [.evr] { c with evr := e } := by
  intro p hp; cases p <;> first | rfl | simp at hp

theorem createRec_only (c : Chip) (r : EvRec) (b : Bool) : c.Only [.evr] (c.createRec r b).1 := by
  unfold Chip.createRec
  split
  · exact only_refl _ c
  · dsimp only
    split
    · exact evr_only _ _
    · have h : ∀ (d : Chip) (b : Bool), d.Only [.evr] (if b = true then d.startFlush else d.pump).1 := by
        intro d b
        cases b
        · exact pump_only d
        · exact startFlush_only d
      exact only_trans (evr_only _ _) (h _ _)

theorem countEvent_only (c : Chip) (src : BitVec 8) (d : BitVec 32) : c.Only [.flt] (c.countEvent src d).1 := by
  intro p hp; cases p <;> first | rfl | simp at hp

theorem noteReaction_only (c : Chip) (src : BitVec 8) (a : Nat) (d : BitVec 32) (i : EventInfo) :
    c.Only [.flt] (c.noteReaction src a d i) := by
  unfold Chip.noteReaction
  split
  · exact only_refl _ c
  · exact modFlt_only _ _

theorem countDrops_only (n : Nat) (c : Chip) : c.Only [.flt] (c.countDrops n) := by
  induction n generalizing c with
  | zero => exact only_refl _ c
  | succ n ih => exact only_trans (only_trans (countEvent_only _ _ _) (noteReaction_only _ _ _ _ _)) (ih _)

theorem fab_only (c : Chip) (x : Fab) : c.Only [.fab] { c with fab := x } := by
  intro p hp; cases p <;> first | rfl | simp at hp

/-- A message waits at outputs of a node (R166, R167). -/
theorem ctlArrive_only (c : Chip) (t : TileIx) (x : CtlItem) : c.Only [.fab] (c.ctlArrive t x) := by
  unfold Chip.ctlArrive
  split
  · exact only_refl _ c
  · exact only_foldl (fun c p => fab_only c _) _ _

theorem sendCtl_only (c : Chip) (t : TileIx) (m : CtlMsg) : c.Only [.fab, .out] (c.sendCtl t m) :=
  only_after (ctlArrive_only _ _ _) (only_mono (emit_only c _))

theorem sendIdle_only (c : Chip) (p : PortIx) : c.Only [.out] (c.sendIdle p) := emit_only _ _
theorem sendHalt_only (c : Chip) (p : PortIx) (r : Nat) : c.Only [.out] (c.sendHalt p r) := emit_only _ _

/-- HALT blocks and darkness (R334). -/
theorem haltPorts_only (c : Chip) (r : Nat) : c.Only [.opt, .out] (c.haltPorts r) := by
  refine only_foldl (fun c p => ?_) _ _
  split
  · exact only_refl _ _
  · dsimp only
    refine only_after (emit_only _ _) (only_after (modPort_only _ _ _) ?_)
    refine only_after (only_foldl (fun c _ => sendHalt_only c p r) _ _) ?_
    split
    · exact only_mono (sendIdle_only _ _)
    · exact only_refl _ _

/-- Entry to the fault state (R387). -/
theorem enterFault_only (c : Chip) (src : BitVec 8) : c.Only reportParts (c.enterFault src) := by
  unfold Chip.enterFault
  dsimp only
  have h1 : c.Only reportParts (if (src = Src.thmShutdown || src = Src.thmTrip) = true then
      { c with flt := { c.flt with thermal := true }, boot := { c.boot with selfReset := none } } else c) := by
    split
    · intro p hp; cases p <;> first | rfl | simp [reportParts] at hp
    · exact only_refl _ _
  generalize (if (decide (src = Src.thmShutdown) || decide (src = Src.thmTrip)) = true then
      ({ c with flt := { c.flt with thermal := true }, boot := { c.boot with selfReset := none } } : Chip) else c) = d at h1 ⊢
  refine only_trans h1 ?_
  split
  · exact only_refl _ _
  · refine only_after (countDrops_only _ _) ?_
    refine only_after (createRec_only _ _ _) ?_
    have : ∀ x : Chip, x.Only [.out] (if x.side.i3cAddr.isSome = true then x.emit (.inBand 1) else x) := by
      intro x
      split
      · exact emit_only _ _
      · exact only_refl _ _
    refine only_after (this _) ?_
    refine only_after (emits_only _ _) ?_
    refine only_after (haltPorts_only _ _) ?_
    refine only_after (sendCtl_only _ _ _) ?_
    intro p hp; cases p <;> first | rfl | simp [reportParts] at hp

theorem exhaust_only (c : Chip) (t : TileIx) (tg : Target) : c.Only reportParts (c.exhaust t tg) := by
  unfold Chip.exhaust
  dsimp only
  refine only_after (enterFault_only _ _) ?_
  refine only_after (noteReaction_only _ _ _ _ _) ?_
  refine only_after (countEvent_only _ _ _) ?_
  exact only_mono (modTileArr_only _ _ _)

theorem load_only (c : Chip) (l : Load) : c.Only [.load] { c with load := l } := by
  intro p hp; cases p <;> first | rfl | simp at hp
theorem arr_only (c : Chip) (x : Arr) : c.Only [.arr] { c with arr := x } := by
  intro p hp; cases p <;> first | rfl | simp at hp

/-- A stand-in order (R95, R101). -/
theorem orderStandin_only (c : Chip) (t : TileIx) (tg : Target) (r : Bool) : c.Only reportParts (c.orderStandin t tg r) := by
  unfold Chip.orderStandin
  extract_lets d
  have hd : c.Only [.arr] d := modTileArr_only _ _ _
  clear_value d
  refine only_ite _ ?_ ?_
  · refine only_after (load_only _ _) ?_
    exact only_after (modTileArr_only _ _ _) (only_mono hd)
  · exact only_after (exhaust_only _ _ _) (only_mono hd)

theorem haltPass_only (c : Chip) (p : Pass) : c.Only [.fab, .out] (c.haltPass p) := by
  unfold Chip.haltPass
  refine only_then (ps := [.fab]) ?_ (sendCtl_only _ _ _)
  split
  · exact only_refl _ _
  · exact fab_only _ _

theorem perform_only (c : Chip) (src : BitVec 8) (a : Nat) (i : EventInfo) : c.Only reportParts (c.perform src a i) := by
  unfold Chip.perform
  split
  · split
    · split
      · exact only_refl _ _
      · exact only_after (orderStandin_only _ _ _ _) (only_mono (sendCtl_only _ _ _))
    · exact only_refl _ _
  · split
    · exact only_mono (haltPass_only _ _)
    · exact only_refl _ _
  · exact enterFault_only _ _
  · exact only_refl _ _

theorem sourceEffect_only (c : Chip) (src : BitVec 8) (i : EventInfo) : c.Only [.flt, .arr] (c.sourceEffect src i) := by
  unfold Chip.sourceEffect
  dsimp only
  repeat' apply only_ite
  · exact only_mono (modFlt_only _ _)
  · exact only_mono (modFlt_only _ _)
  · exact only_then (only_then (modFlt_only _ _) (modTileArr_only _ _ _) (rs := [.flt, .arr])) (arr_only _ _)
  · exact only_then (modFlt_only _ _) (modTileArr_only _ _ _)
  · exact only_mono (modTileArr_only _ _ _)
  · exact only_mono (modFlt_only _ _)
  · exact only_refl _ _

/-- A report to the collector changes `reportParts` and nothing else (R376 to R387). -/
theorem raise_only (c : Chip) (src : BitVec 8) (i : EventInfo) : c.Only reportParts (c.raise src i) := by
  unfold Chip.raise
  split
  · exact only_refl _ _
  · dsimp only
    refine only_after (perform_only _ _ _ _) ?_
    refine only_after (noteReaction_only _ _ _ _ _) ?_
    exact only_then (sourceEffect_only _ _ _) (countEvent_only _ _ _)

theorem tally_only (c : Chip) (src : BitVec 8) (d : BitVec 32) : c.Only reportParts (c.tally src d) := raise_only _ _ _

theorem raiseDrops_only (n : Nat) (c : Chip) : c.Only reportParts (c.raiseDrops n) := by
  induction n generalizing c with
  | zero => exact only_refl _ c
  | succ n ih => exact only_trans (tally_only _ _ _) (ih _)

theorem record_only (c : Chip) (r : EvRec) (b : Bool) : c.Only reportParts (c.record r b) :=
  only_after (raiseDrops_only _ _) (only_mono (createRec_only _ _ _))

theorem onChip_only {s : State} {f : Chip → Chip} {ps : List Part} (h : s.chip.Only ps (f s.chip)) :
    ∃ t, s.onChip f = .next t ∧ t.chip = f s.chip ∧ Only ps s t := ⟨_, rfl, rfl, rfl, rfl, h⟩

end Sys2Proof.Laws
end

