-- ==== Sys2Proof/Laws/Collector.lean ====
section
/-! SUPPORT. What a report does to its source of the collector (R376 to R379). -/

namespace Sys2Proof.Laws

open Sys2Proof.Machine

/-- A frame that leaves the collector leaves every source. -/
theorem fltSrc_only {ps : List Part} {a b : Chip} (h : a.Only ps b) (n : Nat) (f : Part.flt ∉ ps := by decide) :
    b.fltSrc n = a.fltSrc n := by
  have : b.flt = a.flt := h .flt f
  simp [Chip.fltSrc, this]

theorem fltSrc_countEvent_same (c : Chip) (src : BitVec 8) (d : BitVec 32) :
    (c.countEvent src d).1.fltSrc src.toNat = (countOn (c.fltSrc src.toNat) c.stamp d).1 := by
  simp [Chip.countEvent, Chip.fltSrc]

theorem fltSrc_countEvent_other (c : Chip) (src : BitVec 8) (d : BitVec 32) (n : Nat) (h : n ≠ src.toNat) :
    (c.countEvent src d).1.fltSrc n = c.fltSrc n := by
  simp [Chip.countEvent, Chip.fltSrc, sget_sset_other _ _ _ _ _ h]

theorem fltSrc_noteReaction (c : Chip) (src : BitVec 8) (a : Nat) (d : BitVec 32) (i : EventInfo) (n : Nat) :
    (c.noteReaction src a d i).fltSrc n = c.fltSrc n := by
  unfold Chip.noteReaction
  split <;> rfl

theorem fltSrc_countDrops (k : Nat) (c : Chip) (n : Nat) (h : n ≠ Src.evrDrop.toNat) : (c.countDrops k).fltSrc n = c.fltSrc n := by
  induction k generalizing c with
  | zero => rfl
  | succ k ih =>
    rw [Chip.countDrops, ih, fltSrc_noteReaction, fltSrc_countEvent_other _ _ _ _ h]

theorem fltSrc_enterFault (c : Chip) (src : BitVec 8) (n : Nat) (h : n ≠ Src.evrDrop.toNat) :
    (c.enterFault src).fltSrc n = c.fltSrc n := by
  unfold Chip.enterFault
  dsimp only
  have h1 : ∀ b : Bool, (if b = true then
      ({ c with flt := { c.flt with thermal := true }, boot := { c.boot with selfReset := none } } : Chip) else c).fltSrc n
      = c.fltSrc n := by intro b; cases b <;> rfl
  rw [← h1 (decide (src = Src.thmShutdown) || decide (src = Src.thmTrip))]
  generalize (if (decide (src = Src.thmShutdown) || decide (src = Src.thmTrip)) = true then
      ({ c with flt := { c.flt with thermal := true }, boot := { c.boot with selfReset := none } } : Chip) else c) = d
  split
  · rfl
  · rw [fltSrc_countDrops _ _ _ h, fltSrc_only (createRec_only _ _ _)]
    have : ∀ x : Chip, (if x.side.i3cAddr.isSome = true then x.emit (.inBand 1) else x).fltSrc n = x.fltSrc n := by
      intro x; split <;> rfl
    rw [this, fltSrc_only (emits_only _ _), fltSrc_only (haltPorts_only _ _), fltSrc_only (sendCtl_only _ _ _)]
    rfl

theorem fltSrc_orderStandin (c : Chip) (t : TileIx) (tg : Target) (r : Bool) (n : Nat) (h : n ≠ Src.evrDrop.toNat)
    (k : n ≠ Src.standinExhausted.toNat) : (c.orderStandin t tg r).fltSrc n = c.fltSrc n := by
  unfold Chip.orderStandin
  extract_lets d
  have hd : d.fltSrc n = c.fltSrc n := rfl
  clear_value d
  rw [← hd]
  by_cases hf : (d.tileArr t).standin.state = .free
  · rw [if_pos hf]; rfl
  · rw [if_neg hf]
    unfold Chip.exhaust
    dsimp only
    rw [fltSrc_enterFault _ _ _ h, fltSrc_noteReaction, fltSrc_countEvent_other _ _ _ _ k]
    rfl

theorem fltSrc_perform (c : Chip) (src : BitVec 8) (a : Nat) (i : EventInfo) (n : Nat) (h : n ≠ Src.evrDrop.toNat)
    (k : n ≠ Src.standinExhausted.toNat) : (c.perform src a i).fltSrc n = c.fltSrc n := by
  unfold Chip.perform
  split
  · split
    · split
      · rfl
      · rw [fltSrc_orderStandin _ _ _ _ _ h k]; exact fltSrc_only (sendCtl_only _ _ _) _
    · rfl
  · split
    · exact fltSrc_only (haltPass_only _ _) _
    · rfl
  · exact fltSrc_enterFault _ _ _ h
  · rfl

theorem fltSrc_sourceEffect (c : Chip) (src : BitVec 8) (i : EventInfo) (n : Nat) :
    (c.sourceEffect src i).fltSrc n = c.fltSrc n := by
  unfold Chip.sourceEffect
  dsimp only
  repeat' split
  all_goals rfl

theorem stamp_only {ps : List Part} {a b : Chip} (h : a.Only ps b) (f : Part.tick ∉ ps := by decide) : b.stamp = a.stamp := by
  have : b.tick = a.tick := h .tick f
  simp [Chip.stamp, this]

/-- What one event does to its source (R376, R378). -/
theorem countOn_spec (s : FltSrc) (t d : BitVec 32) :
    (countOn s t d).1.total = satAdd s.total 1 ∧ (countOn s t d).1.sticky = true
      ∧ (s.sticky = false → (countOn s t d).1.detail = d) ∧ (s.sticky = true → (countOn s t d).1.detail = s.detail) := by
  unfold countOn
  dsimp only
  split <;> simp_all

/-- A report counts on its source, once. -/
theorem raise_counted (c : Chip) (src : BitVec 8) (i : EventInfo) (h : (defaultTally src.toNat).isSome = true)
    (k : secondary src = false) : Counted c (c.raise src i) src i.detail := by
  have e1 : src.toNat ≠ Src.evrDrop.toNat := by
    intro e; simp [secondary, BitVec.eq_of_toNat_eq e] at k
  have e2 : src.toNat ≠ Src.standinExhausted.toNat := by
    intro e; simp [secondary, BitVec.eq_of_toNat_eq e] at k
  have hn : (defaultTally src.toNat).isNone = false := by
    cases hh : defaultTally src.toNat <;> simp_all
  have main : (c.raise src i).fltSrc src.toNat = (countOn (c.fltSrc src.toNat) c.stamp i.detail).1 := by
    unfold Chip.raise
    simp only [hn]
    rw [if_neg (by simp), fltSrc_perform _ _ _ _ _ e1 e2, fltSrc_noteReaction, fltSrc_countEvent_same, fltSrc_sourceEffect,
      stamp_only (sourceEffect_only _ _ _)]
  unfold Counted
  rw [main]
  exact countOn_spec _ _ _

/-- Another source is not touched by a report, but the two that events bring about. -/
theorem raise_fltSrc_other (c : Chip) (src : BitVec 8) (i : EventInfo) (n : Nat) (h : n ≠ src.toNat)
    (e1 : n ≠ Src.evrDrop.toNat) (e2 : n ≠ Src.standinExhausted.toNat) : (c.raise src i).fltSrc n = c.fltSrc n := by
  unfold Chip.raise
  split
  · rfl
  · dsimp only
    rw [fltSrc_perform _ _ _ _ _ e1 e2, fltSrc_noteReaction, fltSrc_countEvent_other _ _ _ _ h, fltSrc_sourceEffect]

theorem tally_counted (c : Chip) (src : BitVec 8) (d : BitVec 32) (h : (defaultTally src.toNat).isSome = true)
    (k : secondary src = false) : Counted c (c.tally src d) src d := raise_counted c src { detail := d } h k

end Sys2Proof.Laws
end

