-- ==== Sys2Proof/Laws/Buffers.lean ====
section
/-! SUPPORT. What the buffer's shared operations change (R112 to R119): banks, write-backs, the words themselves. -/

namespace Sys2Proof.Laws

open Sys2Proof.Machine

variable (c : Chip) (t v : TileIx) (w u : WordIx)

theorem setBank_only (b : Bank) : c.Only [.buf] (c.setBank t w b) := by intro p hp; cases p <;> first | rfl | simp at hp
theorem countStall_only : c.Only [.buf] (c.countStall t) := by intro p hp; cases p <;> first | rfl | simp at hp
theorem buf_only (b : Buf) : c.Only [.buf] { c with buf := b } := by intro p hp; cases p <;> first | rfl | simp at hp
theorem setBack_only (b : Option BufWord) : c.Only [.buf] (c.setBack t w b) := by
  intro p hp; cases p <;> first | rfl | simp at hp
theorem modTileBuf_only (f : TileBuf → TileBuf) : c.Only [.buf] (c.modTileBuf t f) := by
  intro p hp; cases p <;> first | rfl | simp at hp

theorem takeBank_only (s n : Nat) : c.Only [.buf] (c.takeBank t w s n) :=
  only_after (setBank_only _ _ _ _) (only_ite _ (countStall_only c t) (only_refl _ c))

theorem takeBankRead_only (s : Nat) : c.Only [.buf] (c.takeBankRead t w s).1 := by
  unfold Chip.takeBankRead
  extract_lets b merges served d
  have h : c.Only [.buf] d := only_ite _ (countStall_only c t) (only_refl _ c)
  clear_value merges d
  cases merges
  · exact only_after (setBank_only _ _ _ _) h
  · exact only_refl _ _

@[simp] theorem bufWord_setBank (b : Bank) : (c.setBank t w b).bufWord v u = c.bufWord v u := rfl
@[simp] theorem bufWord_countStall : (c.countStall t).bufWord v u = c.bufWord v u := rfl
@[simp] theorem bufWord_setBack (b : Option BufWord) : (c.setBack t w b).bufWord v u = c.bufWord v u := rfl
@[simp] theorem bufWord_modTileBuf (f : TileBuf → TileBuf) : (c.modTileBuf t f).bufWord v u = c.bufWord v u := rfl

theorem bufWord_stall (p : Prop) [Decidable p] (b : Bank) :
    ((if p then c.countStall t else c).setBank t w b).bufWord v u = c.bufWord v u := by split <;> rfl

@[simp] theorem bufWord_takeBank (s n : Nat) : (c.takeBank t w s n).bufWord v u = c.bufWord v u := by
  unfold Chip.takeBank
  exact bufWord_stall _ _ _ _ _ _ _

@[simp] theorem bufWord_takeBankRead (s : Nat) : (c.takeBankRead t w s).1.bufWord v u = c.bufWord v u := by
  unfold Chip.takeBankRead
  extract_lets b merges served d
  have h : d.bufWord v u = c.bufWord v u := by unfold d; split <;> rfl
  clear_value merges d
  cases merges
  · exact h
  · rfl

/-- A whole-word write (R114, R119). -/
theorem writeWord_only (d : BitVec 512) (p : Bool) (s : Nat) : c.Only [.buf] (c.writeWord t w d p s) :=
  only_after (setBack_only _ _ _ _) (only_after (bufStore_only _ _ _ _) (takeBank_only c t w s 1))

@[simp] theorem bufWord_writeWord_same (d : BitVec 512) (p : Bool) (s : Nat) :
    (c.writeWord t w d p s).bufWord t w = { data := d, check := check512 d, poison := p } := by
  simp [Chip.writeWord, Chip.bufPut]

theorem bufWord_writeWord_other (d : BitVec 512) (p : Bool) (s : Nat) (h : ¬ (v = t ∧ u = w)) :
    (c.writeWord t w d p s).bufWord v u = c.bufWord v u := by
  simp [Chip.writeWord, Chip.bufPut, bufWord_bufStore_other _ _ _ _ _ _ h]

theorem upsetWord_zero : c.upsetWord t w 0 = c := by simp [Chip.upsetWord]

/-- A read of a word in which the code finds nothing (R119): its data, and no change but the bank's timing. -/
theorem readWord_clean (s : Nat) (p : Option Pass) (hp : (c.bufWord t w).poison = false)
    (hd : decode512 (c.bufWord t w).data (c.bufWord t w).check = ((c.bufWord t w).data, false, false)) :
    c.readWord t w s 0 p = ((c.takeBankRead t w s).1, (c.bufWord t w).data, false) := by
  unfold Chip.readWord
  rw [upsetWord_zero]
  dsimp only
  split
  · rw [bufWord_takeBankRead, hd]; simp [hp]
  · unfold Chip.senseWord
    dsimp only
    rw [bufWord_takeBankRead, hd]
    simp [hp]

/-- Sensing a word changes the buffer, and what its report to the collector may (R119). -/
theorem senseWord_only (p : Option Pass) : c.Only (.buf :: reportParts) (c.senseWord t w p).1 := by
  unfold Chip.senseWord
  extract_lets x d info c1 b1 e1 back c2 c3 b3 e3
  have h1 : c.Only (.buf :: reportParts) c2 := by
    refine only_ite _ ?_ (only_refl _ _)
    refine only_after (raise_only _ _ _) (only_after (setBack_only _ _ _ _) ?_)
    exact only_after (buf_only _ _) (only_mono (modTileBuf_only _ _ _))
  have h2 : c2.Only (.buf :: reportParts) (if d.2.2 then (e3.setBack t w (some { x with poison := true })).raise Src.bufDed info else c2) := by
    refine only_ite _ ?_ (only_refl _ _)
    refine only_after (raise_only _ _ _) (only_after (setBack_only _ _ _ _) ?_)
    exact only_after (buf_only _ _) (only_mono (modTileBuf_only _ _ _))
  split
  · exact only_refl _ _
  · exact only_trans h1 h2

/-- A read changes the buffer, and what a report may (R114 to R119). -/
theorem readWord_only (s : Nat) (u : BitVec 576) (p : Option Pass) :
    c.Only (.buf :: reportParts) (c.readWord t w s u p).1 := by
  have h : c.Only [.buf] (c.upsetWord t w u) := by
    unfold Chip.upsetWord
    exact only_ite _ (only_refl _ _) (bufStore_only _ _ _ _)
  have k : c.Only [.buf] ((c.upsetWord t w u).takeBankRead t w s).1 := only_trans h (takeBankRead_only _ _ _ _)
  unfold Chip.readWord
  dsimp only
  split
  · exact only_mono k
  · exact only_after (senseWord_only _ _ _ _) (only_mono k)

/-- The management complex's change of some bytes of a word. -/
theorem bufPatch_only (o : Nat) (bs : List Byte) : c.Only (.buf :: reportParts) (c.bufPatch t w o bs) :=
  only_after (writeWord_only _ _ _ _ _ _) (readWord_only _ _ _ _ _ _)

theorem leBytes_length (n x : Nat) : (leBytes n x).length = n := by induction n generalizing x <;> simp [leBytes, *]

end Sys2Proof.Laws
end

