-- ==== Sys2Proof/Laws/Mailbox.lean ====
section
/-! SUPPORT. What a completion does (R460, R461, R465), and how a command in progress is found. -/

namespace Sys2Proof.Laws

open Sys2Proof.Machine

theorem writeCompletion_only (c : Chip) (q : QueueIx) (cid st sq re : Nat) (co no : Bool) (res : Nat) :
    c.Only [.mbx, .buf] (c.writeCompletion q cid st sq re co no res) :=
  only_then (writeWord_only _ _ _ _ _ _) (modMq_only _ _ _)

theorem announce_only (c : Chip) (q : QueueIx) : c.Only [.mbx, .out] (c.announce q) := by
  unfold Chip.announce
  split
  · exact only_mono (modMq_only _ _ _)
  · dsimp only
    split
    · exact only_mono (emits_only _ _)
    · exact only_then (emits_only _ _) (modMq_only _ _ _)

/-- A completion changes the mailbox, the buffers and the outputs (R460, R465). -/
theorem complete_only (c : Chip) (q : QueueIx) (s r res : Nat) : c.Only mailParts (c.complete q s r res) := by
  unfold Chip.complete
  dsimp only
  split
  · exact only_refl _ _
  · have h : ∀ x : Bool, ∀ d : Chip, c.Only mailParts d → c.Only mailParts (if x = true then d else d.announce q) := by
      intro x d hd
      cases x
      · exact only_after (announce_only _ _) hd
      · exact hd
    exact h _ _ (only_then (writeCompletion_only _ _ _ _ _ _ _ _ _) (modMq_only _ _ _))

theorem succeed_only (c : Chip) (q : QueueIx) (res : Nat) : c.Only mailParts (c.succeed q res) :=
  only_after (complete_only _ _ _ _ _) (only_mono (modMq_only _ _ _))

theorem mq_announce (c : Chip) (q k : QueueIx) :
    ((c.announce q).mq k).cmd = (c.mq k).cmd ∧ ((c.announce q).mq k).commit = (c.mq k).commit
      ∧ ((c.announce q).mq k).cqTail = (c.mq k).cqTail ∧ ((c.announce q).mq k).used = (c.mq k).used
      ∧ ((c.announce q).mq k).completed = (c.mq k).completed ∧ ((c.announce q).mq k).phase = (c.mq k).phase
      ∧ ((c.announce q).mq k).sqHead = (c.mq k).sqHead ∧ ((c.announce q).mq k).sqTail = (c.mq k).sqTail
      ∧ ((c.announce q).mq k).cqHead = (c.mq k).cqHead ∧ ((c.announce q).mq k).ring = (c.mq k).ring := by
  unfold Chip.announce
  by_cases e : k = q
  · subst e
    split
    · simp
    · dsimp only
      split
      · exact ⟨rfl, rfl, rfl, rfl, rfl, rfl, rfl, rfl, rfl, rfl⟩
      · rw [mq_modMq_same]; exact ⟨rfl, rfl, rfl, rfl, rfl, rfl, rfl, rfl, rfl, rfl⟩
  · split
    · simp [mq_modMq_other _ _ _ _ e]
    · dsimp only
      split
      · exact ⟨rfl, rfl, rfl, rfl, rfl, rfl, rfl, rfl, rfl, rfl⟩
      · rw [mq_modMq_other _ _ _ _ e]; exact ⟨rfl, rfl, rfl, rfl, rfl, rfl, rfl, rfl, rfl, rfl⟩

theorem mq_announce_other (c : Chip) (q k : QueueIx) (e : k ≠ q) : (c.announce q).mq k = c.mq k := by
  unfold Chip.announce
  split
  · exact mq_modMq_other _ _ _ _ e
  · dsimp only
    split
    · rfl
    · rw [mq_modMq_other _ _ _ _ e]; rfl

theorem bufWord_only {ps : List Part} {a b : Chip} (h : a.Only ps b) (t : TileIx) (w : WordIx)
    (f : Part.buf ∉ ps := by decide) : b.bufWord t w = a.bufWord t w := by
  have : b.buf = a.buf := h .buf f
  simp [Chip.bufWord, this]

theorem bufBytes_only {ps : List Part} {a b : Chip} (h : a.Only ps b) (t : TileIx) (w : WordIx)
    (f : Part.buf ∉ ps := by decide) : b.bufBytes t w = a.bufBytes t w := by
  simp [Chip.bufBytes, bufWord_only h t w f]

theorem mq_only {ps : List Part} {a b : Chip} (h : a.Only ps b) (q : QueueIx) (f : Part.mbx ∉ ps := by decide) :
    b.mq q = a.mq q := by
  have : b.mbx = a.mbx := h .mbx f
  simp [Chip.mq, this]

/-- The queue's record, its word and everything else once a completion is written (R460, R461). -/
theorem writeCompletion_spec (c : Chip) (q : QueueIx) (cid s sq r : Nat) (k : Bool) (res : Nat) :
    let m := c.mq q
    let word := cqImage m (cqEntry cid s sq r (bit m.phase + 2 * bit k) res)
    let d := c.writeCompletion q cid s sq r k false res
    d.mq q = m.pushed word ∧ d.bufWord (q.setWidth 10) m.cqWord = { data := word, check := check512 word, poison := false }
      ∧ (∀ t w, ¬ (t = q.setWidth 10 ∧ w = m.cqWord) → d.bufWord t w = c.bufWord t w) ∧ ∀ k, k ≠ q → d.mq k = c.mq k := by
  have hw : c.Only [.buf] (c.writeWord (q.setWidth 10) (c.mq q).cqWord
      (cqImage (c.mq q) (cqEntry cid s sq r (bit (c.mq q).phase + 2 * bit k) res)) false (c.bank (q.setWidth 10) (c.mq q).cqWord).next) :=
    writeWord_only _ _ _ _ _ _
  have e : c.writeCompletion q cid s sq r k false res = (c.writeWord (q.setWidth 10) (c.mq q).cqWord
      (cqImage (c.mq q) (cqEntry cid s sq r (bit (c.mq q).phase + 2 * bit k) res)) false
      (c.bank (q.setWidth 10) (c.mq q).cqWord).next).modMq q
        fun m => m.pushed (cqImage (c.mq q) (cqEntry cid s sq r (bit (c.mq q).phase + 2 * bit k) res)) := by
    simp [Chip.writeCompletion, cqImage, cqEntry, bit]
  dsimp only
  rw [e]
  refine ⟨?_, ?_, fun t w hn => ?_, fun k hk => ?_⟩
  · rw [mq_modMq_same, mq_only hw]
  · rw [bufWord_only (modMq_only _ _ _)]; exact bufWord_writeWord_same _ _ _ _ _ _
  · rw [bufWord_only (modMq_only _ _ _)]; exact bufWord_writeWord_other _ _ _ _ _ _ _ _ hn
  · rw [mq_modMq_other _ _ _ _ hk, mq_only hw]

/-- Completing a command in progress. -/
theorem complete_completed (c : Chip) (q : QueueIx) (e : List Byte) (s r res : Nat) (h : (c.mq q).cmd = some e) :
    Completed c (c.complete q s r res) q e s r (c.mq q).commit res := by
  obtain ⟨w1, w2, w3, w4⟩ := writeCompletion_spec c q (cmdCid e) s (c.mq q).sqHead.toNat r (c.mq q).commit res
  generalize hd : c.writeCompletion q (cmdCid e) s (c.mq q).sqHead.toNat r (c.mq q).commit false res = d at w1 w2 w3 w4
  have base : ∀ u : Chip, u.mq q = { d.mq q with cmd := none, commit := false } → (∀ t w, u.bufWord t w = d.bufWord t w) →
      (∀ k, k ≠ q → u.mq k = d.mq k) → Completed c u q e s r (c.mq q).commit res := by
    intro u hq hb hk
    refine ⟨?_, ?_, ?_, ?_, ?_, ?_, ?_, ?_, ?_, ?_, ?_, fun t w hn => ?_, fun k hn => ?_⟩
    all_goals first | rw [hq, w1]; done | skip
    all_goals first | (rw [hq, w1]; rfl) | skip
    · rw [hb]; exact w2
    · rw [hb]; exact w3 t w hn
    · rw [hk k hn]; exact w4 k hn
  have b0 := base (d.modMq q fun m => { m with cmd := none, commit := false }) (by simp) (fun _ _ => rfl)
    (fun k hk => mq_modMq_other _ _ _ _ hk)
  have b1 : Completed c ((d.modMq q fun m => { m with cmd := none, commit := false }).announce q) q e s r (c.mq q).commit res := by
    generalize (d.modMq q fun m => { m with cmd := none, commit := false }) = u at b0 ⊢
    obtain ⟨a1, a2, a3, a4, a5, a6, a7, a8, a9, a10, a11, a12, a13⟩ := b0
    obtain ⟨n1, n2, n3, n4, n5, n6, n7, n8, n9, n10⟩ := mq_announce u q q
    refine ⟨?_, ?_, ?_, ?_, ?_, ?_, ?_, ?_, ?_, ?_, ?_, fun t w hn => ?_, fun k hk => ?_⟩
    all_goals try simp only [*]
    · rw [bufWord_only (announce_only u q)]; exact a11
    · rw [bufWord_only (announce_only u q)]; exact a12 t w hn
    · rw [mq_announce_other _ _ _ hk]; exact a13 k hk
  unfold Chip.complete
  simp only [h, hd]
  cases cmdNoNotify e
  · exact b1
  · exact b0

/-- Completing with SUCCESS after the commit point. -/
theorem succeed_completed (c : Chip) (q : QueueIx) (e : List Byte) (res : Nat) (h : (c.mq q).cmd = some e) :
    Completed c (c.succeed q res) q e 0 0 true res := by
  have hm : (c.commit q).mq q = { c.mq q with commit := true } := by simp [Chip.commit]
  obtain ⟨a1, a2, a3, a4, a5, a6, a7, a8, a9, a10, a11, a12, a13⟩ :=
    complete_completed (c.commit q) q e 0 0 res (by rw [hm]; exact h)
  rw [hm] at a3 a4 a5 a6 a7 a8 a9 a10 a11 a12
  refine ⟨a1, a2, a3, a4, a5, a6, a7, a8, a9, a10, a11, a12, fun k hk => ?_⟩
  rw [show c.succeed q res = (c.commit q).complete q 0 0 res from rfl, a13 k hk]
  exact mq_modMq_other _ _ _ _ hk

theorem command_mq {c : Chip} {q : QueueIx} {code : Nat} {e : List Byte} (h : c.command q code = some e) :
    (c.mq q).cmd = some e := by
  unfold Chip.command at h
  split at h
  · split at h <;> simp_all
  · simp at h

theorem withCommand_some {c : Chip} {q : QueueIx} {code : Nat} {e : List Byte} (h : c.command q code = some e)
    (f : List Byte → Chip) : c.withCommand q code f = f e := by simp [Chip.withCommand, h]

end Sys2Proof.Laws
end

