-- ==== Sys2Proof/Laws/Memory.lean ====
section
/-! SUPPORT. Every operation over far memory keeps its canonical form. -/

namespace Sys2Proof.Laws

open Sys2Proof.Machine

/-- A write of far memory keeps the canonical form. -/
theorem farWrite_wf (m : List Host.Cell) (a : Nat) (bs : List Byte) (h : Memory.wf m = true) :
    Memory.wf (farWrite m a bs) = true := by
  induction bs generalizing m a with
  | nil => exact h
  | cons b bs ih =>
    unfold farWrite
    split
    · exact ih _ _ (swf_sset farDefault m a b h)
    · exact h

/-- Clearing a region keeps the canonical form. -/
theorem farClear_wf (m : List Host.Cell) (a n : Nat) (h : Memory.wf m = true) : Memory.wf (farClear m a n) = true :=
  swfFrom_filter farDefault m 0 _ h

/-- A fold of writes keeps the canonical form. -/
theorem foldl_wf {α : Type} (f : List Host.Cell → α → List Host.Cell) (hf : ∀ m x, Memory.wf m = true → Memory.wf (f m x) = true)
    (l : List α) (m : List Host.Cell) (h : Memory.wf m = true) : Memory.wf (l.foldl f m) = true := by
  induction l generalizing m with
  | nil => exact h
  | cons x l ih => exact ih _ (hf m x h)

/-- The empty far memory has the canonical form. -/
theorem empty_wf : Memory.wf [] = true := rfl

/-- A byte written past the end of far memory is not written. -/
theorem farWrite_past (m : List Host.Cell) (a : Nat) (bs : List Byte) (h : farSize ≤ a) : farWrite m a bs = m := by
  cases bs with
  | nil => rfl
  | cons b bs => simp [farWrite, Nat.not_lt.mpr h]

/-- One byte of a read is the byte at its address. -/
theorem farRead_getD (m : List Host.Cell) (a n i : Nat) (h : i < n) : (farRead m a n).getD i 0 = farByte m (a + i) := by
  simp [farRead, List.getD, h]

@[simp] theorem farRead_length (m : List Host.Cell) (a n : Nat) : (farRead m a n).length = n := by simp [farRead]

/-- Writing a request-table entry keeps the canonical form. -/
theorem putEntry_wf (x : Both) (req : BitVec 12) (e : Entry) (h : Memory.wf x.2 = true) : Memory.wf (putEntry x req e).2 = true := by
  unfold putEntry
  repeat' split
  all_goals first | exact h | exact farWrite_wf _ _ _ h

/-- Writing a page descriptor keeps the canonical form. -/
theorem putPage_wf (x : Both) (req : BitVec 12) (page d : Nat) (h : Memory.wf x.2 = true) :
    Memory.wf (putPage x req page d).2 = true := by
  unfold putPage
  split
  · exact farWrite_wf _ _ _ h
  · exact h

/-- Writing the rows of a page keeps the canonical form. -/
theorem putPageRows_wf (x : Both) (d : Nat) (rows : List (BitVec 1024)) (h : Memory.wf x.2 = true) :
    Memory.wf (putPageRows x d rows).2 = true := by
  unfold putPageRows
  repeat' split
  · exact foldl_wf _ (fun _ _ hm => farWrite_wf _ _ _ hm) _ _ h
  all_goals exact h

/-- Writing a prefix node keeps the canonical form. -/
theorem putNode_wf (x : Both) (n : Nat) (bs : List Byte) (h : Memory.wf x.2 = true) : Memory.wf (putNode x n bs).2 = true := by
  unfold putNode
  repeat' split
  all_goals first | exact h | exact farWrite_wf _ _ _ h

end Sys2Proof.Laws
end

