-- ==== Sys2Proof/WellFormed.lean ====
section
/-! DEFINITION. Which commands are well formed: operands of the sizes their rules give. The types of the operands hold
what a field's width says; this file holds what a width cannot. A command that is not well formed stands for no event of
the hardware; `exec` gives every command a meaning all the same. -/

namespace Sys2Proof

/-- A crumb's payload is 64 bytes (R159). -/
def Crumb.wellFormed (c : Crumb) : Bool := c.payload.length == 64

/-- A write carries as many bytes as the access has. -/
def writeOf (size : Nat) (write : Option (List Byte)) : Bool := write.all fun bs => bs.length == size

/-- A region of 1 to 2,048 words that lies in the tile's buffer (R120). -/
def regionInBuffer (start : WordIx) (length : BitVec 12) : Bool :=
  decide (1 ≤ length.toNat ∧ start.toNat + length.toNat ≤ 2048)

/-- Cells of one beat: row of the group below 64, column below 1,024 (R66, R70). -/
def cellsInBeat (cells : List (Nat × Nat)) : Bool := cells.all fun x => decide (x.1 < 64 ∧ x.2 < 1024)

/-- Columns of one row (R66, R70). -/
def columnsInRow (columns : List Nat) : Bool := columns.all fun k => decide (k < 1024)

/-- Weak columns of one row (R78). -/
def weakInRow (weak : WeakCols) : Bool := weak.all fun x => decide (x.1 < 1024)

/-- Operands of the sizes the command's rule gives. -/
def Instr.wellFormed : Instr → Bool
  -- host accesses
  | .hostRegWrite _ addr _ _ => addr.toNat % 8 == 0
  | .unmappedAccess _ _ size _ => decide (1 ≤ size)
  | .subwordRegAccess _ _ size _ => decide (1 ≤ size)
  | .hostBufferAccess _ _ size write _ _ => decide (1 ≤ size.toNat ∧ size.toNat ≤ 64) && writeOf size.toNat write
  | .hostFarMemoryAccess _ _ size write => decide (1 ≤ size) && writeOf size write
  | .tickNowRead _ _ => true
  | .tickClrWrite _ _ => true
  | .fltSummaryClr _ => true
  | .fltCtlEnter _ => true
  | .fltSrcSevereClear _ _ _ => true
  | .fltSrcStickyClear _ _ _ => true
  | .evrFlushWrite _ => true
  | .portRetrainWrite _ _ => true
  | .portEnableWrite _ _ _ => true
  | .tokenRingTailWrite _ _ => true
  | .mbxCtlWrite _ _ _ => true
  | .mbxSqDoorbell _ _ _ => true
  | .mbxCqDoorbell _ _ _ => true
  | .sidebandDoorbell _ _ _ _ => true
  | .bootLenWrite _ _ _ => true
  -- mailbox service
  | .commandTake _ _ => true
  | .coalesceIntervalEnd _ => true
  | .commandTimeout _ => true
  | .svHello _ => true
  | .svIdentify _ _ => true
  | .svRecipeLoad _ => true
  | .recipeLoadDone _ => true
  | .svRecipeArm _ => true
  | .svRecipeDisarm _ => true
  | .svRecipeDiscard _ => true
  | .svRecipeQuery _ _ => true
  | .svKeyChallenge _ _ => true
  | .svKeyInstall _ _ => true
  | .svOwnerInstall _ _ => true
  | .svWeightPlan _ _ => true
  | .svPlanQuery _ _ => true
  | .svEpochArm _ => true
  | .svEpochDisarm _ => true
  | .svServeConfig _ => true
  | .svReqSubmit _ _ => true
  | .svReqAdmit _ => true
  | .svReqCancel _ => true
  | .svReqRelease _ => true
  | .svReqQuery _ _ => true
  | .svSparamWrite _ _ => true
  | .svPrefixKey _ _ => true
  | .svPrefixWalk _ _ => true
  | .svPrefixInsert _ _ => true
  | .svPrefixEvict _ => true
  | .svPackInstall _ => true
  | .packLoadDone _ => true
  | .svFaultQuery _ _ => true
  | .svFaultClear _ _ => true
  | .svEvrRead _ _ => true
  | .svEvrChallenge _ _ => true
  | .svEvrClear _ _ => true
  | .svCalRun _ => true
  | .svCalConfig _ => true
  | .svThermConfig _ => true
  | .svHkConfig _ => true
  | .svHkRead _ _ _ => true
  | .svAttest _ _ => true
  | .svCertRead _ _ => true
  | .svFwUpdate _ => true
  | .fwUpdateDone _ => true
  | .svFwCommit _ _ => true
  | .svLinkQuery _ _ => true
  | .svPosAssign _ => true
  | .svLinkConfig _ => true
  | .svKvRestore _ => true
  | .kvRestoreComplete => true
  | .svReturnArm _ => true
  | .svReset _ => true
  | .mgmtRestartComplete => true
  -- tile arrays
  | .arrayOpIssue _ _ => true
  | .beatAdmit _ => true
  | .proofStart _ => true
  | .proofEnd _ => true
  | .beatComplete _ _ wrong => cellsInBeat wrong
  | .zeroBeatComplete _ _ => true
  | .planeSelectComplete _ _ => true
  | .rowReadComplete _ _ wrong weak => columnsInRow wrong && weakInRow weak
  | .sRowWriteComplete _ _ => true
  | .planeWriteSlotGrant => true
  | .planeWriteComplete _ _ _ trouble => trouble.all fun x => decide (x.row.toNat < 320)
  | .planeWriteFail _ _ _ trouble => decide (trouble.row.toNat < 320)
  | .scrubSlotRead _ _ wrong weak => columnsInRow wrong && weakInRow weak
  | .scrubLate _ _ => true
  | .refreshStart _ => true
  | .standin _ _ => true
  -- buffer
  | .bufferRead _ _ _ _ _ _ _ => true
  | .bufferWrite _ _ _ _ _ _ _ => true
  | .bufferPartialWrite _ _ offset bytes _ _ _ => decide (1 ≤ bytes.length ∧ offset.toNat + bytes.length ≤ 64 ∧ bytes.length < 64)
  | .correctedWriteBack _ _ => true
  | .fill _ start length _ _ _ => regionInBuffer start length
  | .copy _ src dst length _ _ => regionInBuffer src length && regionInBuffer dst length
  | .fillCopyDone _ _ => true
  -- sync objects
  | .soSet _ _ _ _ _ _ => true
  | .soSignal _ _ _ => true
  | .soSignalErr _ _ _ => true
  | .soWait _ _ => true
  | .soTimerExpiry _ _ => true
  | .strobe => true
  -- vector unit
  | .vuLoad _ _ _ _ _ _ => true
  | .vuStore _ _ _ _ _ _ => true
  | .vuArith _ _ _ _ _ => true
  | .vuConvert _ _ _ _ _ => true
  | .vuFma _ _ _ _ _ => true
  | .vuExp2 _ _ _ => true
  | .vuReciprocal _ _ _ => true
  | .vuRsqrt _ _ _ => true
  | .vuTreeSum _ _ src => !src.isEmpty
  | .vuTreeMax _ _ src => !src.isEmpty
  | .vuSoftmax _ part dst src _ _ _ => !src.isEmpty && decide ((if part = .max then 1 else src.length) = dst.length)
  | .vuRmsnorm _ part dst src g _ _ => !src.isEmpty && (if part = .squares then dst.length == 1 else dst.length == src.length && g.length == src.length)
  | .vuRotary _ _ _ _ freq => freq.length == 64
  | .vuSilu _ _ _ => true
  | .vuSwiglu _ _ _ _ => true
  | .vuRouterTopk _ _ _ _ _ => true
  | .vuCandidateSelect _ logits m k _ _ => decide (1 ≤ k ∧ k ≤ m ∧ m ≤ 64 * logits.length)
  | .vuA8Prepare _ _ _ _ _ _ _ _ _ => true
  | .vuOutlierLaneEntry _ _ _ _ _ _ _ _ => true
  | .vuOutputConvert _ _ _ _ _ _ => true
  -- data mesh and crumbs
  | .meshCrumbAccept _ _ c _ _ => c.wellFormed
  | .meshHopTimeout _ _ => true
  | .activationCrumb _ c _ _ _ => c.wellFormed
  | .kvRowCrumb _ c _ => c.wellFormed
  | .logitCandidateCrumb _ c => c.wellFormed
  | .accumulatorCrumb _ _ c => c.wellFormed
  | .weightChunkCrumb _ c => c.wellFormed
  | .farMemoryTransferCrumb _ _ _ c => c.wellFormed
  | .sprinkleCrumb _ _ _ c => c.wellFormed
  | .windowOpen _ _ => true
  | .windowClose _ _ => true
  | .windowWrite _ c _ _ => c.wellFormed
  | .windowAck _ _ _ _ _ _ => true
  | .custodyAck _ _ _ _ => true
  | .hostTunnelCrumb _ c => c.wellFormed
  | .tunnelFrameSend _ frame => decide (64 ≤ frame.length ∧ frame.length ≤ 9216)
  -- control mesh
  | .halt _ => true
  | .cancel _ _ _ => true
  | .cancelCrumb _ _ _ _ => true
  | .signal _ _ _ _ => true
  | .signalErr _ _ _ => true
  | .set _ _ _ _ _ _ => true
  | .fault _ _ _ => true
  | .numeric _ _ _ => true
  | .mgmtRd _ _ => true
  | .mgmtWr _ _ _ => true
  | .mgmtRsp _ _ => true
  -- pace and rack tick
  | .paceGateClose _ => true
  | .tickExchange _ => true
  | .tstampBlock _ _ _ _ => true
  | .tickCorrection => true
  | .tickAlignLost => true
  -- passes and scheduling
  | .recipeDrainTimeout => true
  | .passStart => true
  | .schedulingNotice _ _ => true
  | .kvFailureNotice _ => true
  | .deadlineMiss _ => true
  -- weight loading
  | .chunkFetchDone _ _ _ => true
  | .chunkFetchTimeout _ _ => true
  | .buddyProtectionClearNotice => true
  | .buddyRebuildNotice => true
  -- links
  | .lightDetect _ => true
  | .trainBlock _ _ => true
  | .trainingTimeout _ => true
  | .trainingRetry _ => true
  | .crumbBlock _ bytes => bytes.length == 96
  | .retryBlock _ _ => true
  | .retryRepeat _ => true
  | .idleBlock _ _ => true
  | .idleTimeout _ => true
  | .haltBlock _ _ => true
  | .lightLoss _ => true
  | .laneFault _ _ => true
  | .lanemapBlock _ _ _ _ => true
  | .lanemapRepeat _ => true
  | .laneReinstate _ _ => true
  -- device loss
  | .portDownNotice _ _ _ => true
  | .lossReportWindow _ => true
  | .buddySectionLoaded => true
  | .takeoverAnnounce _ _ => true
  | .takeoverLate => true
  | .mirrorRequest _ _ => true
  | .custodyReplayRequest _ _ => true
  -- integrity checks
  | .sprinkleRun _ _ _ _ => true
  | .sprinkleCoverage _ _ => true
  | .statWindowClose _ _ _ => true
  -- fault collection
  | .faultEvent _ _ => true
  | .reactionEnd => true
  | .standinHoldTimeout _ _ => true
  | .beatHandshakeTimeout _ _ => true
  | .mgmtWatchdog _ => true
  | .mgmtEccError _ _ => true
  | .aliveToggle => true
  | .selfReset => true
  -- housekeeping, temperature, calibration
  | .hkRoundStart => true
  | .hkConversion _ _ _ => true
  | .thermalGateClose _ => true
  | .thermalLevelEvaluate => true
  | .hkScanEnd => true
  | .openWireTest _ _ _ => true
  | .hkRoundEnd => true
  | .urgentConversion _ _ _ _ _ => true
  | .calItemMeasure _ item ms _ => decide (1 ≤ item.toNat ∧ item.toNat ≤ 6 ∧ 1 ≤ ms.length)
  | .calTrimStep _ => true
  | .eyeSweep _ _ _ => true
  | .thermtripComparatorTrip => true
  -- event recorder
  | .evrSlotWriteDone _ _ => true
  | .evrClearDone => true
  | .evrScanComplete => true
  | .evrPwrfailCutoff => true
  | .hoursAdvance => true
  -- pins, power, boot
  | .resetNAssert => true
  | .resetNRelease => true
  | .pwrfailNAssert => true
  | .pwrfailNRelease => true
  | .refclkLoss => true
  | .bootFuseLoad _ _ => true
  | .bootRomInit _ _ => true
  | .firmwareFetchDone _ => true
  | .bootPortStepEnd => true
  | .startUpCheck reads _ _ => reads.all fun x => decide (x.row.toNat < 320) && columnsInRow x.wrong && weakInRow x.weak
  | .keyDerivation => true
  | .bootComplete => true
  -- sidebands
  | .i3cDynamicAddress _ _ => true
  | .i3cPrivateWrite _ => true
  | .i3cPrivateRead => true
  | .i3cResetRequest => true
  | .jtagBypass _ => true
  | .jtagIdcode => true
  | .jtagSamplePreload _ => true
  | .jtagExtest _ => true
  | .dbgChallenge => true
  | .dbgToken _ => true
  | .refclkReturn => true
  | .powerRemoved => true
  | .powerApplied => true
  | .ucieModuleDown _ => true
  | .ucieModuleUp _ => true

end Sys2Proof
end

namespace Sys2Proof.Proofs
open Sys2Proof.Machine Sys2Proof.Laws

/-! ### Far memory keeps its canonical form -/

/-- Far memory beside the chip is in its canonical form. -/
abbrev FarOk (x : Both) : Prop := Memory.wf x.2 = true

theorem farOk_chip {x : Both} (c : Chip) (h : FarOk x) : FarOk (c, x.2) := h

/-- A fold over chip and far memory keeps the canonical form when each of its steps does. -/
theorem foldl_farOk {α : Type} {f : Both → α → Both} (hf : ∀ x a, FarOk x → FarOk (f x a)) (l : List α) (x : Both)
    (h : FarOk x) : FarOk (l.foldl f x) := by
  induction l generalizing x with
  | nil => exact h
  | cons a l ih => exact ih _ (hf x a h)

@[simp] theorem readNode_far (x : Both) (n : Nat) : (readNode x n).2 = x.2 := by
  unfold readNode; split <;> rfl

theorem addRefs_farOk {x : Both} (n : Nat) (d : Int) (h : FarOk x) : FarOk (addRefs x n d) :=
  putNode_wf _ _ _ (by rw [readNode_far]; exact h)

theorem appendRecord_farOk {x : Both} (req : BitVec 12) (reason rflags token pos : Nat) (pass : Pass) (h : FarOk x) :
    FarOk (appendRecord x req reason rflags token pos pass) := by
  unfold appendRecord
  split
  · exact h
  · split
    · exact h
    · exact farWrite_wf _ _ _ h

theorem endEntry_farOk {x : Both} (req : BitVec 12) (state : Byte) (reason : Nat) (pass : Pass) (h : FarOk x) :
    FarOk (endEntry x req state reason pass) := by
  have hp := putEntry_wf x req { getEntry x req with state, status := BitVec.ofNat 8 reason } h
  unfold endEntry
  dsimp only
  split
  · exact appendRecord_farOk _ _ _ _ _ _ hp
  · exact hp

/-! #### Stand-ins and lost pages -/

theorem pageLost_farOk {x : Both} (d : Nat) (h : FarOk x) : FarOk (pageLost x d) := by
  unfold pageLost
  refine foldl_farOk (fun y req hy => ?_) _ _ (foldl_farOk (fun y n hy => ?_) _ _ h)
  · dsimp only
    split
    · exact putEntry_wf _ _ _ hy
    · exact hy
  · exact putNode_wf _ _ _ (by rw [readNode_far]; exact hy)

theorem restorePage_farOk {x : Both} (t : TileIx) (a : BitVec 3) (pair : Nat) (h : FarOk x) :
    FarOk (restorePage x t a pair) := by
  unfold restorePage
  split
  · exact h
  · exact pageLost_farOk pair h

theorem settleRequests_farOk {x : Both} (h : FarOk x) : FarOk (settleRequests x) := by
  unfold settleRequests
  extract_lets kv y c
  have hy : FarOk y := foldl_farOk (fun _ _ hz => restorePage_farOk _ _ _ (farOk_chip _ hz)) _ _ h
  exact farOk_chip _ hy

theorem afterFetch_farOk {x : Both} (h : FarOk x) : FarOk (afterFetch x) := settleRequests_farOk h

theorem copyImage_wf {m : List Host.Cell} (p : Plan) (i : Nat) (image : List Byte) (h : Memory.wf m = true) :
    Memory.wf (copyImage m p i image) = true := farWrite_wf _ _ _ h

/-! #### Scheduling and the return of passes -/

theorem settleCancel_farOk {x : Both} (req : BitVec 12) (h : FarOk x) : FarOk (settleCancel x req) := by
  unfold settleCancel
  dsimp only
  split
  · exact farOk_chip _ (endEntry_farOk _ _ _ _ h)
  · exact h

theorem applyChange_farOk {x : Both} (n : Notice) (h : FarOk x) : FarOk (applyChange x n) := by
  cases n with
  | admission req => exact h
  | cancel req f reason =>
    simp only [applyChange]
    split
    · exact settleCancel_farOk _ (putEntry_wf _ _ _ h)
    · exact settleCancel_farOk _ h

theorem applyDue_farOk {x : Both} (p : Pass) (h : FarOk x) : FarOk (applyDue x p) :=
  foldl_farOk (fun _ _ hy => applyChange_farOk _ hy) _ _ h

theorem applyIdle_farOk {x : Both} (p : Pass) (h : FarOk x) : FarOk (applyIdle x p) := by
  unfold applyIdle
  split
  · exact foldl_farOk (fun _ _ hy => applyChange_farOk _ hy) _ _ h
  · exact h

theorem startPass_farOk {x : Both} (o : OutPass) (h : FarOk x) : FarOk (startPass x o) := by
  unfold startPass
  extract_lets e e' y c c'
  exact farOk_chip _ (putEntry_wf _ _ _ h)

theorem startFor_farOk {x : Both} (r : Recipe) (p : Pass) (req : BitVec 12) (e : Entry) (h : FarOk x) :
    FarOk (startFor x r p req e) := by
  unfold startFor
  dsimp only
  split
  · exact farOk_chip _ (endEntry_farOk _ _ _ _ h)
  · exact startPass_farOk _ h

theorem choosePass_farOk {x : Both} (r : Recipe) (p : Pass) (h : FarOk x) : FarOk (choosePass x r p) := by
  unfold choosePass
  dsimp only
  split
  · split
    · exact h
    · split
      · exact startFor_farOk _ _ _ _ h
      · split
        · exact startFor_farOk _ _ _ _ h
        · exact h
  · split
    · exact h
    · split
      · exact startFor_farOk _ _ _ _ h
      · split
        · exact startFor_farOk _ _ _ _ h
        · exact h

theorem tryStart_farOk {x : Both} (h : FarOk x) : FarOk (tryStart x) := by
  unfold tryStart
  split
  · exact h
  · split
    · exact h
    · next p _ =>
      have hy := applyIdle_farOk p (applyDue_farOk p h)
      dsimp only
      split
      · exact hy
      · split
        · exact choosePass_farOk _ _ hy
        · exact hy

theorem appendTokens_farOk (o : OutPass) (changed missed : Bool) (final : Nat) (ts : List Nat) (pos : Nat) {x : Both}
    (h : FarOk x) : FarOk (appendTokens o changed missed final ts pos x) := by
  induction ts generalizing pos x with
  | nil => exact h
  | cons t ts ih => exact ih _ (appendRecord_farOk _ _ _ _ _ _ h)

theorem deliverTokens_farOk {x : Both} (o : OutPass) (tokens : List Nat) (final : Nat) (h : FarOk x) :
    FarOk (deliverTokens x o tokens final) := by
  unfold deliverTokens
  extract_lets e first room final' toks a lost e1 e2 changed x1 x2 x3
  have h1 : FarOk x1 := putEntry_wf _ _ _ h
  have h2 : FarOk x2 := by
    unfold x2
    split <;> exact h1
  have h3 : FarOk x3 := appendTokens_farOk _ _ _ _ _ _ h2
  split <;> exact h3

theorem poisonedReturn_farOk {x : Both} (o : OutPass) (fallback : Bool) (h : FarOk x) : FarOk (poisonedReturn x o fallback) := by
  unfold poisonedReturn
  dsimp only
  split
  · exact h
  · split
    · exact h
    · exact farOk_chip _ (endEntry_farOk _ _ _ _ (farOk_chip _ h))

theorem returnPass_farOk {x : Both} (o : OutPass) (flags : Byte) (payload : List Byte) (h : FarOk x) :
    FarOk (returnPass x o flags payload) := by
  unfold returnPass
  extract_lets x0 e cut x1 tokens r x2 x3
  have h0 : FarOk x0 := h
  refine settleCancel_farOk (x := x3) _ ?_
  unfold x3
  split
  · exact h0
  · split
    · exact poisonedReturn_farOk _ _ h0
    · split
      · exact h0
      · split
        · exact putEntry_wf _ _ _ h0
        · split
          · exact farOk_chip _ (endEntry_farOk _ _ _ _ (putEntry_wf _ _ _ h0))
          · split
            · exact deliverTokens_farOk _ _ _ h0
            · exact deliverTokens_farOk _ _ _ h0

theorem noteCancel_farOk {x : Both} (req : BitVec 12) (f : Pass) (h : FarOk x) : FarOk (noteCancel x req f) := by
  have hp := putEntry_wf x req { getEntry x req with cancelPass := f } h
  unfold noteCancel
  dsimp only
  split
  · exact h
  · split
    · exact farOk_chip _ (endEntry_farOk _ _ _ _ hp)
    · exact hp

theorem takeCancel_farOk {x : Both} (req : BitVec 12) (reason : Byte) (h : FarOk x) : FarOk (takeCancel x req reason).1 := by
  unfold takeCancel
  extract_lets e next s f out e' x1 x2 x3
  have h3 : FarOk x3 := by
    unfold x3
    split
    · exact farOk_chip _ (endEntry_farOk _ _ _ _ (putEntry_wf _ _ _ h))
    · exact farOk_chip _ (putEntry_wf _ _ _ h)
  exact farOk_chip _ h3

/-! #### Crumbs that reach far memory -/

theorem advanceLen_farOk {x : Both} (k : Crumb) (positions : Nat) (poisoned : Bool) (h : FarOk x) :
    FarOk (advanceLen x k positions poisoned) := by
  unfold advanceLen
  split
  · exact h
  · split
    · exact putEntry_wf _ _ _ h
    · exact h

theorem applyMirror_farOk {x : Both} (base page : Nat) (hd : List Byte) (words : List (List Byte)) (h : FarOk x) :
    FarOk (applyMirror x base page hd words) := by
  unfold applyMirror
  extract_lets req d at' flags f body put m1 m2 m3 m4 m5 c
  have hput : ∀ {m} (array row byte : Nat) (b : Byte), Memory.wf m = true → Memory.wf (put m array row byte b) = true :=
    fun _ _ _ _ hm => farWrite_wf _ _ _ hm
  split
  · exact farWrite_wf _ _ _ h
  · have h1 : Memory.wf m1 = true := foldl_wf _ (fun _ _ hm => hput _ _ _ _ hm) _ _ h
    have h2 : Memory.wf m2 = true := foldl_wf _ (fun _ _ hm => hput _ _ _ _ hm) _ _ h1
    have h3 : Memory.wf m3 = true := foldl_wf _ (fun _ _ hm => hput _ _ _ _ hm) _ _ h2
    have h4 : Memory.wf m4 = true := foldl_wf _ (fun _ _ hm => hput _ _ _ _ hm) _ _ h3
    have h5 : Memory.wf m5 = true := foldl_wf _ (fun _ _ hm => farWrite_wf _ _ _ hm) _ _ h4
    dsimp only [FarOk]
    exact h5

theorem takeMirror_farOk {x : Both} (base : Nat) (k : Crumb) (h : FarOk x) : FarOk (takeMirror x base k) := by
  unfold takeMirror
  dsimp only
  split
  · split
    · exact applyMirror_farOk _ _ _ _ h
    · exact h
  · split
    · exact h
    · exact applyMirror_farOk _ _ _ _ h

/-! #### The request table and the tree of pages -/

theorem takeRefs_farOk {x : Both} (req : BitVec 12) (ns : List Nat) (h : FarOk x) : FarOk (takeRefs x req ns) :=
  foldl_farOk (fun _ _ hy => addRefs_farOk _ _ hy) _ _ h

theorem storeNew_farOk {x : Both} (req : BitVec 12) (n : Entry) (h : FarOk x) : FarOk (storeNew x req n) :=
  takeRefs_farOk _ _ (putEntry_wf _ _ _ h)

theorem setPage_farOk {x : Both} (req : BitVec 12) (page d : Nat) (h : FarOk x) : FarOk (setPage x req page d) :=
  putPage_wf _ _ _ _ h

theorem admitEntry_farOk {x y : Both} {a : Area} {req : BitVec 12} {e : Entry} (h : FarOk x) (hy : admitEntry x a req e = some y) :
    FarOk y := by
  unfold admitEntry at hy
  extract_lets first last nPairs s at hy
  split at hy
  · cases hy
  · cases hy
    refine foldl_farOk (fun z n hz => ?_) _ _ (foldl_farOk (fun _ _ hz => setPage_farOk _ _ _ hz) _ _ h)
    dsimp only
    split
    · exact setPage_farOk _ _ _ hz
    · split
      · split
        · exact putPageRows_wf _ _ _ hz
        · exact hz
      · exact hz

@[simp] theorem freePage_far (x : Both) (d : Nat) : (freePage x d).2 = x.2 := by
  unfold freePage
  split
  · rfl
  · split <;> rfl

theorem releaseEntry_farOk {x : Both} (req : BitVec 12) (e : Entry) (h : FarOk x) : FarOk (releaseEntry x req e) := by
  unfold releaseEntry
  refine putEntry_wf _ _ _ (foldl_farOk (fun _ _ hy => addRefs_farOk _ _ hy) _ _ (foldl_farOk (fun y o hy => ?_) _ _ h))
  rw [FarOk, freePage_far]
  exact setPage_farOk _ _ _ hy

theorem insertPages_farOk (req : BitVec 12) (e : Entry) (secret : List Byte) (a : Area) (f p last : Nat) (pk : List Byte)
    (ts : List (BitVec 32)) {x : Both} (h : FarOk x) : FarOk (insertPages req e secret a f p last pk ts x).1 := by
  induction f generalizing p last pk ts x with
  | zero => exact h
  | succ f ih =>
    simp only [insertPages]
    split
    · exact ih _ _ _ _ (takeRefs_farOk _ _ h)
    · split
      · exact h
      · refine ih _ _ _ _ (takeRefs_farOk _ _ ?_)
        split
        · exact farWrite_wf _ _ _ (putNode_wf _ _ _ h)
        · exact addRefs_farOk _ _ (farWrite_wf _ _ _ (putNode_wf _ _ _ h))

theorem pinNode_farOk {x : Both} (n : Nat) (h : FarOk x) : FarOk (pinNode x n) := by
  unfold pinNode
  dsimp only
  split
  · exact h
  · exact addRefs_farOk _ _ (putNode_wf _ _ _ h)

/-! ### Every command answers -/

/-- A command answers a next state, leaves the queue and keeps the canonical form of far memory. -/
def Answers (s : State) (r : Result) : Prop := ∃ t, r = .next t ∧ t.pending = s.pending ∧ (FarWf s → FarWf t)

theorem answers_next (s : State) : Answers s (.next s) := ⟨s, rfl, rfl, id⟩

theorem answers_onChip (s : State) (f : Chip → Chip) : Answers s (s.onChip f) := ⟨_, rfl, rfl, id⟩

theorem answers_onBoth (s : State) {f : Chip → List Host.Cell → Both} (hf : ∀ c m, Memory.wf m = true → FarOk (f c m)) :
    Answers s (s.onBoth f) := ⟨_, rfl, rfl, hf _ _⟩

theorem answers_onDeviceBoth (s : State) {f : Both → Both} (hf : ∀ x, FarOk x → FarOk (f x)) :
    Answers s (s.onDeviceBoth f) :=
  answers_onBoth s fun c m hm => by
    split
    · exact hf (c, m) hm
    · exact hm

/-- A chip's event after which stand-ins and plane writes that wait are served. -/
theorem answers_settle (s : State) (f : Both → Chip) : Answers s (s.onDeviceBoth fun x => settleRequests (f x, x.2)) :=
  answers_onDeviceBoth s fun _ h => settleRequests_farOk h

/-- A mailbox command over chip and far memory. -/
theorem answers_command (s : State) (q : QueueIx) (code : Nat) {f : List Byte → Both → Both}
    (hf : ∀ e x, FarOk x → FarOk (f e x)) : Answers s (s.command q code f) :=
  answers_onBoth s fun c m hm => by
    split
    · exact hf _ (c, m) hm
    · exact hm

/-- After a reset far memory holds nothing. -/
theorem answers_wiped (s : State) (c : Chip) : Answers s (.next { s with chip := c, far := [] }) :=
  ⟨_, rfl, rfl, fun _ => empty_wf⟩

theorem answers_resetNAssert (s : State) : Answers s (execResetNAssert s) := by
  unfold execResetNAssert
  split
  · exact answers_wiped _ _
  · exact answers_next s

theorem answers_selfReset (s : State) : Answers s (execSelfReset s) := by
  unfold execSelfReset
  dsimp only
  split
  · exact answers_wiped _ _
  · exact answers_next s

section
variable (s : State)

/-! #### Host and mailbox commands over far memory -/

theorem answers_hostFarMemoryAccess (m : UcieIx) (addr : BitVec 40) (size : Nat) (write : Option (List Byte)) :
    Answers s (execHostFarMemoryAccess m addr size write s) :=
  answers_onBoth s fun c far h => by
    split
    · exact h
    · split
      · dsimp only
        split
        · split
          · exact h
          · exact farWrite_wf _ _ _ h
        · exact h
      · exact h

theorem answers_kvRestoreComplete : Answers s (execKvRestoreComplete s) :=
  answers_onBoth s fun c far h => by
    split
    · split <;> exact h
    · exact h

theorem answers_svServeConfig (q : QueueIx) : Answers s (execSvServeConfig q s) :=
  answers_command s q _ fun e x h => by
    dsimp only
    split
    · exact h
    · exact farClear_wf _ _ _ (farClear_wf _ _ _ h)

theorem answers_svReqSubmit (q : QueueIx) (prompt : Option (List Byte)) : Answers s (execSvReqSubmit q prompt s) :=
  answers_command s q _ fun e x h => by
    dsimp only
    split
    · exact h
    · exact h
    · split
      · exact farOk_chip _ (storeNew_farOk _ _ h)
      · split
        · exact h
        · split
          · exact h
          · exact farOk_chip _ (storeNew_farOk _ _ (farWrite_wf _ _ _ h))

theorem answers_svReqAdmit (q : QueueIx) : Answers s (execSvReqAdmit q s) :=
  answers_command s q _ fun e x h => by
    dsimp only
    split
    · exact h
    · split
      · exact h
      · split
        · exact h
        · split
          · exact h
          · split
            · exact h
            · next hy =>
              have hy := admitEntry_farOk h hy
              split
              · exact farOk_chip _ hy
              · exact farOk_chip _ hy

theorem answers_svReqCancel (q : QueueIx) : Answers s (execSvReqCancel q s) :=
  answers_command s q _ fun e x h => by
    dsimp only
    iterate 5
      split
      · exact h
    exact farOk_chip _ (takeCancel_farOk _ _ h)

theorem answers_svReqRelease (q : QueueIx) : Answers s (execSvReqRelease q s) :=
  answers_command s q _ fun e x h => by
    dsimp only
    iterate 2
      split
      · exact h
    split
    · exact farOk_chip _ (releaseEntry_farOk _ _ h)
    · exact h

theorem answers_svReqQuery (q : QueueIx) (ok : Bool) : Answers s (execSvReqQuery q ok s) :=
  answers_command s q _ fun e x h => by
    dsimp only
    iterate 2
      split
      · exact h
    exact h

theorem answers_svSparamWrite (q : QueueIx) (set : Option (List Byte)) : Answers s (execSvSparamWrite q set s) :=
  answers_command s q _ fun e x h => by
    dsimp only
    split
    · exact h
    · iterate 2
        split
        · exact h
      exact h

theorem answers_svPrefixWalk (q : QueueIx) (tokens : Option (List (BitVec 32))) : Answers s (execSvPrefixWalk q tokens s) :=
  answers_command s q _ fun e x h => by
    dsimp only
    split <;> exact h

theorem answers_svPrefixInsert (q : QueueIx) (tokens : Option (List (BitVec 32))) : Answers s (execSvPrefixInsert q tokens s) :=
  answers_command s q _ fun e x h => by
    dsimp only
    iterate 2
      split
      · exact h
    split
    · exact h
    · exact h
    · exact h
    · next a k ts _ _ =>
      split
      · exact h
      · have hi := insertPages_farOk (BitVec.ofNat 12 (cmdField e 10 2)) (getEntry x (BitVec.ofNat 12 (cmdField e 10 2))) k a
          (cmdField e 12 4) 0 noNode zeroKey ts h
        split
        · next he => rw [he] at hi; exact farOk_chip _ hi
        · next he =>
          rw [he] at hi
          split
          · exact farOk_chip _ (pinNode_farOk _ hi)
          · exact farOk_chip _ hi

theorem answers_svPrefixEvict (q : QueueIx) : Answers s (execSvPrefixEvict q s) :=
  answers_command s q _ fun e x h => by
    dsimp only
    iterate 2
      split
      · exact h
    have hp := putNode_wf x (cmdField e 8 4) (List.replicate 64 0) h
    refine farOk_chip _ ?_
    rw [FarOk, freePage_far]
    split
    · exact hp
    · exact addRefs_farOk _ _ hp

/-! #### Events of the arrays and the load engine -/

theorem answers_arrayOpIssue (t : TileIx) (slot : Nat) : Answers s (execArrayOpIssue t slot s) :=
  answers_onDeviceBoth s fun x h => by
    split
    · exact h
    · exact settleRequests_farOk h

theorem answers_rowReadComplete (t : TileIx) (a : ArrRef) (wrong : List Nat) (weak : WeakCols) :
    Answers s (execRowReadComplete t a wrong weak s) :=
  answers_onDeviceBoth s fun x h => by
    split
    · exact settleRequests_farOk h
    · exact h

theorem answers_sRowWriteComplete (t : TileIx) (a : Fin 9) : Answers s (execSRowWriteComplete t a s) :=
  answers_onDeviceBoth s fun x h => by
    split
    · exact settleRequests_farOk h
    · exact h

theorem answers_planeWriteSlotGrant : Answers s (execPlaneWriteSlotGrant s) :=
  answers_onDeviceBoth s fun x h => by
    split
    · exact h
    · split
      · exact settleRequests_farOk h
      · exact h

theorem answers_planeWriteComplete (t : TileIx) (n : Fin 17) (plane : BitVec 2) (trouble : List RowTrouble) :
    Answers s (execPlaneWriteComplete t n plane trouble s) :=
  answers_onDeviceBoth s fun x h => by
    split
    · exact h
    · split
      · exact settleRequests_farOk h
      · exact h

theorem answers_planeWriteFail (t : TileIx) (n : Fin 17) (plane : BitVec 2) (trouble : RowTrouble) :
    Answers s (execPlaneWriteFail t n plane trouble s) :=
  answers_onDeviceBoth s fun x h => by
    split
    · exact h
    · split
      · exact settleRequests_farOk h
      · exact h

theorem answers_standin (t : TileIx) (target : Target) : Answers s (execStandin t target s) :=
  answers_onDeviceBoth s fun x h => by
    split
    · exact h
    · exact settleRequests_farOk h

end
end Sys2Proof.Proofs

namespace Sys2Proof.Proofs
open Sys2Proof.Machine Sys2Proof.Laws

section
variable (s : State)

theorem answers_fault (t : TileIx) (src : BitVec 8) (info : EventInfo) : Answers s (execFault t src info s) :=
  answers_onDeviceBoth s fun x h => by
    dsimp only
    split
    · exact settleRequests_farOk h
    · exact h

theorem answers_beatHandshakeTimeout (t : TileIx) (a : ArrRef) : Answers s (execBeatHandshakeTimeout t a s) :=
  answers_onDeviceBoth s fun x h => by
    split
    · exact settleRequests_farOk h
    · exact h

theorem answers_startUpCheck (reads : List RowSense) (badRecs : List (TileIx × Fin 17 × BitVec 2)) (badStandins : List TileIx) :
    Answers s (execStartUpCheck reads badRecs badStandins s) :=
  answers_onDeviceBoth s fun x h => by
    split
    · exact h
    · exact settleRequests_farOk h

theorem answers_chunkFetchDone (wepoch : Byte) (i : Nat) (image : List Byte) : Answers s (execChunkFetchDone wepoch i image s) :=
  answers_onDeviceBoth s fun x h => by
    split
    · exact h
    · split
      · exact h
      · dsimp only
        split
        · exact afterFetch_farOk (copyImage_wf _ _ _ h)
        · split
          · exact h
          · exact afterFetch_farOk (copyImage_wf _ _ _ h)

theorem answers_chunkFetchTimeout (wepoch : Byte) (i : Nat) : Answers s (execChunkFetchTimeout wepoch i s) :=
  answers_onDeviceBoth s fun x h => by
    split
    · exact h
    · split
      · exact h
      · split
        · exact afterFetch_farOk h
        · split
          · exact h
          · exact afterFetch_farOk h

/-! #### Scheduling, crumbs and serving -/

theorem answers_cancel (req : BitVec 12) (p : Pass) (variant : BitVec 6) : Answers s (execCancel req p variant s) :=
  answers_onDeviceBoth s fun _ h => farOk_chip _ (noteCancel_farOk req p h)

theorem answers_cancelCrumb (p : PortIx) (req : BitVec 12) (pass : Pass) (variant : BitVec 6) :
    Answers s (execCancelCrumb p req pass variant s) :=
  answers_onDeviceBoth s fun _ h => by
    split
    · exact h
    · exact farOk_chip _ (noteCancel_farOk req pass h)

theorem answers_passStart : Answers s (execPassStart s) := answers_onDeviceBoth s fun _ h => tryStart_farOk h

theorem answers_kvFailureNotice (req : BitVec 12) : Answers s (execKvFailureNotice req s) :=
  answers_onDeviceBoth s fun x h => by
    dsimp only
    split
    · exact takeCancel_farOk _ _ h
    · exact h

theorem answers_deadlineMiss (req : BitVec 12) : Answers s (execDeadlineMiss req s) :=
  answers_onDeviceBoth s fun x h => by
    have hp := putEntry_wf x req ((getEntry x req).setFlag 4 true) h
    dsimp only
    split
    · exact h
    · split
      · exact takeCancel_farOk _ _ (farOk_chip _ hp)
      · exact farOk_chip _ hp

theorem answers_weightChunkCrumb (t : TileIx) (k : Crumb) : Answers s (execWeightChunkCrumb t k s) :=
  answers_onDeviceBoth s fun x h => by
    dsimp only
    split
    · exact h
    · split
      · exact h
      · split
        · exact h
        · split
          · exact settleRequests_farOk h
          · exact h
          · exact h

theorem answers_activationCrumb (t : TileIx) (k : Crumb) (positions : Nat) (last : Bool) (slot : Nat) :
    Answers s (execActivationCrumb t k positions last slot s) :=
  answers_onDeviceBoth s fun x h => by
    dsimp only
    split
    · exact h
    · split
      · exact returnPass_farOk _ _ _ h
      · exact advanceLen_farOk _ _ _ h

theorem answers_kvRowCrumb (t : TileIx) (k : Crumb) (slot : Nat) : Answers s (execKvRowCrumb t k slot s) :=
  answers_onDeviceBoth s fun x h => by
    dsimp only
    split
    · exact h
    · split
      · exact takeMirror_farOk _ _ h
      · exact h

/-- A far-memory transfer answers while it stays inside its stack (R8, R246). -/
theorem answers_farMemoryTransferCrumb (fm : Bool) (off : BitVec 36) (write : Bool) (k : Crumb)
    (hin : ¬ farSize < 2 * (off.toNat + 64)) : Answers s (execFarMemoryTransferCrumb fm off write k s) := by
  unfold execFarMemoryTransferCrumb
  dsimp only
  split
  · exact answers_next s
  · refine answers_onBoth s fun c m h => ?_
    split
    · split
      · exact h
      · exact foldl_wf _ (fun _ _ hm => farWrite_wf _ _ _ hm) _ _ h
    · exact h

/-- Past its stack, on a device that runs, it faults. -/
theorem farMemoryTransferCrumb_past (fm : Bool) (off : BitVec 36) (write : Bool) (k : Crumb) (hon : s.chip.on = true)
    (hout : farSize < 2 * (off.toNat + 64)) : execFarMemoryTransferCrumb fm off write k s = .fault .farMemoryHole := by
  simp [execFarMemoryTransferCrumb, hon, hout]

theorem farMemoryTransferCrumb_off (fm : Bool) (off : BitVec 36) (write : Bool) (k : Crumb) (hoff : s.chip.on = false) :
    execFarMemoryTransferCrumb fm off write k s = .next s := by
  simp [execFarMemoryTransferCrumb, hoff]

/-- Every command answers, but for the transfer past its stack (R8). -/
theorem exec_answers (i : Instr) :
    Answers s (exec i s) ∨
      ((∃ f a w c, i = .farMemoryTransferCrumb f a w c ∧ farSize < 2 * (a.toNat + 64)) ∧ exec i s = .fault .farMemoryHole) := by
  cases i with
  | farMemoryTransferCrumb fm off w k =>
    by_cases hout : farSize < 2 * (off.toNat + 64)
    · cases hon : s.chip.on with
      | true => exact .inr ⟨⟨fm, off, w, k, rfl, hout⟩, farMemoryTransferCrumb_past s fm off w k hon hout⟩
      | false => exact .inl ⟨s, farMemoryTransferCrumb_off s fm off w k hon, rfl, id⟩
    · exact .inl (answers_farMemoryTransferCrumb s fm off w k hout)
  | hostFarMemoryAccess m addr size write => exact .inl (answers_hostFarMemoryAccess s m addr size write)
  | kvRestoreComplete => exact .inl (answers_kvRestoreComplete s)
  | svServeConfig q => exact .inl (answers_svServeConfig s q)
  | svReqSubmit q prompt => exact .inl (answers_svReqSubmit s q prompt)
  | svReqAdmit q => exact .inl (answers_svReqAdmit s q)
  | svReqCancel q => exact .inl (answers_svReqCancel s q)
  | svReqRelease q => exact .inl (answers_svReqRelease s q)
  | svReqQuery q ok => exact .inl (answers_svReqQuery s q ok)
  | svSparamWrite q set => exact .inl (answers_svSparamWrite s q set)
  | svPrefixWalk q tokens => exact .inl (answers_svPrefixWalk s q tokens)
  | svPrefixInsert q tokens => exact .inl (answers_svPrefixInsert s q tokens)
  | svPrefixEvict q => exact .inl (answers_svPrefixEvict s q)
  | arrayOpIssue t slot => exact .inl (answers_arrayOpIssue s t slot)
  | rowReadComplete t a wrong weak => exact .inl (answers_rowReadComplete s t a wrong weak)
  | sRowWriteComplete t a => exact .inl (answers_sRowWriteComplete s t a)
  | planeWriteSlotGrant => exact .inl (answers_planeWriteSlotGrant s)
  | planeWriteComplete t n plane trouble => exact .inl (answers_planeWriteComplete s t n plane trouble)
  | planeWriteFail t n plane trouble => exact .inl (answers_planeWriteFail s t n plane trouble)
  | scrubSlotRead t isS wrong weak => exact .inl (answers_settle s fun x => x.1.scrubSlot t isS wrong weak)
  | refreshStart t => exact .inl (answers_settle s fun x => x.1.refresh t)
  | standin t target => exact .inl (answers_standin s t target)
  | cancel req pass variant => exact .inl (answers_cancel s req pass variant)
  | cancelCrumb p req pass variant => exact .inl (answers_cancelCrumb s p req pass variant)
  | signal i n poison mates =>
    exact .inl (answers_settle s fun x => x.1.soHandshake i ((if poison then [SoOp.signal n, .err 3] else [.signal n]) ++ mates))
  | signalErr i code mates => exact .inl (answers_settle s fun x => x.1.soHandshake i (.err code :: mates))
  | set i count limit tclass auto mates =>
    exact .inl (answers_settle s fun x => x.1.soHandshake i (.set count limit tclass auto :: mates))
  | soTimerExpiry i mates => exact .inl (answers_settle s fun x => (x.1.soHandshake i (.expire :: mates)).advanceMesh)
  | fault t src info => exact .inl (answers_fault s t src info)
  | beatHandshakeTimeout t a => exact .inl (answers_beatHandshakeTimeout s t a)
  | startUpCheck reads badRecs badStandins => exact .inl (answers_startUpCheck s reads badRecs badStandins)
  | chunkFetchDone wepoch i image => exact .inl (answers_chunkFetchDone s wepoch i image)
  | chunkFetchTimeout wepoch i => exact .inl (answers_chunkFetchTimeout s wepoch i)
  | passStart => exact .inl (answers_passStart s)
  | kvFailureNotice req => exact .inl (answers_kvFailureNotice s req)
  | deadlineMiss req => exact .inl (answers_deadlineMiss s req)
  | weightChunkCrumb t k => exact .inl (answers_weightChunkCrumb s t k)
  | activationCrumb t k positions last slot => exact .inl (answers_activationCrumb s t k positions last slot)
  | kvRowCrumb t k slot => exact .inl (answers_kvRowCrumb s t k slot)
  | vuRouterTopk t scores layer variant passKind =>
    exact .inl (answers_settle s fun x => x.1.offerVec t 0 (.vuRouterTopk t scores layer variant passKind))
  | resetNAssert => exact .inl (answers_resetNAssert s)
  | selfReset => exact .inl (answers_selfReset s)
  | powerRemoved => exact .inl (answers_wiped s _)
  | _ => unfold exec; exact .inl (answers_onChip s _)

end

/-- Settles O3: the queue's front answers with far memory in its form (`exec_answers`); the idle step leaves far memory. -/
theorem stepKeepsFarForm : Obligations.StepKeepsFarForm := by
  intro s t hs ht
  cases hp : s.pending with
  | nil =>
    simp only [step, hp, Host.Outcome.next.injEq] at ht
    subst ht
    exact hs
  | cons i rest =>
    simp only [step, hp] at ht
    obtain ⟨u, hu, -, hf⟩ | ⟨-, hf⟩ := exec_answers { s with pending := rest } i
    · obtain rfl : u = t := by simpa [ht] using hu.symm
      exact hf hs
    · simp [ht] at hf

/-- Settles O5. -/
theorem everyCommandAnswers : Obligations.EveryCommandAnswers := by
  intro i s
  obtain ⟨t, ht, hp, -⟩ | h := exec_answers s i
  · exact .inl ⟨t, ht, hp⟩
  · exact .inr h

/-- Settles O4. -/
theorem resetFarForm : Obligations.ResetFarForm := ⟨empty_wf, rfl⟩

end Sys2Proof.Proofs

namespace Sys2Proof.Proofs
open Sys2Proof.Machine Sys2Proof.Laws

/-! ### Bytes of far memory -/

/-- A byte of far memory after a write of one byte. -/
theorem farByte_sset (m : List Host.Cell) (a x : Nat) (b : Byte) :
    farByte (sset farDefault m a b) x = if x = a then b else farByte m x := sget_sset farDefault m a x b

/-- A byte of far memory after a write: the byte written inside, what was there outside. -/
theorem farByte_farWrite (m : List Host.Cell) (a : Nat) (bs : List Byte) (x : Nat) :
    farByte (farWrite m a bs) x =
      if a ≤ x ∧ x < a + bs.length ∧ x < farSize then bs.getD (x - a) 0 else farByte m x := by
  induction bs generalizing m a with
  | nil =>
    rw [if_neg (by simp; omega)]
    rfl
  | cons b bs ih =>
    by_cases ha : a < farSize
    · rw [farWrite, if_pos ha, ih, farByte_sset]
      by_cases hx : x = a
      · subst hx
        rw [if_neg (by omega), if_pos rfl, if_pos ⟨Nat.le_refl x, by rw [List.length_cons]; omega, ha⟩, Nat.sub_self,
          List.getD_cons_zero]
      · by_cases hin : a + 1 ≤ x ∧ x < a + 1 + bs.length ∧ x < farSize
        · rw [if_pos hin, if_pos (by simp; omega), show x - a = x - (a + 1) + 1 by omega, List.getD_cons_succ]
        · rw [if_neg hin, if_neg hx, if_neg (by simp; omega)]
    · rw [farWrite_past _ _ _ (by omega), if_neg (by omega)]

/-- Settles O6. -/
theorem farReadAfterWrite : Obligations.FarReadAfterWrite := farByte_farWrite

end Sys2Proof.Proofs

namespace Sys2Proof.Proofs
open Sys2Proof.Machine Sys2Proof.Laws

/-! ### Bytes and words -/

theorem leNat_lt (bs : List Byte) : leNat bs < 256 ^ bs.length := by
  induction bs with
  | nil => simp [leNat]
  | cons b bs ih =>
    have := b.isLt
    rw [leNat, List.length_cons, Nat.pow_succ]
    omega

theorem leBytes_leNat (bs : List Byte) : leBytes bs.length (leNat bs) = bs := by
  induction bs with
  | nil => rfl
  | cons b bs ih =>
    have hb := b.isLt
    rw [List.length_cons, leBytes, leNat, show (b.toNat + 256 * leNat bs) / 256 = leNat bs by omega, ih]
    congr 1
    apply BitVec.eq_of_toNat_eq
    rw [BitVec.toNat_ofNat]
    omega

/-- The bytes of a word made of 64 bytes are those. -/
theorem leBytes_wordOfBytes (bs : List Byte) (h : bs.length = 64) : leBytes 64 (wordOfBytes bs).toNat = bs := by
  have hlt := leNat_lt bs
  rw [h] at hlt
  rw [wordOfBytes, BitVec.toNat_ofNat, Nat.mod_eq_of_lt (by omega), ← h, leBytes_leNat]

theorem setBytes_length (old : List Byte) (o : Nat) (new : List Byte) (h : o + new.length ≤ old.length) :
    (setBytes old o new).length = old.length := by
  simp [setBytes]; omega

/-- A byte of a list some of whose bytes were replaced. -/
theorem getD_setBytes (old : List Byte) (o : Nat) (new : List Byte) (i : Nat) (h : o + new.length ≤ old.length) :
    (setBytes old o new).getD i 0 = if o ≤ i ∧ i < o + new.length then new.getD (i - o) 0 else old.getD i 0 := by
  have ht : new.take (old.length - o) = new := List.take_of_length_le (by omega)
  have hl : (old.take o).length = o := by simp; omega
  simp only [setBytes, ht, List.append_assoc, List.getD_eq_getElem?_getD, List.getElem?_append, hl, List.getElem?_take,
    List.getElem?_drop]
  by_cases h1 : i < o
  · simp [h1, show ¬ o ≤ i by omega]
  · by_cases h2 : i < o + new.length
    · simp [h1, show i - o < new.length by omega, h2, show o ≤ i by omega]
    · simp [h1, h2, show ¬ i - o < new.length by omega, show o + new.length + (i - o - new.length) = i by omega]

/-- All bytes replaced. -/
theorem setBytes_all (old new : List Byte) (h : new.length = old.length) : setBytes old 0 new = new := by
  simp [setBytes, ← h]

/-! ### The check code (R71, R119) -/

/-- The value of a list of digits read in base `b`, the lowest first, has these digits. -/
theorem foldr_digit {α : Type} (b : Nat) (f : α → Nat) (hf : ∀ a, f a < b) (l : List α) (i : Nat) (hi : i < l.length) :
    l.foldr (fun a acc => f a + b * acc) 0 / b ^ i % b = f l[i] := by
  induction l generalizing i with
  | nil => simp at hi
  | cons a l ih =>
    have ha := hf a
    cases i with
    | zero => simp [Nat.add_mul_mod_self_left, Nat.mod_eq_of_lt ha]
    | succ i =>
      rw [List.foldr_cons, Nat.pow_succ', ← Nat.div_div_eq_div_mul, Nat.add_mul_div_left _ _ (by omega),
        Nat.div_eq_of_lt ha, Nat.zero_add, ih i (by simpa using hi), List.getElem_cons_succ]

/-- A number is the value of its digits in base `b`. -/
theorem foldr_digits (b x n : Nat) :
    (List.range n).foldr (fun i acc => x / b ^ i % b + b * acc) 0 = x % b ^ n := by
  induction n generalizing x with
  | zero => simp [Nat.mod_one]
  | succ n ih =>
    have h := ih (x / b)
    simp only [Nat.div_div_eq_div_mul, ← Nat.pow_succ'] at h
    rw [List.range_succ_eq_map, List.foldr_cons, List.foldr_map, h, Nat.pow_succ', Nat.mod_mul]
    simp

theorem parts512_toNat (x : BitVec 512) (i : Nat) : (x.extractLsb' (64 * i) 64).toNat = x.toNat / (2 ^ 64) ^ i % 2 ^ 64 := by
  rw [BitVec.extractLsb'_toNat, Nat.shiftRight_eq_div_pow, Nat.pow_mul]

theorem join512_parts512 (x : BitVec 512) : join512 (parts512 x) = x := by
  have h := foldr_digits (2 ^ 64) x.toNat 8
  apply BitVec.eq_of_toNat_eq
  simp only [join512, parts512, List.foldr_map, parts512_toNat, BitVec.toNat_ofNat]
  rw [h, ← Nat.pow_mul, show 64 * 8 = 512 from rfl, Nat.mod_mod]
  exact Nat.mod_eq_of_lt x.isLt

/-- The check byte of each part of a word (R119). -/
theorem check512_extract (x : BitVec 512) (i : Nat) (hi : i < 8) :
    (check512 x).extractLsb' (8 * i) 8 = secdedCheck (x.extractLsb' (64 * i) 64) := by
  have h := foldr_digit 256 (fun p => (secdedCheck p).toNat) (fun p => (secdedCheck p).isLt) (parts512 x) i (by simpa [parts512])
  have hlt : (2 ^ 64 : Nat) = 256 ^ i * 256 ^ (8 - i) :=
    (show (2 : Nat) ^ 64 = 256 ^ 8 by decide).trans (by rw [← Nat.pow_add, show i + (8 - i) = 8 by omega])
  have hdvd : 256 ∣ 256 ^ (8 - i) := Nat.pow_dvd_pow 256 (m := 1) (by omega)
  apply BitVec.eq_of_toNat_eq
  rw [BitVec.extractLsb'_toNat, check512, BitVec.toNat_ofNat, Nat.shiftRight_eq_div_pow, Nat.pow_mul, hlt,
    Nat.mod_mul_right_div_self, show (2 : Nat) ^ 8 = 256 from rfl, Nat.mod_mod_of_dvd _ hdvd, h]
  simp [parts512]

theorem secdedDecode_check (d : BitVec 64) : secdedDecode d (secdedCheck d) = (d, .clean) := by simp [secdedDecode]

/-- A word with the check bytes that a write computes decodes to itself, and nothing is found (R119). -/
theorem decode512_check512 (x : BitVec 512) : decode512 x (check512 x) = (x, false, false) := by
  have h : ((parts512 x).zip (List.range 8)).map (fun (p, i) => secdedDecode p ((check512 x).extractLsb' (8 * i) 8))
      = (parts512 x).map fun p => (p, SecdedResult.clean) := by
    apply List.ext_getElem
    · simp [parts512]
    · intro i h1 h2
      have hi : i < 8 := by simpa [parts512] using h2
      simp only [List.getElem_map, List.getElem_zip, List.getElem_range, check512_extract x i hi]
      simp [parts512, secdedDecode_check]
  simp only [decode512]
  rw [h]
  simp [Function.comp_def, join512_parts512]

end Sys2Proof.Proofs

namespace Sys2Proof.Proofs
open Sys2Proof.Machine Sys2Proof.Laws

/-! ### Host accesses to a tile's buffer (R8, R9, R114, R115) -/

/-- An access that stays inside its tile's buffer takes its words one after another (R112). -/
theorem accessWords_inside (f : Nat) (t : TileIx) (off n : Nat) (hn : 0 < n) (hin : off + n ≤ 0x2_0000) :
    accessWords (f + 1) t off n =
      (t, BitVec.ofNat 11 (off / 64), off % 64, min n (64 - off % 64))
        :: accessWords f t (off + min n (64 - off % 64)) (n - min n (64 - off % 64)) := by
  have none : ∀ f t off, accessWords f t off 0 = [] := fun f _ _ => by cases f <;> simp [accessWords]
  rw [accessWords, if_neg (by omega)]
  dsimp only
  split
  · rfl
  · rw [show n - min n (64 - off % 64) = 0 by omega, none, none]
    simp

@[simp] theorem accessWords_none (f : Nat) (t : TileIx) (off : Nat) : accessWords f t off 0 = [] := by
  cases f <;> simp [accessWords]

/-- Its words hold all its bytes. -/
theorem accessWords_total (f : Nat) (t : TileIx) (off n acc : Nat) (hf : n ≤ f) (hin : off + n ≤ 0x2_0000) :
    (accessWords f t off n).foldl (fun n x => n + x.2.2.2) acc = acc + n := by
  induction f generalizing off n acc with
  | zero => simp [accessWords, show n = 0 by omega]
  | succ f ih =>
    by_cases hn : n = 0
    · simp [hn]
    · rw [accessWords_inside f t off n (by omega) hin, List.foldl_cons, ih _ _ _ (by omega) (by omega)]
      dsimp only
      omega

theorem hostReach_inside (c : Chip) (addr : BitVec 40) (size : Nat) (write : Bool) : c.hostReach addr size size write = c := by
  simp [Chip.hostReach]

/-- Sensing a clean word: its data, and no change (R119). -/
theorem senseWord_clean (c : Chip) (t : TileIx) (w : WordIx) (p : Option Pass) (hw : CleanWord c t w) :
    c.senseWord t w p = (c, (c.bufWord t w).data, false) := by
  obtain ⟨hp, hd⟩ := hw
  unfold Chip.senseWord
  simp [hp, hd]

/-- The bytes of a word with some replaced. -/
def patched (x : BufWord) (o : Nat) (bs : List Byte) : List Byte := setBytes (leBytes 64 x.data.toNat) o bs

/-- A word as a write of 64 bytes leaves it (R114, R119). -/
def wordWith (bs : List Byte) : BufWord := { data := wordOfBytes bs, check := check512 (wordOfBytes bs), poison := false }

/-- One word of a host write, without upsets. -/
def writeSome (c : Chip) (t : TileIx) (w : WordIx) (o k : Nat) (bs : List Byte) (slot : Nat) : Chip :=
  if k = 64 then c.writeWord t w (wordOfBytes (bs.take 64)) false slot else c.writePart t w o (bs.take k) slot 0

theorem hostWriteWords_cons (c : Chip) (slot : Nat) (t : TileIx) (w : WordIx) (o k : Nat)
    (ws : List (TileIx × WordIx × Nat × Nat)) (bs : List Byte) :
    c.hostWriteWords slot 0 ((t, w, o, k) :: ws) bs = (writeSome c t w o k bs slot).hostWriteWords slot 0 ws (bs.drop k) := rfl

/-- A partial write of a clean word (R115): the bank's two slots, the word with its bytes, no write-back left. -/
theorem writePart_clean (c : Chip) (t : TileIx) (w : WordIx) (o : Nat) (bs : List Byte) (slot : Nat) (hw : CleanWord c t w) :
    c.writePart t w o bs slot 0 = ((c.takeBank t w slot 2).bufStore t w (wordWith (patched (c.bufWord t w) o bs))).setBack t w none := by
  have hc : CleanWord (c.takeBank t w slot 2) t w := by rw [CleanWord, bufWord_takeBank]; exact hw
  unfold Chip.writePart
  rw [upsetWord_zero, senseWord_clean _ _ _ _ hc, bufWord_takeBank]
  rfl

/-- What one word of a host write does (R114, R115). -/
theorem writeSome_spec (c : Chip) (t : TileIx) (w : WordIx) (o k : Nat) (bs : List Byte) (slot : Nat) (hw : CleanWord c t w)
    (hk : o + k ≤ 64) (hb : k ≤ bs.length) :
    (writeSome c t w o k bs slot).bufWord t w = wordWith (patched (c.bufWord t w) o (bs.take k))
      ∧ (∀ v u, ¬ (v = t ∧ u = w) → (writeSome c t w o k bs slot).bufWord v u = c.bufWord v u)
      ∧ c.Only [.buf] (writeSome c t w o k bs slot) := by
  unfold writeSome
  split
  · next h =>
    obtain ⟨rfl, rfl⟩ : k = 64 ∧ o = 0 := by omega
    refine ⟨?_, fun v u h => bufWord_writeWord_other _ _ _ _ _ _ _ _ h, writeWord_only _ _ _ _ _ _⟩
    rw [bufWord_writeWord_same, patched, setBytes_all _ _ (by simp [leBytes_length]; omega)]
    rfl
  · rw [writePart_clean _ _ _ _ _ _ hw]
    refine ⟨?_, fun v u h => ?_, ?_⟩
    · rw [bufWord_setBack, bufWord_bufStore_same]
    · rw [bufWord_setBack, bufWord_bufStore_other _ _ _ _ _ _ h, bufWord_takeBank]
    · exact only_after (setBack_only _ _ _ _) (only_after (bufStore_only _ _ _ _) (takeBank_only _ _ _ _ _))

/-- The word of a byte offset of a tile's buffer (R112). -/
def wordAt (off : Nat) : WordIx := BitVec.ofNat 11 (off / 64)

theorem wordAt_eq_iff {a b : Nat} (ha : a < 0x2_0000) (hb : b < 0x2_0000) : wordAt a = wordAt b ↔ a / 64 = b / 64 := by
  unfold wordAt
  constructor
  · intro h
    have := congrArg BitVec.toNat h
    simp only [BitVec.toNat_ofNat] at this
    omega
  · intro h; rw [h]

theorem cleanWord_wordWith {c : Chip} {t : TileIx} {w : WordIx} {bs : List Byte} (h : c.bufWord t w = wordWith bs) :
    CleanWord c t w := by
  rw [CleanWord, h]
  exact ⟨rfl, decode512_check512 _⟩

section
variable {c : Chip} {t : TileIx} {off k : Nat} {bs : List Byte} {slot : Nat}

/-- Clean words stay clean under one word of a host write. -/
theorem cleanWord_writeSome (hw : CleanWord c t (wordAt off)) (hk : off % 64 + k ≤ 64) (hb : k ≤ bs.length) {u : WordIx}
    (hu : CleanWord c t u) : CleanWord (writeSome c t (wordAt off) (off % 64) k bs slot) t u := by
  obtain ⟨hsame, hother, -⟩ := writeSome_spec c t (wordAt off) (off % 64) k bs slot hw hk hb
  by_cases e : u = wordAt off
  · subst e; exact cleanWord_wordWith hsame
  · rw [CleanWord, hother t u (by simp [e])]; exact hu

/-- The bytes of the tile's buffer after one word of a host write. -/
theorem bufByte_writeSome (hw : CleanWord c t (wordAt off)) (hk : off % 64 + k ≤ 64) (hb : k ≤ bs.length)
    (hin : off < 0x2_0000) {o : Nat} (ho : o < 0x2_0000) :
    bufByte (writeSome c t (wordAt off) (off % 64) k bs slot) t o =
      if off ≤ o ∧ o < off + k then bs.getD (o - off) 0 else bufByte c t o := by
  obtain ⟨hsame, hother, -⟩ := writeSome_spec c t (wordAt off) (off % 64) k bs slot hw hk hb
  have hold : off % 64 + (bs.take k).length ≤ (leBytes 64 (c.bufWord t (wordAt off)).data.toNat).length := by
    simp only [leBytes_length, List.length_take]; omega
  change (leBytes 64 (Chip.bufWord _ t (wordAt o)).data.toNat).getD (o % 64) 0 = _
  by_cases e : o / 64 = off / 64
  · have hl : (patched (c.bufWord t (wordAt off)) (off % 64) (bs.take k)).length = 64 := by
      rw [patched, setBytes_length _ _ _ hold, leBytes_length]
    rw [(wordAt_eq_iff ho hin).2 e, hsame]
    change (leBytes 64 (wordOfBytes _).toNat).getD _ 0 = _
    rw [leBytes_wordOfBytes _ hl, patched, getD_setBytes _ _ _ _ hold, List.length_take]
    by_cases hr : off ≤ o ∧ o < off + k
    · rw [if_pos hr, if_pos (by omega), show o % 64 - off % 64 = o - off by omega]
      simp [List.getD_eq_getElem?_getD, show o - off < k by omega]
    · rw [if_neg hr, if_neg (by omega), bufByte, ← (wordAt_eq_iff ho hin).2 e]
      rfl
  · rw [hother t _ (fun h => e ((wordAt_eq_iff ho hin).1 h.2)), if_neg (by omega)]
    rfl

end

/-- A host write inside a tile's buffer, from clean words on: the bytes written, every other byte, the words still clean. -/
theorem hostWriteWords_spec (f : Nat) (c : Chip) (t : TileIx) (off : Nat) (bs : List Byte) (slot : Nat) (hf : bs.length ≤ f)
    (hin : off + bs.length ≤ 0x2_0000) (hc : ∀ k < bs.length, CleanWord c t (wordAt (off + k))) :
    let d := c.hostWriteWords slot 0 (accessWords f t off bs.length) bs
    (∀ o < 0x2_0000, bufByte d t o = if off ≤ o ∧ o < off + bs.length then bs.getD (o - off) 0 else bufByte c t o)
      ∧ (∀ w, CleanWord c t w → CleanWord d t w) ∧ (∀ v w, v ≠ t → d.bufWord v w = c.bufWord v w) ∧ c.Only [.buf] d := by
  have nothing : ∀ (c : Chip) (off : Nat),
      (∀ o < 0x2_0000, bufByte c t o = if off ≤ o ∧ o < off + 0 then ([] : List Byte).getD (o - off) 0 else bufByte c t o)
        ∧ (∀ w, CleanWord c t w → CleanWord c t w) ∧ (∀ v w, v ≠ t → c.bufWord v w = c.bufWord v w) ∧ c.Only [.buf] c :=
    fun c off => ⟨fun o _ => (if_neg (by omega)).symm, fun _ h => h, fun _ _ _ => rfl, only_refl _ _⟩
  induction f generalizing c off bs with
  | zero =>
    obtain rfl : bs = [] := List.eq_nil_of_length_eq_zero (by omega)
    exact nothing c off
  | succ f ih =>
    by_cases hn : bs.length = 0
    · obtain rfl := List.eq_nil_of_length_eq_zero hn
      rw [List.length_nil, accessWords_none]
      exact nothing c off
    · rw [accessWords_inside f t off _ (by omega) hin]
      generalize hk : min bs.length (64 - off % 64) = k
      have hword : off % 64 + k ≤ 64 := by omega
      have hb : k ≤ bs.length := by omega
      have h0 : CleanWord c t (wordAt off) := hc 0 (by omega)
      obtain ⟨-, hother, honly⟩ := writeSome_spec c t (wordAt off) (off % 64) k bs slot h0 hword hb
      obtain ⟨hbyte, hclean, htile, hframe⟩ := ih (writeSome c t (wordAt off) (off % 64) k bs slot) (off + k) (bs.drop k)
        (by rw [List.length_drop]; omega) (by rw [List.length_drop]; omega) (fun j hj => by
          rw [List.length_drop] at hj
          have := hc (k + j) (by omega)
          rw [← Nat.add_assoc] at this
          exact cleanWord_writeSome h0 hword hb this)
      rw [List.length_drop] at hbyte hclean htile hframe
      refine ⟨fun o ho => ?_, fun w hw => hclean w (cleanWord_writeSome h0 hword hb hw), fun v w hv => ?_,
        only_trans honly hframe⟩
      · refine (hbyte o ho).trans ?_
        rw [bufByte_writeSome h0 hword hb (by omega) ho]
        by_cases h1 : off + k ≤ o ∧ o < off + k + (bs.length - k)
        · rw [if_pos h1, if_pos (by omega)]
          simp [List.getD_eq_getElem?_getD, show k + (o - (off + k)) = o - off by omega]
        · rw [if_neg h1]
          by_cases h2 : off ≤ o ∧ o < off + k
          · rw [if_pos h2, if_pos (by omega)]
          · rw [if_neg h2, if_neg (by omega)]
      · exact (htile v w hv).trans (hother v w fun h => hv h.1)

/-- The bytes at an offset, one by one. -/
theorem bytesAt_eq_map (l : List Byte) (o k : Nat) (h : o + k ≤ l.length) :
    bytesAt l o k = (List.range k).map fun j => l.getD (o + j) 0 := by
  apply List.ext_getElem
  · simp [bytesAt]; omega
  · intro i h1 h2
    have : i < k := by simpa using h2
    simp [bytesAt, List.getElem?_eq_getElem (show o + i < l.length by omega)]

/-- A read of clean words inside a tile's buffer: its bytes, no word changed (R114, R119). -/
theorem hostRead_spec (f : Nat) (c : Chip) (t : TileIx) (off n slot : Nat) (hf : n ≤ f) (hin : off + n ≤ 0x2_0000)
    (hc : ∀ k < n, CleanWord c t (wordAt (off + k))) :
    let r := c.hostRead slot 0 (accessWords f t off n)
    r.2 = (List.range n).map (fun k => bufByte c t (off + k)) ∧ (∀ v w, r.1.bufWord v w = c.bufWord v w)
      ∧ c.Only [.buf, .out] r.1 := by
  induction f generalizing c off n with
  | zero =>
    obtain rfl : n = 0 := by omega
    exact ⟨rfl, fun _ _ => rfl, only_refl _ _⟩
  | succ f ih =>
    by_cases hn : n = 0
    · subst hn
      rw [accessWords_none]
      exact ⟨rfl, fun _ _ => rfl, only_refl _ _⟩
    · rw [accessWords_inside f t off _ (by omega) hin]
      generalize hk : min n (64 - off % 64) = k
      obtain ⟨hp, hd⟩ := hc 0 (by omega)
      have hread := readWord_clean c t (wordAt off) slot none hp hd
      generalize hc1 : (c.takeBankRead t (wordAt off) slot).1.emit (.bufReply t (wordAt off) .management
        (c.bufWord t (wordAt off)).data false) = c1
      have hword : ∀ v w, c1.bufWord v w = c.bufWord v w := fun v w => by
        rw [← hc1, bufWord_only (emit_only _ _), bufWord_takeBankRead]
      have honly : c.Only [.buf, .out] c1 := by
        rw [← hc1]; exact only_then (takeBankRead_only _ _ _ _) (emit_only _ _)
      obtain ⟨hbytes, hsame, hframe⟩ := ih c1 (off + k) (n - k) (by omega) (by omega) (fun j hj => by
        rw [CleanWord, hword, Nat.add_assoc]
        exact hc (k + j) (by omega))
      have hcons : c.hostRead slot 0 ((t, wordAt off, off % 64, k) :: accessWords f t (off + k) (n - k)) =
          ((c1.hostRead slot 0 (accessWords f t (off + k) (n - k))).1,
            bytesAt (leBytes 64 (c.bufWord t (wordAt off)).data.toNat) (off % 64) k
              ++ (c1.hostRead slot 0 (accessWords f t (off + k) (n - k))).2) := by
        rw [Chip.hostRead, hread, ← hc1]
      rw [show BitVec.ofNat 11 (off / 64) = wordAt off from rfl, hcons]
      refine ⟨?_, fun v w => (hsame v w).trans (hword v w), only_trans honly hframe⟩
      rw [hbytes, bytesAt_eq_map _ _ _ (by rw [leBytes_length]; omega), show n = k + (n - k) by omega, List.range_add,
        List.map_append, List.map_map, Nat.add_sub_cancel_left]
      refine congr (congrArg HAppend.hAppend (List.map_congr_left fun j hj => ?_)) (List.map_congr_left fun j hj => ?_)
      · rw [List.mem_range] at hj
        rw [bufByte, show (off + j) / 64 = off / 64 by omega, show (off + j) % 64 = off % 64 + j by omega]
        rfl
      · simp only [Function.comp_apply, bufByte, hword, Nat.add_assoc]

end Sys2Proof.Proofs

namespace Sys2Proof.Proofs
open Sys2Proof.Machine Sys2Proof.Laws

/-! ### The host's accesses to buffers and far memory -/

/-- The place and range of an address in a tile's buffer (R8). -/
theorem hostMap_buffer {addr : BitVec 40} {t : TileIx} {off : Nat} (h : hostMap addr = .buffer t off) : off < 0x2_0000 := by
  unfold hostMap at h
  dsimp only at h
  split at h
  · cases h
  · split at h
    · cases h; omega
    · split at h <;> cases h

theorem hostMap_far {addr : BitVec 40} {off : Nat} (h : hostMap addr = .far off) : off < farSize := by
  unfold hostMap at h
  dsimp only at h
  split at h
  · cases h
  · split at h
    · cases h
    · split at h
      · injection h with h
        omega
      · cases h

section
variable {s : State} {m : UcieIx} {addr : BitVec 40}

section
variable {t : TileIx} {off : Nat} {n : BitVec 8} (hup : s.chip.sys.ucieUp.getLsbD m.toNat = true)
  (hmap : hostMap addr = .buffer t off)
include hup hmap

/-- A host write of a tile's buffer. -/
theorem hostBufferWrite_eq (bs : List Byte) (slot : Nat) (upset : BitVec 576) (hb : bs.length = n.toNat)
    (hin : off + n.toNat ≤ 0x2_0000) :
    exec (.hostBufferAccess m addr n (some bs) slot upset) s =
      s.onChip fun c => c.hostWriteWords slot upset (accessWords n.toNat t off n.toNat) bs := by
  have hpad : (bs ++ List.replicate n.toNat 0#8).take n.toNat = bs := List.take_left' hb
  have htotal := accessWords_total n.toNat t off n.toNat 0 (Nat.le_refl _) hin
  unfold exec
  simp only [execHostBufferAccess, State.onChip, Chip.moduleUp, hup, hmap, htotal, Nat.zero_add, hostReach_inside, hpad]
  rfl

/-- A host read of a tile's buffer. -/
theorem hostBufferRead_eq (slot : Nat) (upset : BitVec 576) (hin : off + n.toNat ≤ 0x2_0000) :
    exec (.hostBufferAccess m addr n none slot upset) s = s.onChip fun c =>
      (c.hostRead slot upset (accessWords n.toNat t off n.toNat)).1.emit
        (.readDone m (padOnes (c.hostRead slot upset (accessWords n.toNat t off n.toNat)).2 n.toNat)) := by
  have htotal := accessWords_total n.toNat t off n.toNat 0 (Nat.le_refl _) hin
  unfold exec
  simp only [execHostBufferAccess, State.onChip, Chip.moduleUp, hup, hmap, htotal, Nat.zero_add, hostReach_inside]
  rfl

/-- A whole word, written whatever it held (R114). -/
theorem hostBufferWrite_word (bs : List Byte) (slot : Nat) (upset : BitVec 576) (hn : n = 64) (ho : off % 64 = 0)
    (hb : bs.length = 64) :
    ∃ u, exec (.hostBufferAccess m addr n (some bs) slot upset) s = .next u
      ∧ u.chip.bufWord t (BitVec.ofNat 11 (off / 64)) = { data := wordOfBytes bs, check := check512 (wordOfBytes bs), poison := false }
      ∧ (∀ v w, ¬ (v = t ∧ w = BitVec.ofNat 11 (off / 64)) → u.chip.bufWord v w = s.chip.bufWord v w)
      ∧ Only [.buf] s u := by
  have hlt := hostMap_buffer hmap
  have hn' : n.toNat = 64 := by rw [hn]; rfl
  refine ⟨{ s with chip := s.chip.writeWord t (BitVec.ofNat 11 (off / 64)) (wordOfBytes bs) false slot }, ?_,
    bufWord_writeWord_same _ _ _ _ _ _, fun v w h => bufWord_writeWord_other _ _ _ _ _ _ _ _ h, rfl, rfl,
    writeWord_only _ _ _ _ _ _⟩
  have hwords : accessWords 64 t off 64 = [(t, BitVec.ofNat 11 (off / 64), 0, 64)] := by
    rw [accessWords_inside 63 t off 64 (by omega) (by omega), ho]
    rfl
  rw [hostBufferWrite_eq hup hmap bs slot upset (by omega) (by omega), hn', hwords, State.onChip]
  simp [Chip.hostWriteWords, List.take_of_length_le (Nat.le_of_eq hb)]

/-- Some bytes of clean words (R115). -/
theorem hostBufferWrite_bytes (bs : List Byte) (slot : Nat) (hb : bs.length = n.toNat) (hin : off + n.toNat ≤ 0x2_0000)
    (hc : ∀ k < n.toNat, CleanWord s.chip t (BitVec.ofNat 11 ((off + k) / 64))) :
    ∃ u, exec (.hostBufferAccess m addr n (some bs) slot 0) s = .next u
      ∧ (∀ o < 0x2_0000, bufByte u.chip t o = if off ≤ o ∧ o < off + n.toNat then bs.getD (o - off) 0 else bufByte s.chip t o)
      ∧ (∀ k < n.toNat, CleanWord u.chip t (BitVec.ofNat 11 ((off + k) / 64)))
      ∧ (∀ v w, v ≠ t → u.chip.bufWord v w = s.chip.bufWord v w) ∧ Only [.buf] s u := by
  obtain ⟨hbytes, hclean, htile, hframe⟩ := hostWriteWords_spec n.toNat s.chip t off bs slot (Nat.le_of_eq hb) (by omega)
    (fun k hk => hc k (by omega))
  rw [hb] at hbytes hclean htile hframe
  exact ⟨_, hostBufferWrite_eq hup hmap bs slot 0 hb hin, hbytes, fun k hk => hclean _ (hc k hk), htile, rfl, rfl, hframe⟩

/-- A read of clean words. -/
theorem hostBufferRead_bytes (slot : Nat) (hin : off + n.toNat ≤ 0x2_0000)
    (hc : ∀ k < n.toNat, CleanWord s.chip t (BitVec.ofNat 11 ((off + k) / 64))) :
    ∃ u, exec (.hostBufferAccess m addr n none slot 0) s = .next u
      ∧ u.chip.out.getLast? = some (.readDone m ((List.range n.toNat).map fun k => bufByte s.chip t (off + k)))
      ∧ (∀ v w, u.chip.bufWord v w = s.chip.bufWord v w) ∧ Only [.buf, .out] s u := by
  obtain ⟨hbytes, hsame, hframe⟩ := hostRead_spec n.toNat s.chip t off n.toNat slot (Nat.le_refl _) hin hc
  refine ⟨_, hostBufferRead_eq hup hmap slot 0 hin, ?_, fun v w => ?_, rfl, rfl, only_trans hframe (only_mono (emit_only _ _))⟩
  · rw [emit_out, List.getLast?_concat, hbytes]
    simp [padOnes]
  · rw [bufWord_only (emit_only _ _)]; exact hsame v w

/-- A read past the last tile's buffer: ones for what lies outside the map, and the access is counted (R9). -/
theorem hostBufferRead_past (slot : Nat) (ht : t = 1023) (ho : off = 0x1_FFC0 + 60) (hn : 8 ≤ n.toNat)
    (hc : CleanWord s.chip t 2047) :
    ∃ u, exec (.hostBufferAccess m addr n none slot 0) s = .next u
      ∧ u.chip.out.getLast? = some (.readDone m ((List.range 4).map (fun k => bufByte s.chip t (off + k))
        ++ List.replicate (n.toNat - 4) 0xFF#8))
      ∧ u.chip.sys = { s.chip.sys with lastAddr := addr, lastWrite := false, unmapped := satAdd s.chip.sys.unmapped 1 }
      ∧ Only [.sys, .buf, .out] s u := by
  subst ht ho
  obtain ⟨f, hf⟩ : ∃ f, n.toNat = f + 1 := ⟨n.toNat - 1, by omega⟩
  have hwords : accessWords n.toNat 1023 (0x1_FFC0 + 60) n.toNat = accessWords 4 1023 (0x1_FFC0 + 60) 4 := by
    rw [hf]
    simp [accessWords, show min (f + 1) 4 = 4 by omega]
  let c := s.chip.countUnmapped addr false
  obtain ⟨hbytes, hsame, hframe⟩ := hostRead_spec 4 c 1023 (0x1_FFC0 + 60) 4 slot (Nat.le_refl _) (by omega) (fun k hk => by
    rw [wordAt, show (0x1_FFC0 + 60 + k) / 64 = 2047 by omega]; exact hc)
  have heq : exec (.hostBufferAccess m addr n none slot 0) s = s.onChip fun _ =>
      (c.hostRead slot 0 (accessWords 4 1023 (0x1_FFC0 + 60) 4)).1.emit
        (.readDone m (padOnes (c.hostRead slot 0 (accessWords 4 1023 (0x1_FFC0 + 60) 4)).2 n.toNat)) := by
    have htotal := accessWords_total 4 1023 (0x1_FFC0 + 60) 4 0 (Nat.le_refl _) (by omega)
    have hreach : s.chip.hostReach addr n.toNat (0 + 4) false = c := if_pos (by omega)
    unfold exec
    simp only [execHostBufferAccess, State.onChip, Chip.moduleUp, hup, hmap, hwords, htotal]
    simp only [Option.isSome_none, hreach]
    rfl
  refine ⟨_, heq, ?_, ?_, rfl, rfl, ?_⟩
  · rw [emit_out, List.getLast?_concat, hbytes, show bufByte c 1023 = bufByte s.chip 1023 from rfl]
    simp [padOnes]
  · have hsys : _ = c.sys := hframe .sys (by decide)
    rw [emit_sys, hsys]
    rfl
  · have hcount : s.chip.Only [.sys] c := by intro p hp; cases p <;> first | rfl | simp at hp
    exact only_then (only_then hcount hframe (rs := [.sys, .buf, .out])) (emit_only _ _)

end

section
variable {off n : Nat} (hup : s.chip.sys.ucieUp.getLsbD m.toNat = true) (hmap : hostMap addr = .far off)
include hup hmap

/-- A host write of far memory that stays inside it: the bytes, or nothing but a report where an image is held (R246). -/
theorem hostFarWrite_eq (bs : List Byte) (hb : bs.length = n) (hin : off + n ≤ farSize) :
    exec (.hostFarMemoryAccess m addr n (some bs)) s =
      .next { s with
        chip := if s.chip.inImage off n then s.chip.tally Src.imageWrite 0 else s.chip
        far := if s.chip.inImage off n then s.far else farWrite s.far off bs } := by
  have htake : bs.take n = bs := List.take_of_length_le (Nat.le_of_eq hb)
  have hinside : min n (farSize - off) = n := by omega
  unfold exec
  simp only [execHostFarMemoryAccess, State.onBoth, Chip.moduleUp, hup, hmap, hinside, hostReach_inside, htake, hb]
  cases s.chip.inImage off n <;> rfl

/-- A host read of far memory: the bytes inside it, ones for those beyond its end (R8, R9). -/
theorem hostFarRead_eq :
    exec (.hostFarMemoryAccess m addr n none) s = s.onChip fun c =>
      (c.hostReach addr n (min n (farSize - off)) false).emit
        (.readDone m (padOnes (farRead s.far off (min n (farSize - off))) n)) := by
  unfold exec
  simp only [execHostFarMemoryAccess, State.onBoth, Chip.moduleUp, hup, hmap]
  rfl

theorem hostFarWrite_outside (bs : List Byte) (hb : bs.length = n) (hin : off + n ≤ farSize)
    (himg : s.chip.inImage off n = false) :
    ∃ u, exec (.hostFarMemoryAccess m addr n (some bs)) s = .next u ∧ u.chip = s.chip ∧ u.pending = s.pending
      ∧ (∀ x, x < n → farByte u.far (off + x) = bs.getD x 0)
      ∧ (∀ x, (x < off ∨ off + n ≤ x) → farByte u.far x = farByte s.far x) := by
  refine ⟨{ s with far := farWrite s.far off bs }, ?_, rfl, rfl, fun x hx => ?_, fun x hx => ?_⟩
  · rw [hostFarWrite_eq hup hmap bs hb hin, himg]
    rfl
  · rw [farByte_farWrite, if_pos (by omega), Nat.add_sub_cancel_left]
  · rw [farByte_farWrite, if_neg (by omega)]

theorem hostFarWrite_image (bs : List Byte) (hb : bs.length = n) (hin : off + n ≤ farSize)
    (himg : s.chip.inImage off n = true) :
    ∃ u, exec (.hostFarMemoryAccess m addr n (some bs)) s = .next u
      ∧ Counted s.chip u.chip Src.imageWrite 0 ∧ Only reportParts s u := by
  refine ⟨{ s with chip := s.chip.tally Src.imageWrite 0 }, ?_, tally_counted _ _ _ (by decide) (by decide), rfl, rfl,
    tally_only _ _ _⟩
  rw [hostFarWrite_eq hup hmap bs hb hin, himg]
  rfl

theorem hostFarRead_inside (hin : off + n ≤ farSize) :
    exec (.hostFarMemoryAccess m addr n none) s = .next { s with chip := { s.chip with
      out := s.chip.out ++ [.readDone m (farRead s.far off n)] } } := by
  have hinside : min n (farSize - off) = n := by omega
  have hpad : padOnes (farRead s.far off n) n = farRead s.far off n := by simp [padOnes]
  rw [hostFarRead_eq hup hmap, hinside, hpad, State.onChip, hostReach_inside]
  rfl

theorem hostFarRead_past (hout : farSize < off + n) :
    exec (.hostFarMemoryAccess m addr n none) s = .next { s with chip := { s.chip with
      sys := { s.chip.sys with lastAddr := addr, lastWrite := false, unmapped := satAdd s.chip.sys.unmapped 1 }
      out := s.chip.out ++ [.readDone m (farRead s.far off (farSize - off) ++ List.replicate (n - (farSize - off)) 0xFF#8)] } } := by
  have hoff := hostMap_far hmap
  have hinside : min n (farSize - off) = farSize - off := by omega
  have hpad : padOnes (farRead s.far off (farSize - off)) n =
      farRead s.far off (farSize - off) ++ List.replicate (n - (farSize - off)) 0xFF#8 := by simp [padOnes]
  have hreach : s.chip.hostReach addr n (farSize - off) false = s.chip.countUnmapped addr false := if_pos (by omega)
  rw [hostFarRead_eq hup hmap, hinside, hpad, State.onChip, hreach]
  rfl

end
end

/-- Settles O10. -/
theorem hostMemoryAccesses : Obligations.HostMemoryAccesses := by
  refine ⟨fun s m addr t off slot n hup hmap _ _ => ⟨fun bs upset hn ho hb => ?_, fun hin hc => ⟨fun bs hb => ?_, ?_⟩,
    fun ht ho hn hc => ?_⟩, fun s m addr off n hup hmap => ⟨fun hin => ⟨fun bs hb himg => ?_, fun bs hb himg => ?_, ?_⟩,
    fun hout => ?_⟩⟩
  · exact hostBufferWrite_word hup hmap bs slot upset hn ho hb
  · exact hostBufferWrite_bytes hup hmap bs slot hb hin hc
  · exact hostBufferRead_bytes hup hmap slot hin hc
  · exact hostBufferRead_past hup hmap slot ht ho hn hc
  · exact hostFarWrite_outside hup hmap bs hb hin himg
  · exact hostFarWrite_image hup hmap bs hb hin himg
  · exact hostFarRead_inside hup hmap hin
  · exact hostFarRead_past hup hmap hout

end Sys2Proof.Proofs

namespace Sys2Proof.Proofs
open Sys2Proof.Machine Sys2Proof.Laws

/-! ### Fields of registers (R4, R5) -/

/-- A bit of a register is a bit of a field that holds it. -/
theorem getLsbD_of_field (x : Word64) {lo w k : Nat} (h1 : lo ≤ k) (h2 : k < lo + w) :
    x.getLsbD k = (field x.toNat lo w).testBit (k - lo) := by
  simp [field, Nat.testBit_mod_two_pow, show k - lo < w by omega, show lo + (k - lo) = k by omega, BitVec.getLsbD]

theorem field_one (x : Word64) (lo : Nat) : field x.toNat lo 1 = bit (x.getLsbD lo) := by
  rw [field, BitVec.getLsbD, Nat.testBit_eq_decide_div_mod_eq, Nat.shiftRight_eq_div_pow, Nat.pow_one, bit]
  rcases Nat.mod_two_eq_zero_or_one (x.toNat / 2 ^ lo) with h | h <;> simp [h]

theorem extractLsb'_field (x : Word64) (lo w : Nat) : (x.extractLsb' lo w).toNat = field x.toNat lo w :=
  BitVec.extractLsb'_toNat ..

/-- A field's bits after the access, as numbers. -/
theorem merged_toNat {w : Nat} (d : RegData) (lo : Nat) (old : BitVec w) :
    (d.merged lo old).toNat = (field d.data.toNat lo w &&& field d.mask.toNat lo w)
      ||| (old.toNat &&& (field d.mask.toNat lo w ^^^ (2 ^ w - 1))) := by
  have hnot : (~~~ d.mask.extractLsb' lo w).toNat = field d.mask.toNat lo w ^^^ (2 ^ w - 1) := by
    rw [← BitVec.xor_allOnes, BitVec.toNat_xor, BitVec.toNat_allOnes, extractLsb'_field]
  simp only [RegData.merged, BitVec.toNat_or, BitVec.toNat_and, hnot, extractLsb'_field]

/-- What a write leaves in a field (R4, R5). -/
theorem upd_toNat {w : Nat} (d : RegData) (lo : Nat) (ok : Nat → Bool) (old : BitVec w) :
    (d.upd lo ok old).toNat = fieldAfter d ⟨lo, w, ok⟩ old.toNat := by
  have hmask : d.mask.extractLsb' lo w ≠ 0 ↔ field d.mask.toNat lo w ≠ 0 := by
    rw [← extractLsb'_field, ne_eq, ne_eq, ← BitVec.toNat_inj]
    rfl
  unfold RegData.upd fieldAfter
  dsimp only
  rw [← merged_toNat]
  by_cases h : d.mask.extractLsb' lo w ≠ 0 ∧ ok (d.merged lo old).toNat = true
  · rw [if_pos (by simpa using h), if_pos ⟨hmask.1 h.1, h.2⟩]
  · rw [if_neg (by simpa using h), if_neg (fun k => h ⟨hmask.2 k.1, k.2⟩)]

/-- What a write leaves in a field of one bit. -/
theorem updBit_toNat (d : RegData) (lo : Nat) (old : Bool) : bit (d.updBit lo old) = fieldAfter d ⟨lo, 1, anyVal⟩ (bit old) := by
  unfold fieldAfter RegData.updBit RegData.touches
  dsimp only
  rw [field_one, field_one]
  cases d.mask.getLsbD lo <;> cases d.data.getLsbD lo <;> cases old <;> rfl

/-- An access that drives no bit of a field leaves it. -/
theorem upd_untouched {w : Nat} (d : RegData) (lo : Nat) (ok : Nat → Bool) (old : BitVec w) (h : d.mask.extractLsb' lo w = 0) :
    d.upd lo ok old = old := by simp [RegData.upd, h]

/-- An access that drives every bit of a field. -/
theorem upd_driven {w : Nat} (d : RegData) (lo : Nat) (ok : Nat → Bool) (old : BitVec w)
    (h : d.mask.extractLsb' lo w = BitVec.allOnes w) (hw : 0 < w) :
    d.upd lo ok old = if ok (d.val lo w) then BitVec.ofNat w (d.val lo w) else old := by
  have hm : d.merged lo old = d.data.extractLsb' lo w := by simp [RegData.merged, h]
  have hv : (d.data.extractLsb' lo w).toNat = d.val lo w := extractLsb'_field _ _ _
  have hof : BitVec.ofNat w (d.val lo w) = d.data.extractLsb' lo w := by rw [← hv, BitVec.ofNat_toNat, BitVec.setWidth_eq]
  unfold RegData.upd
  rw [h, hm, hv, hof]
  simp [show w ≠ 0 by omega]

theorem extractLsb'_ones {w n : Nat} (hw : w ≤ n) (hn : n ≤ 64) :
    (BitVec.ofNat 64 (2 ^ n - 1)).extractLsb' 0 w = BitVec.allOnes w := by
  apply BitVec.eq_of_getLsbD_eq
  intro i hi
  rw [BitVec.getLsbD_extractLsb', BitVec.getLsbD_ofNat, Nat.testBit_two_pow_sub_one]
  simp [hi, show i < n by omega, show i < 64 by omega]

theorem extractLsb'_highHalf {w : Nat} (hw : w ≤ 32) : (0xFFFF_FFFF_0000_0000 : Word64).extractLsb' 0 w = 0 := by
  apply BitVec.eq_of_getLsbD_eq
  intro i hi
  rw [show (0xFFFF_FFFF_0000_0000 : Word64) = 0xFFFF_FFFF#64 <<< 32 from rfl, BitVec.getLsbD_extractLsb', BitVec.getLsbD_shiftLeft]
  simp [show i < 32 by omega]

/-- A write of the whole register or of its low half drives bit 0, a write of its high half does not (R4). -/
theorem touches_low {v : RegWidth} {data : Word64} (h : v ≠ .high) : (RegData.of v data).touches 0 = true := by
  cases v with
  | full => simp [RegData.touches, RegData.of]
  | low => simp [RegData.touches, RegData.of]
  | high => exact absurd rfl h

theorem touches_high {data : Word64} : (RegData.of .high data).touches 0 = false := by simp [RegData.touches, RegData.of]

/-- A host write drives all of a field in the low half, or nothing of it. -/
theorem upd_low {w : Nat} (v : RegWidth) (data : Word64) (ok : Nat → Bool) (old : BitVec w) (hw : 0 < w ∧ w ≤ 32) :
    (RegData.of v data).upd 0 ok old =
      if (RegData.of v data).touches 0 && ok ((RegData.of v data).val 0 w) then BitVec.ofNat w ((RegData.of v data).val 0 w)
      else old := by
  have hfull : (BitVec.allOnes 64).extractLsb' 0 w = BitVec.allOnes w := extractLsb'_ones (n := 64) (by omega) (Nat.le_refl _)
  have hlow : (0xFFFF_FFFF : Word64).extractLsb' 0 w = BitVec.allOnes w := extractLsb'_ones (n := 32) hw.2 (by omega)
  cases v with
  | full => rw [upd_driven _ _ _ _ hfull hw.1, touches_low (by decide), Bool.true_and]
  | low => rw [upd_driven _ _ _ _ hlow hw.1, touches_low (by decide), Bool.true_and]
  | high =>
    rw [upd_untouched _ _ _ _ (extractLsb'_highHalf hw.2), touches_high]
    rfl

end Sys2Proof.Proofs

namespace Sys2Proof.Proofs
open Sys2Proof.Machine Sys2Proof.Laws

/-! ### Plain registers (R4, R5) -/

/-- Two words agree outside some fields when they agree on fields that cover the rest. -/
theorem bits_of_gaps {x y : Word64} (fs : List RegField) (gaps : List (Nat × Nat))
    (hgaps : ∀ g ∈ gaps, field x.toNat g.1 g.2 = field y.toNat g.1 g.2)
    (hcover : ∀ k < 64, (∃ f ∈ fs, f.lo ≤ k ∧ k < f.lo + f.width) ∨ ∃ g ∈ gaps, g.1 ≤ k ∧ k < g.1 + g.2) (k : Nat)
    (hk : ∀ f ∈ fs, ¬ (f.lo ≤ k ∧ k < f.lo + f.width)) : x.getLsbD k = y.getLsbD k := by
  by_cases h64 : k < 64
  · obtain ⟨f, hf, hin⟩ | ⟨g, hg, h1, h2⟩ := hcover k h64
    · exact absurd hin (hk f hf)
    · rw [getLsbD_of_field x h1 h2, getLsbD_of_field y h1 h2, hgaps g hg]
  · rw [BitVec.getLsbD_of_ge _ _ (by omega), BitVec.getLsbD_of_ge _ _ (by omega)]

/-- A write has left in each field of a register what R4 and R5 say, has changed no other bit of it, and no other register reads
otherwise. -/
structure PlainWritten (c e : Chip) (b o : Nat) (fs : List RegField) (d : RegData) : Prop where
  fields : ∀ f ∈ fs, field (regRead e b o).toNat f.lo f.width = fieldAfter d f (field (regRead c b o).toNat f.lo f.width)
  rest : ∀ k, (∀ f ∈ fs, ¬ (f.lo ≤ k ∧ k < f.lo + f.width)) → (regRead e b o).getLsbD k = (regRead c b o).getLsbD k
  others : ∀ b' o', ¬ (b' = b ∧ o' = o) → regRead e b' o' = regRead c b' o'
  out : e.out = c.out

theorem regOf_toNat (l : List Nat) : (regOf l).toNat = l.foldl (· + ·) 0 % 2 ^ 64 := BitVec.toNat_ofNat ..

/-- The fields that a register of the list shows. -/
theorem field_div (x lo w : Nat) : field x lo w = x / 2 ^ lo % 2 ^ w := by rw [field, Nat.shiftRight_eq_div_pow]

theorem fld_eq {w : Nat} (lo : Nat) (v : BitVec w) : fld lo v = v.toNat * 2 ^ lo := Nat.shiftLeft_eq ..

theorem flb_eq (lo : Nat) (b : Bool) : flb lo b = bit b * 2 ^ lo := Nat.shiftLeft_eq ..

theorem bit_lt (b : Bool) : bit b < 2 := by cases b <;> decide

/-! #### What the registers of a block read of the state -/

/-- The parts of the state that a block's registers show. -/
def blockParts : Nat → List Part
  | 0 => [.sys, .flt, .pins, .boot, .arr, .buf, .so, .rcp, .load, .serve]
  | 1 => [.mbx]
  | 2 => [.flt, .pins, .mbx, .spk]
  | 3 => [.hk, .fab, .cal]
  | 4 => [.evr]
  | 5 => [.opt]
  | 6 => [.tick]
  | _ => []

section
variable {ps : List Part} {a b : Chip} (h : a.Only ps b) (off : Nat)
include h

theorem regSys_only (hb : ∀ p ∈ blockParts 0, p ∉ ps) : regSys b off = regSys a off := by
  have hsys : b.sys = a.sys := h .sys (hb _ (by decide))
  have hflt : b.flt = a.flt := h .flt (hb _ (by decide))
  have hpins : b.pins = a.pins := h .pins (hb _ (by decide))
  have hboot : b.boot = a.boot := h .boot (hb _ (by decide))
  have harr : b.arr = a.arr := h .arr (hb _ (by decide))
  have hbuf : b.buf = a.buf := h .buf (hb _ (by decide))
  have hso : b.so = a.so := h .so (hb _ (by decide))
  have hrcp : b.rcp = a.rcp := h .rcp (hb _ (by decide))
  have hload : b.load = a.load := h .load (hb _ (by decide))
  have hserve : b.serve = a.serve := h .serve (hb _ (by decide))
  cases a; cases b
  dsimp only at hsys hflt hpins hboot harr hbuf hso hrcp hload hserve
  subst hsys hflt hpins hboot harr hbuf hso hrcp hload hserve
  rfl

theorem regMbx_only (hb : ∀ p ∈ blockParts 1, p ∉ ps) : regMbx b off = regMbx a off := by
  have hmbx : b.mbx = a.mbx := h .mbx (hb _ (by decide))
  cases a; cases b
  dsimp only at hmbx
  subst hmbx
  rfl

theorem regFlt_only (hb : ∀ p ∈ blockParts 2, p ∉ ps) : regFlt b off = regFlt a off := by
  have hflt : b.flt = a.flt := h .flt (hb _ (by decide))
  have hpins : b.pins = a.pins := h .pins (hb _ (by decide))
  have hmbx : b.mbx = a.mbx := h .mbx (hb _ (by decide))
  have hspk : b.spk = a.spk := h .spk (hb _ (by decide))
  cases a; cases b
  dsimp only at hflt hpins hmbx hspk
  subst hflt hpins hmbx hspk
  rfl

theorem regHk_only (hb : ∀ p ∈ blockParts 3, p ∉ ps) : regHk b off = regHk a off := by
  have hhk : b.hk = a.hk := h .hk (hb _ (by decide))
  have hfab : b.fab = a.fab := h .fab (hb _ (by decide))
  have hcal : b.cal = a.cal := h .cal (hb _ (by decide))
  cases a; cases b
  dsimp only at hhk hfab hcal
  subst hhk hfab hcal
  rfl

theorem regEvr_only (hb : ∀ p ∈ blockParts 4, p ∉ ps) : regEvr b off = regEvr a off := by
  have hevr : b.evr = a.evr := h .evr (hb _ (by decide))
  cases a; cases b
  dsimp only at hevr
  subst hevr
  rfl

theorem regOpt_only (hb : ∀ p ∈ blockParts 5, p ∉ ps) : regOpt b off = regOpt a off := by
  have hopt : b.opt = a.opt := h .opt (hb _ (by decide))
  cases a; cases b
  dsimp only at hopt
  subst hopt
  rfl

theorem regTick_only (hb : ∀ p ∈ blockParts 6, p ∉ ps) : regTick b off = regTick a off := by
  have htick : b.tick = a.tick := h .tick (hb _ (by decide))
  cases a; cases b
  dsimp only at htick
  subst htick
  rfl

/-- A block whose parts have not changed reads the same. -/
theorem regRead_only (block : Nat) (hb : ∀ p ∈ blockParts block, p ∉ ps) : regRead b block off = regRead a block off := by
  match block with
  | 0 => exact regSys_only h off hb
  | 1 => exact regMbx_only h off hb
  | 2 => exact regFlt_only h off hb
  | 3 => exact regHk_only h off hb
  | 4 => exact regEvr_only h off hb
  | 5 => exact regOpt_only h off hb
  | 6 => exact regTick_only h off hb
  | _ + 7 => rfl

end

/-- After a change within parts that one block alone shows, no register outside it reads otherwise. -/
theorem others_of_only {ps : List Part} {c e : Chip} {b o : Nat} (h : c.Only ps e)
    (hps : ∀ b' < 7, b' ≠ b → ∀ p ∈ blockParts b', p ∉ ps) (hsame : ∀ o', o' ≠ o → regRead e b o' = regRead c b o') (b' o' : Nat)
    (hne : ¬ (b' = b ∧ o' = o)) : regRead e b' o' = regRead c b' o' := by
  by_cases hb : b' = b
  · subst hb
    exact hsame o' fun ho => hne ⟨rfl, ho⟩
  · by_cases h7 : b' < 7
    · exact regRead_only h o' b' (hps b' h7 hb)
    · obtain ⟨k, rfl⟩ : ∃ k, b' = k + 7 := ⟨b' - 7, by omega⟩
      rfl

/-! #### Each plain register -/

section
variable (c : Chip) (d : RegData)

/-- The die budget (R25), as a write leaves it. -/
def setDieBudget : Chip := { c with sys := { c.sys with dieBudget := d.upd 0 (inRange 1024 8192) c.sys.dieBudget } }

theorem read_dieBudget :
    field (regRead c 0 0x0100).toNat 0 14 = c.sys.dieBudget.toNat ∧ field (regRead c 0 0x0100).toNat 14 50 = 0 := by
  have h1 := c.sys.dieBudget.isLt
  simp [regRead, regSys, regOf_toNat, field_div, fld_eq]
  omega

theorem setDieBudget_plain : PlainWritten c (setDieBudget c d) 0 0x0100 [⟨0, 14, inRange 1024 8192⟩] d where
  fields := by simp [read_dieBudget, setDieBudget, upd_toNat]
  rest := bits_of_gaps _ [(14, 50)] (by simp [read_dieBudget]) (by decide)
  others := others_of_only (ps := [.sys]) (by intro p hp; cases p <;> first | rfl | simp at hp) (by decide) fun o ho => by
    simp only [regRead, regSys, ho, if_false]
    rfl
  out := rfl

/-- The power limits (R26), as a write leaves them. -/
def setPowerLimits : Chip := { c with sys := { c.sys with
  pwrProofK := d.upd 32 anyVal c.sys.pwrProofK, pwrProofLen := d.upd 24 anyVal c.sys.pwrProofLen
  limitW := d.upd 0 (inRange 600 1050) c.sys.limitW } }

theorem read_powerLimits :
    let x := (regRead c 0 0x0110).toNat
    field x 0 11 = c.sys.limitW.toNat ∧ field x 24 8 = c.sys.pwrProofLen.toNat ∧ field x 32 8 = c.sys.pwrProofK.toNat
      ∧ field x 11 13 = 32 * bit c.sys.pwrActive ∧ field x 40 24 = 0 := by
  have h1 := c.sys.limitW.isLt
  have h2 := c.sys.pwrProofLen.isLt
  have h3 := c.sys.pwrProofK.isLt
  have h4 := bit_lt c.sys.pwrActive
  simp [regRead, regSys, regOf_toNat, field_div, fld_eq, flb_eq]
  omega

theorem setPowerLimits_plain : PlainWritten c (setPowerLimits c d) 0 0x0110
    [⟨0, 11, inRange 600 1050⟩, ⟨24, 8, anyVal⟩, ⟨32, 8, anyVal⟩] d where
  fields := by simp [read_powerLimits, setPowerLimits, upd_toNat]
  rest := bits_of_gaps _ [(11, 13), (40, 24)] (by simp [read_powerLimits, setPowerLimits]) (by decide)
  others := others_of_only (ps := [.sys]) (by intro p hp; cases p <;> first | rfl | simp at hp) (by decide) fun o ho => by
    simp only [regRead, regSys, ho, if_false]
    rfl
  out := rfl

/-- The wear limits (R104), as a write leaves them. -/
def setWear : Chip := { c with arr := { c.arr with
  wearWarn := d.upd 16 (inRange 1 10000) c.arr.wearWarn, slots := d.upd 0 (inRange 1 2048) c.arr.slots } }

theorem read_wear :
    let x := (regRead c 0 0x0200).toNat
    field x 0 12 = c.arr.slots.toNat ∧ field x 16 14 = c.arr.wearWarn.toNat
      ∧ field x 12 4 = 0 ∧ field x 30 34 = 4 * (c.arr.writes.filter (·.running)).length % 2 ^ 34 := by
  have h1 := c.arr.slots.isLt
  have h2 := c.arr.wearWarn.isLt
  simp [regRead, regSys, regOf_toNat, field_div, fld_eq, Nat.shiftLeft_eq]
  omega

theorem setWear_plain : PlainWritten c (setWear c d) 0 0x0200 [⟨0, 12, inRange 1 2048⟩, ⟨16, 14, inRange 1 10000⟩] d where
  fields := by simp [read_wear, setWear, upd_toNat]
  rest := bits_of_gaps _ [(12, 4), (30, 34)] (by simp [read_wear, setWear]) (by decide)
  others := others_of_only (ps := [.arr]) (by intro p hp; cases p <;> first | rfl | simp at hp) (by decide) fun o ho => by
    simp only [regRead, regSys, ho, if_false]
    rfl
  out := rfl

/-- The settings of scrubbing and refresh (R104, R105), as a write leaves them. -/
def setScrub : Chip := { c with arr := { c.arr with
  nvHours := d.upd 40 (inRange 1 168) c.arr.nvHours, sMs := d.upd 30 (inRange 1 1000) c.arr.sMs
  refreshT := d.upd 24 anyVal c.arr.refreshT, margin := d.upd 20 anyVal c.arr.margin
  sEn := d.updBit 1 c.arr.sEn, nvEn := d.updBit 0 c.arr.nvEn } }

theorem read_scrub :
    let x := (regRead c 0 0x0208).toNat
    field x 0 1 = bit c.arr.nvEn ∧ field x 1 1 = bit c.arr.sEn ∧ field x 20 4 = c.arr.margin.toNat
      ∧ field x 24 4 = c.arr.refreshT.toNat ∧ field x 30 10 = c.arr.sMs.toNat ∧ field x 40 8 = c.arr.nvHours.toNat
      ∧ field x 2 18 = 0 ∧ field x 28 2 = 0 ∧ field x 48 16 = 0 := by
  have h1 := c.arr.margin.isLt
  have h2 := c.arr.refreshT.isLt
  have h3 := c.arr.sMs.isLt
  have h4 := c.arr.nvHours.isLt
  have h5 := bit_lt c.arr.nvEn
  have h6 := bit_lt c.arr.sEn
  simp [regRead, regSys, regOf_toNat, field_div, fld_eq, flb_eq]
  omega

theorem setScrub_plain : PlainWritten c (setScrub c d) 0 0x0208
    [⟨0, 1, anyVal⟩, ⟨1, 1, anyVal⟩, ⟨20, 4, anyVal⟩, ⟨24, 4, anyVal⟩, ⟨30, 10, inRange 1 1000⟩, ⟨40, 8, inRange 1 168⟩] d where
  fields := by simp [read_scrub, setScrub, upd_toNat, updBit_toNat]
  rest := bits_of_gaps _ [(2, 18), (28, 2), (48, 16)] (by simp [read_scrub]) (by decide)
  others := others_of_only (ps := [.arr]) (by intro p hp; cases p <;> first | rfl | simp at hp) (by decide) fun o ho => by
    simp only [regRead, regSys, ho, if_false]
    rfl
  out := rfl

/-- The drain's limit (R228), as a write leaves it. -/
def setDrain : Chip := { c with rcp := { c.rcp with drainMs := d.upd 0 (inRange 1 10000) c.rcp.drainMs } }

theorem read_drain : field (regRead c 0 0x0418).toNat 0 14 = c.rcp.drainMs.toNat ∧ field (regRead c 0 0x0418).toNat 14 50 = 0 := by
  have h1 := c.rcp.drainMs.isLt
  simp [regRead, regSys, regRecipe, regOf_toNat, field_div, fld_eq]
  omega

theorem setDrain_plain : PlainWritten c (setDrain c d) 0 0x0418 [⟨0, 14, inRange 1 10000⟩] d where
  fields := by simp [read_drain, setDrain, upd_toNat]
  rest := bits_of_gaps _ [(14, 50)] (by simp [read_drain]) (by decide)
  others := others_of_only (ps := [.rcp]) (by intro p hp; cases p <;> first | rfl | simp at hp) (by decide) fun o ho => by
    simp only [regRead, regSys, regRecipe, ho, if_false]
    rfl
  out := rfl

/-- The source of the firmware image (R500), as a write leaves it. -/
def setBootSource : Chip := { c with boot := { c.boot with src := d.upd 0 anyVal c.boot.src } }

theorem read_bootSource : regRead c 0 0x0700 = c.boot.src := by simp [regRead, regSys]

theorem field_whole (x : Word64) : field x.toNat 0 64 = x.toNat := by
  rw [field_div, Nat.pow_zero, Nat.div_one, Nat.mod_eq_of_lt x.isLt]

theorem setBootSource_plain : PlainWritten c (setBootSource c d) 0 0x0700 [⟨0, 64, anyVal⟩] d where
  fields := by
    intro f hf
    obtain rfl := List.mem_singleton.1 hf
    rw [read_bootSource, read_bootSource]
    exact (field_whole _).trans ((upd_toNat d 0 anyVal c.boot.src).trans (congrArg _ (field_whole c.boot.src).symm))
  rest := bits_of_gaps _ [] (by simp) (by decide)
  others := others_of_only (ps := [.boot]) (by intro p hp; cases p <;> first | rfl | simp at hp) (by decide) fun o ho => by
    simp only [regRead, regSys, ho, if_false]
    rfl
  out := rfl

/-- The settings of the optical block (R358), as a write leaves them. -/
def setOptics : Chip := { c with opt := { c.opt with
  autoReinstate := d.updBit 8 c.opt.autoReinstate, tunnelPref := d.updBit 0 c.opt.tunnelPref } }

theorem read_optics :
    let x := (regRead c 5 0x0200).toNat
    field x 0 1 = bit c.opt.tunnelPref ∧ field x 8 1 = bit c.opt.autoReinstate ∧ field x 1 7 = 0 ∧ field x 9 55 = 0 := by
  have h1 := bit_lt c.opt.tunnelPref
  have h2 := bit_lt c.opt.autoReinstate
  simp [regRead, regOpt, regOf_toNat, field_div, flb_eq]
  omega

theorem setOptics_plain : PlainWritten c (setOptics c d) 5 0x0200 [⟨0, 1, anyVal⟩, ⟨8, 1, anyVal⟩] d where
  fields := by simp [read_optics, setOptics, updBit_toNat]
  rest := bits_of_gaps _ [(1, 7), (9, 55)] (by simp [read_optics]) (by decide)
  others := others_of_only (ps := [.opt]) (by intro p hp; cases p <;> first | rfl | simp at hp) (by decide) fun o ho => by
    simp only [regRead, regOpt, ho, if_false]
    rfl
  out := rfl

end
end Sys2Proof.Proofs

namespace Sys2Proof.Proofs
open Sys2Proof.Machine Sys2Proof.Laws

/-! #### The registers of a kind that repeats: timeout classes and the snapshot list -/

theorem regIdx_eq_some {off base count n : Nat} : regIdx off base count = some n ↔ off = base + 8 * n ∧ n < count := by
  unfold regIdx
  split
  · simp only [Option.some.injEq]
    omega
  · simp only [reduceCtorEq, false_iff]
    omega

theorem regIdx_at {base count n : Nat} (hn : n < count) : regIdx (base + 8 * n) base count = some n :=
  regIdx_eq_some.2 ⟨rfl, hn⟩

theorem regIdx_eq_none {off base count : Nat} (h : off < base ∨ base + 8 * count ≤ off) : regIdx off base count = none := by
  unfold regIdx
  rw [if_neg (by omega)]

theorem setAt_getD {α : Type} {size : Nat} (v : Vector α size) (i k : Nat) (x y : α) (hi : i < size) :
    (setAt v i x).toList.getD k y = if k = i then x else v.toList.getD k y := by
  rw [setAt, dif_pos hi, List.getD_eq_getElem?_getD, List.getD_eq_getElem?_getD]
  by_cases hk : k = i
  · subst hk
    simp [hi]
  · simp [hk, Ne.symm hk]

section
variable (c : Chip) (d : RegData) {n : Nat}

/-- The timeout class `n` (R130, R149), as a write leaves it. -/
def setTimeout (n : Nat) : Chip := { c with so := { c.so with
  tclass := setAt c.so.tclass n (d.upd 0 (inRange 2 1000000) (c.so.tclass.toList.getD n 0)) } }

theorem regSys_so {off : Nat} (h : 0x0308 ≤ off ∧ off < 0x0350) : regSys c off = regSo c off := by
  unfold regSys
  iterate 12 rw [if_neg (by omega)]
  rw [if_pos h]

theorem read_timeout (hn : n < 8) :
    regRead c 0 (0x0310 + 8 * n) = regOf [flb 24 (fixedClass n), (c.so.tclass.toList.getD n 0).toNat] := by
  rw [regRead, regSys_so c (by omega)]
  unfold regSo
  rw [if_neg (by omega), regIdx_at hn]

theorem read_timeout_fields (hn : n < 8) :
    let x := (regRead c 0 (0x0310 + 8 * n)).toNat
    field x 0 24 = (c.so.tclass.toList.getD n 0).toNat ∧ field x 24 40 = bit (fixedClass n) := by
  have h1 := (c.so.tclass.toList.getD n 0).isLt
  have h2 := bit_lt (fixedClass n)
  simp only [read_timeout c hn, regOf_toNat, field_div, flb_eq, List.foldl]
  omega

theorem regSo_setTimeout (hn : n < 8) {off : Nat} (hoff : off ≠ 0x0310 + 8 * n) : regSo (setTimeout c d n) off = regSo c off := by
  unfold regSo
  split
  · rfl
  · cases h : regIdx off 0x0310 8 with
    | none => rfl
    | some k =>
      have hk : k ≠ n := fun hkn => hoff (hkn ▸ (regIdx_eq_some.1 h).1)
      simp only [setTimeout, setAt_getD _ _ _ _ _ hn, hk, if_false]

theorem setTimeout_plain (hn : n < 8) :
    PlainWritten c (setTimeout c d n) 0 (0x0310 + 8 * n) [⟨0, 24, inRange 2 1000000⟩] d where
  fields := by
    simp only [List.mem_singleton, forall_eq, read_timeout_fields _ hn, setTimeout, setAt_getD _ _ _ _ _ hn, if_true, upd_toNat]
  rest := bits_of_gaps _ [(24, 40)] (by simp [read_timeout_fields _ hn]) (by decide)
  others := others_of_only (ps := [.so]) (by intro p hp; cases p <;> first | rfl | simp at hp) (by decide) fun o ho => by
    simp only [regRead, regSys, regSo_setTimeout c d hn ho]
    rfl
  out := rfl

/-- Entry `n` of the snapshot list (R453), as a write leaves it. -/
def setSnap (n : Nat) : Chip := c.modEvr fun e => { e with snap := smod snapReset e.snap n fun s =>
  { en := d.updBit 19 s.en, block := d.upd 16 anyVal s.block, offset := d.upd 3 anyVal s.offset, half := d.updBit 0 s.half } }

/-- An entry of the snapshot list, as its register shows it. -/
def snapWord (s : EvSnap) : Word64 := regOf [flb 19 s.en, fld 16 s.block, fld 3 s.offset, flb 0 s.half]

theorem read_snap (hn : n < 48) : regRead c 4 (0x0100 + 8 * n) = snapWord (sget snapReset c.evr.snap n) := by
  rw [regRead]
  unfold regEvr
  dsimp only
  iterate 4 rw [if_neg (by omega)]
  rw [regIdx_at hn]
  rfl

theorem snapWord_fields (s : EvSnap) :
    let x := (snapWord s).toNat
    field x 0 1 = bit s.half ∧ field x 3 13 = s.offset.toNat ∧ field x 16 3 = s.block.toNat ∧ field x 19 1 = bit s.en
      ∧ field x 1 2 = 0 ∧ field x 20 44 = 0 := by
  have h1 := bit_lt s.half
  have h2 := s.offset.isLt
  have h3 := s.block.isLt
  have h4 := bit_lt s.en
  simp only [snapWord, regOf_toNat, field_div, fld_eq, flb_eq, List.foldl]
  omega

theorem regEvr_setSnap {off : Nat} (hoff : off ≠ 0x0100 + 8 * n) : regEvr (setSnap c d n) off = regEvr c off := by
  unfold regEvr
  dsimp only
  cases h : regIdx off 0x0100 48 with
  | none => rfl
  | some k =>
    have hk : k ≠ n := fun hkn => hoff (hkn ▸ (regIdx_eq_some.1 h).1)
    have hsnap : sget snapReset (setSnap c d n).evr.snap k = sget snapReset c.evr.snap k := by
      unfold setSnap Chip.modEvr
      rw [sget_smod_other snapReset _ _ _ _ hk]
    dsimp only
    rw [hsnap]
    rfl

theorem setSnap_plain (hn : n < 48) :
    PlainWritten c (setSnap c d n) 4 (0x0100 + 8 * n) [⟨0, 1, anyVal⟩, ⟨3, 13, anyVal⟩, ⟨16, 3, anyVal⟩, ⟨19, 1, anyVal⟩] d where
  fields := by simp [read_snap _ hn, snapWord_fields, setSnap, upd_toNat, updBit_toNat]
  rest := bits_of_gaps _ [(1, 2), (20, 44)] (by simp [read_snap _ hn, snapWord_fields]) (by decide)
  others := others_of_only (ps := [.evr]) (by intro p hp; cases p <;> first | rfl | simp at hp) (by decide) fun o ho =>
    regEvr_setSnap c d ho
  out := rfl

end
end Sys2Proof.Proofs

namespace Sys2Proof.Proofs
open Sys2Proof.Machine Sys2Proof.Laws

/-! ### Host writes of registers -/

theorem hostMap_reg {b o : Nat} (hb : b < 7) (ho : o < 0x1_0000) : hostMap (BitVec.ofNat 40 (b * 0x1_0000 + o)) = .reg b o := by
  have hn : (BitVec.ofNat 40 (b * 0x1_0000 + o)).toNat = b * 0x1_0000 + o := by
    rw [BitVec.toNat_ofNat]
    omega
  rw [hostMap, hn, if_pos (by omega), show (b * 0x1_0000 + o) / 0x1_0000 = b by omega, show (b * 0x1_0000 + o) % 0x1_0000 = o by omega]

/-- A host access over a module that is up does what it says. -/
theorem onChip_hostAccess {s : State} {m : UcieIx} (hm : s.chip.sys.ucieUp.getLsbD m.toNat = true) (f : Chip → Chip) :
    (s.onChip fun c => c.hostAccess m f) = .next { s with chip := f s.chip } := by
  have hf : s.chip.hostAccess m f = f s.chip := if_pos hm
  rw [State.onChip, hf]

/-- A host write of a register over a module that is up. -/
theorem exec_hostRegWrite {s : State} {m : UcieIx} (hm : s.chip.sys.ucieUp.getLsbD m.toNat = true) {b o : Nat} {addr : BitVec 40}
    (haddr : hostMap addr = .reg b o) (v : RegWidth) (data : Word64) :
    exec (.hostRegWrite m addr v data) s = .next { s with chip := s.chip.regWrite b (o - o % 8) (RegData.of v data) } := by
  unfold exec execHostRegWrite
  simp only [onChip_hostAccess hm, haddr]

section
variable {s : State} {m : UcieIx} (hm : s.chip.sys.ucieUp.getLsbD m.toNat = true) (v : RegWidth) (data : Word64)
include hm

/-- A host write of the register at an offset of a block. -/
theorem exec_regWrite_at {b o : Nat} (hb : b < 7) (ho : o < 0x1_0000) (h8 : o % 8 = 0) :
    exec (.hostRegWrite m (BitVec.ofNat 40 (b * 0x1_0000 + o)) v data) s
      = .next { s with chip := s.chip.regWrite b o (RegData.of v data) } := by
  rw [exec_hostRegWrite hm (hostMap_reg hb ho), h8, Nat.sub_zero]

end

/-- An entry put back where it stands. -/
theorem setAt_same {α : Type} {size i : Nat} (v : Vector α size) (hi : i < size) (y : α) :
    setAt v i (v.toList.getD i y) = v := by
  rw [setAt, dif_pos hi]
  simp [hi]

/-- What a write leaves of a timeout class (R149). -/
theorem upd_timeout (n : Nat) (old : BitVec 24) (v : RegWidth) (data : Word64) (h : fixedClass n = false) : 
    (RegData.of v data).upd 0 (inRange 2 1000000) old =
      if (RegData.of v data).touches 0 && !fixedClass n && inRange 2 1000000 ((RegData.of v data).val 0 24)
      then BitVec.ofNat 24 ((RegData.of v data).val 0 24) else old := by
  rw [upd_low _ _ _ _ (by decide), h, Bool.not_false, Bool.and_true]

section
variable (c : Chip) (v : RegWidth) (data : Word64)

theorem regWrite_zero (o : Nat) (d : RegData) : c.regWrite 0 o d = (c.writeSys o d).writeServe o d := rfl

theorem regWrite_four (o : Nat) (d : RegData) : c.regWrite 4 o d = c.writeEvr o d := rfl

/-- Where no register of sync objects and serving lies, a write of the SYS block is one of its own registers. -/
theorem regWrite_sys {o : Nat} (d : RegData) (h : o ≠ 0x0608) (h2 : o < 0x0310 ∨ 0x0350 ≤ o) : c.regWrite 0 o d = c.writeSys o d := by
  rw [regWrite_zero, Chip.writeServe, if_neg h, regIdx_eq_none (by omega)]

theorem regWrite_dieBudget (h : c.sys.armLocked = false) :
    c.regWrite 0 0x0100 (RegData.of v data) = setDieBudget c (RegData.of v data) := by
  rw [regWrite_sys _ _ (by decide) (by decide), Chip.writeSys, if_pos rfl, h]
  by_cases ht : (RegData.of v data).touches 0 = true
  · simp [ht, setDieBudget]
  · have hd : (RegData.of v data).upd 0 (inRange 1024 8192) c.sys.dieBudget = c.sys.dieBudget := by
      rw [upd_low _ _ _ _ (by decide)]
      simp [ht]
    simp [ht, setDieBudget, hd]

theorem regWrite_powerLimits (d : RegData) : c.regWrite 0 0x0110 d = setPowerLimits c d :=
  regWrite_sys c d (by decide) (by decide)

theorem regWrite_wear (d : RegData) : c.regWrite 0 0x0200 d = setWear c d := regWrite_sys c d (by decide) (by decide)

theorem regWrite_scrub (d : RegData) : c.regWrite 0 0x0208 d = setScrub c d := regWrite_sys c d (by decide) (by decide)

theorem regWrite_drain (d : RegData) : c.regWrite 0 0x0418 d = setDrain c d := regWrite_sys c d (by decide) (by decide)

/-- A field that is a whole register. -/
theorem upd_whole (d : RegData) (x : Word64) : d.upd 0 anyVal x = (x &&& ~~~d.mask) ||| (d.data &&& d.mask) := by
  have hm : d.merged 0 x = (x &&& ~~~d.mask) ||| (d.data &&& d.mask) := by
    rw [RegData.merged, BitVec.extractLsb'_eq_self, BitVec.extractLsb'_eq_self, BitVec.or_comm]
  rw [RegData.upd, BitVec.extractLsb'_eq_self, hm]
  by_cases h : d.mask = 0#64
  · rw [h, BitVec.not_zero, BitVec.and_allOnes, BitVec.and_zero, BitVec.or_zero]
    exact ite_self _
  · rw [if_pos (by simpa [anyVal] using h)]

theorem regWrite_bootSource (d : RegData) (h : c.boot.locked = false) : c.regWrite 0 0x0700 d = setBootSource c d := by
  rw [regWrite_sys c d (by decide) (by decide), setBootSource, upd_whole]
  simp [Chip.writeSys, h]

theorem regWrite_optics (d : RegData) : c.regWrite 5 0x0200 d = setOptics c d := rfl

theorem regWrite_timeout {n : Nat} (hn : n < 8) (hfix : fixedClass n = false) :
    c.regWrite 0 (0x0310 + 8 * n) (RegData.of v data) = setTimeout c (RegData.of v data) n := by
  have hsys : c.writeSys (0x0310 + 8 * n) (RegData.of v data) = c := by
    unfold Chip.writeSys
    iterate 7 rw [if_neg (by omega)]
  rw [regWrite_zero, hsys, Chip.writeServe, if_neg (by omega), regIdx_at hn, setTimeout, upd_timeout n _ _ _ hfix]
  dsimp only
  split
  · rfl
  · rw [setAt_same _ hn]

theorem regWrite_snap {n : Nat} (hn : n < 48) (d : RegData) : c.regWrite 4 (0x0100 + 8 * n) d = setSnap c d n := by
  rw [regWrite_four, Chip.writeEvr, if_neg (by omega), regIdx_at hn]
  rfl
end
end Sys2Proof.Proofs

namespace Sys2Proof.Proofs
open Sys2Proof.Machine Sys2Proof.Laws

/-! ### The clauses of O9 on register writes -/

/-- A write of any of the plain registers leaves them as R4 and R5 say. -/
theorem plainRegs_written (c : Chip) (v : RegWidth) (data : Word64) (harm : c.sys.armLocked = false) (hboot : c.boot.locked = false)
    {r : Nat × Nat × List RegField} (hr : r ∈ plainRegs) :
    (r.1 < 7 ∧ r.2.1 < 0x1_0000 ∧ r.2.1 % 8 = 0) ∧
      PlainWritten c (c.regWrite r.1 r.2.1 (RegData.of v data)) r.1 r.2.1 r.2.2 (RegData.of v data) := by
  rw [plainRegs, List.mem_append, List.mem_append] at hr
  obtain (hr | hr) | hr := hr
  · simp only [List.mem_cons, List.not_mem_nil, or_false] at hr
    obtain rfl | rfl | rfl | rfl | rfl | rfl | rfl := hr
    · exact ⟨by decide, regWrite_dieBudget c v data harm ▸ setDieBudget_plain _ _⟩
    · exact ⟨by decide, setPowerLimits_plain _ _⟩
    · exact ⟨by decide, setWear_plain _ _⟩
    · exact ⟨by decide, setScrub_plain _ _⟩
    · exact ⟨by decide, setDrain_plain _ _⟩
    · exact ⟨by decide, regWrite_bootSource c _ hboot ▸ setBootSource_plain _ _⟩
    · exact ⟨by decide, setOptics_plain _ _⟩
  · obtain ⟨n, hn, rfl⟩ := List.mem_map.1 hr
    have hlt : n < 8 ∧ fixedClass n = false := by
      clear hr
      revert n
      decide
    exact ⟨by dsimp only; omega, regWrite_timeout c v data hlt.1 hlt.2 ▸ setTimeout_plain _ _ hlt.1⟩
  · obtain ⟨n, hn, rfl⟩ := List.mem_map.1 hr
    have hlt : n < 48 := List.mem_range.1 hn
    exact ⟨by dsimp only; omega, regWrite_snap c hlt _ ▸ setSnap_plain _ _ hlt⟩

section
variable {s : State} {m : UcieIx} (hm : s.chip.sys.ucieUp.getLsbD m.toNat = true) (v : RegWidth) (data : Word64)
include hm

theorem exec_plainRegs (harm : s.chip.sys.armLocked = false) (hboot : s.chip.boot.locked = false)
    {r : Nat × Nat × List RegField} (hr : r ∈ plainRegs) :
    ∃ u, exec (.hostRegWrite m (BitVec.ofNat 40 (r.1 * 0x1_0000 + r.2.1)) v data) s = .next u
      ∧ (∀ f ∈ r.2.2, field (regRead u.chip r.1 r.2.1).toNat f.lo f.width =
        fieldAfter (RegData.of v data) f (field (regRead s.chip r.1 r.2.1).toNat f.lo f.width))
      ∧ (∀ k, (∀ f ∈ r.2.2, ¬ (f.lo ≤ k ∧ k < f.lo + f.width)) →
        (regRead u.chip r.1 r.2.1).getLsbD k = (regRead s.chip r.1 r.2.1).getLsbD k)
      ∧ (∀ b o, ¬ (b = r.1 ∧ o = r.2.1) → regRead u.chip b o = regRead s.chip b o)
      ∧ u.far = s.far ∧ u.pending = s.pending ∧ u.chip.out = s.chip.out := by
  obtain ⟨⟨hb, ho, h8⟩, h⟩ := plainRegs_written s.chip v data harm hboot hr
  exact ⟨_, exec_regWrite_at hm v data hb ho h8, h.fields, h.rest, h.others, rfl, rfl, h.out⟩

/-- FLT_SRC_CFGn takes a write as `cfgSource` says (R394). -/
theorem exec_fltSrcCfg {n : Nat} (hn : n < 192) (hdef : (defaultTally n).isSome = true) :
    ∃ u, exec (.hostRegWrite m (BitVec.ofNat 40 (0x2_1000 + 8 * n)) v data) s = .next u
      ∧ u.chip.fltSrc n = cfgSource n (RegData.of v data) (s.chip.fltSrc n)
      ∧ (∀ k, k ≠ n → u.chip.fltSrc k = s.chip.fltSrc k) ∧ Only [.flt] s u := by
  have hwrite : s.chip.regWrite 2 (0x1000 + 8 * n) (RegData.of v data)
      = s.chip.modFlt fun f => { f with src := smod fltSrcReset f.src n (cfgSource n (RegData.of v data)) } := by
    rw [Chip.regWrite, Chip.writeFlt, if_neg (by omega), if_neg (by omega), regIdx_at hn]
    dsimp only
    rw [if_neg (by simpa [Option.isSome_iff_ne_none] using hdef)]
  have hexec := exec_regWrite_at hm v data (b := 2) (o := 0x1000 + 8 * n) (by decide) (by omega) (by omega)
  rw [hwrite, ← Nat.add_assoc] at hexec
  refine ⟨_, hexec, ?_, fun k hk => ?_, rfl, rfl, modFlt_only _ _⟩
  · simp [Chip.fltSrc]
  · simp [Chip.fltSrc, sget_smod_other _ _ _ _ _ hk]

/-- A write to the locked fire budget is reported and changes nothing else of the SYS block (R5, R521). -/
theorem exec_lockedBudget (harm : s.chip.sys.armLocked = true) (hv : v ≠ .high) :
    ∃ u, exec (.hostRegWrite m 0x00100 v data) s = .next u
      ∧ u.chip.sys = s.chip.sys ∧ Counted s.chip u.chip Src.lockedRegWrite 0x100 ∧ Only reportParts s u := by
  have hwrite : s.chip.regWrite 0 0x0100 (RegData.of v data) = s.chip.tally Src.lockedRegWrite 0x100 := by
    rw [regWrite_sys _ _ (by decide) (by decide), Chip.writeSys, if_pos rfl, touches_low hv, harm]
    rfl
  have honly := tally_only s.chip Src.lockedRegWrite 0x100
  have hexec := exec_regWrite_at hm v data (b := 0) (o := 0x0100) (by decide) (by decide) (by decide)
  rw [hwrite] at hexec
  exact ⟨_, hexec, honly .sys (by decide), tally_counted _ _ _ (by decide) (by decide), rfl, rfl, honly⟩

/-! #### Registers whose write is a command -/

/-- A register's write is another host command when both do the same to the chip. -/
theorem exec_regWrite_command {b o : Nat} {f : Chip → Chip} {r : Result} (hb : b < 7) (ho : o < 0x1_0000) (h8 : o % 8 = 0)
    (hr : r = s.onChip fun c => c.hostAccess m f) (hf : s.chip.regWrite b o (RegData.of v data) = f s.chip) :
    exec (.hostRegWrite m (BitVec.ofNat 40 (b * 0x1_0000 + o)) v data) s = r := by
  rw [exec_regWrite_at hm v data hb ho h8, hr, onChip_hostAccess hm, hf]

omit hm in
theorem of_data (hv : v ≠ .high) : (RegData.of v data).data = data := by
  cases v with
  | full => rfl
  | low => rfl
  | high => exact absurd rfl hv

omit hm in
theorem ofNat_val (w : Nat) (hv : v ≠ .high) : BitVec.ofNat w ((RegData.of v data).val 0 w) = data.setWidth w := by
  rw [RegData.val, of_data v data hv, field_div, Nat.pow_zero, Nat.div_one]
  apply BitVec.eq_of_toNat_eq
  simp

omit hm in
/-- A bit of the low half that a write of the register or of its low half drives. -/
theorem one_low {k : Nat} (hk : k < 32) (hv : v ≠ .high) : (RegData.of v data).one k = data.getLsbD k := by
  have hmask : (0x0000_0000_FFFF_FFFF : Word64).getLsbD k = true := by
    rw [show (0x0000_0000_FFFF_FFFF : Word64) = BitVec.ofNat 64 (2 ^ 32 - 1) from rfl, BitVec.getLsbD_ofNat,
      Nat.testBit_two_pow_sub_one]
    simp [hk]
    omega
  cases v with
  | full => simp only [RegData.one, RegData.touches, RegData.of, BitVec.getLsbD_allOnes, show k < 64 by omega, decide_true, Bool.true_and]
  | low => simp only [RegData.one, RegData.touches, RegData.of, hmask, Bool.true_and]
  | high => exact absurd rfl hv

theorem exec_tokenRingTail : exec (.hostRegWrite m 0x00608 .high data) s = exec (.tokenRingTailWrite m (data.setWidth 32)) s := by
  refine exec_regWrite_command hm .high data (b := 0) (o := 0x0608) (by decide) (by decide) (by decide)
    (f := fun c => c.writeTail (data.setWidth 32)) (by unfold exec; rfl) ?_
  have hval : BitVec.ofNat 32 ((RegData.of .high data).val 32 32) = data.setWidth 32 := by
    apply BitVec.eq_of_toNat_eq
    simp [RegData.val, RegData.of, field_div, BitVec.toNat_shiftLeft, Nat.shiftLeft_eq]
    omega
  have hsys : s.chip.writeSys 0x0608 (RegData.of .high data) = s.chip := by simp [Chip.writeSys]
  rw [regWrite_zero, hsys, Chip.writeServe, if_pos rfl, hval, if_pos (by simp [RegData.touches, RegData.of])]

theorem exec_bootLen : exec (.hostRegWrite m 0x00708 v data) s = exec (.bootLenWrite m v data) s :=
  exec_regWrite_command hm v data (b := 0) (o := 0x0708) (by decide) (by decide) (by decide)
    (f := fun c => c.writeBootLen (RegData.of v data)) (by unfold exec; rfl) (regWrite_sys _ _ (by decide) (by decide))

theorem exec_mbxCtl : exec (.hostRegWrite m 0x10000 v data) s = exec (.mbxCtlWrite m v data) s :=
  exec_regWrite_command hm v data (b := 1) (o := 0) (by decide) (by decide) (by decide)
    (f := fun c => c.writeMbxCtl (RegData.of v data)) (by unfold exec; rfl) rfl

theorem exec_tickClr (hv : v ≠ .high) :
    exec (.hostRegWrite m 0x60020 v data) s = exec (.tickClrWrite m (data.getLsbD 0)) s := by
  refine exec_regWrite_command hm v data (b := 6) (o := 0x0020) (by decide) (by decide) (by decide)
    (f := fun c => if data.getLsbD 0 then c.clearGroupMax else c) (by unfold exec; rfl) ?_
  rw [Chip.regWrite, Chip.writeTick, one_low v data (by decide) hv]
  rfl

theorem exec_evrFlush (hv : v ≠ .high) (h0 : data.getLsbD 0 = true) :
    exec (.hostRegWrite m 0x40018 v data) s = exec (.evrFlushWrite m) s := by
  refine exec_regWrite_command hm v data (b := 4) (o := 0x0018) (by decide) (by decide) (by decide)
    (f := Chip.flushCommand) (by unfold exec; rfl) ?_
  rw [regWrite_four, Chip.writeEvr, if_pos rfl, one_low v data (by decide) hv, h0, if_pos rfl]

theorem exec_portEnable (hv : v ≠ .high) (h1 : data.getLsbD 1 = false) (p : PortIx) :
    exec (.hostRegWrite m (BitVec.ofNat 40 (0x5_0010 + 0x40 * p.toNat)) v data) s
      = exec (.portEnableWrite m p (data.getLsbD 0)) s := by
  have hp := p.isLt
  have hport : BitVec.ofNat 3 ((0x10 + 0x40 * p.toNat) / 0x40) = p := by
    rw [show (0x10 + 0x40 * p.toNat) / 0x40 = p.toNat by omega, BitVec.ofNat_toNat, BitVec.setWidth_eq]
  rw [show 0x5_0010 + 0x40 * p.toNat = 5 * 0x1_0000 + (0x10 + 0x40 * p.toNat) by omega]
  refine exec_regWrite_command hm v data (by decide) (by omega) (by omega)
    (f := fun c => if (c.port p).enable == data.getLsbD 0 then c else c.portEnable p (data.getLsbD 0)) (by unfold exec; rfl) ?_
  rw [Chip.regWrite, Chip.writeOpt, if_neg (by omega), if_pos (by omega), hport, touches_low hv, one_low v data (by decide) hv, h1,
    of_data v data hv]
  simp only [Bool.not_true, Bool.false_eq_true, if_false]
  rw [Bool.beq_comm]

theorem exec_sqDoorbell (hv : v ≠ .high) (q : QueueIx) :
    exec (.hostRegWrite m (BitVec.ofNat 40 (0x1_0100 + 16 * q.toNat)) v data) s = exec (.mbxSqDoorbell m q (data.setWidth 6)) s := by
  have hq := q.isLt
  rw [show 0x1_0100 + 16 * q.toNat = 1 * 0x1_0000 + (0x0100 + 8 * (2 * q.toNat)) by omega]
  refine exec_regWrite_command hm v data (by decide) (by omega) (by omega)
    (f := fun c => c.sqDoorbell q (data.setWidth 6)) (by unfold exec; rfl) ?_
  rw [Chip.regWrite, Chip.writeMbx, if_neg (by omega), regIdx_at (by omega), touches_low hv, ofNat_val v data 6 hv]
  simp

theorem exec_cqDoorbell (hv : v ≠ .high) (q : QueueIx) :
    exec (.hostRegWrite m (BitVec.ofNat 40 (0x1_0108 + 16 * q.toNat)) v data) s = exec (.mbxCqDoorbell m q (data.setWidth 8)) s := by
  have hq := q.isLt
  rw [show 0x1_0108 + 16 * q.toNat = 1 * 0x1_0000 + (0x0100 + 8 * (2 * q.toNat + 1)) by omega]
  refine exec_regWrite_command hm v data (by decide) (by omega) (by omega)
    (f := fun c => c.cqDoorbell q (data.setWidth 8)) (by unfold exec; rfl) ?_
  rw [Chip.regWrite, Chip.writeMbx, if_neg (by omega), regIdx_at (by omega), touches_low hv, ofNat_val v data 8 hv]
  simp [show (2 * q.toNat + 1) / 2 = q.toNat by omega, Nat.add_mod]

theorem exec_summaryClr (hv : v ≠ .high) (h8 : data.getLsbD 8 = true) (h1 : data.getLsbD 1 = false) :
    exec (.hostRegWrite m 0x20000 v data) s = exec (.fltSummaryClr m) s := by
  refine exec_regWrite_command hm v data (b := 2) (o := 0) (by decide) (by decide) (by decide)
    (f := Chip.clearFirst) (by unfold exec; rfl) ?_
  rw [Chip.regWrite, Chip.writeFlt, if_pos rfl, one_low v data (by decide) hv, one_low v data (by decide) hv, h8, h1]
  rfl

theorem exec_ctlEnter : exec (.hostRegWrite m 0x20008 .low 1) s = exec (.fltCtlEnter m) s := by
  refine exec_regWrite_command hm .low 1 (b := 2) (o := 8) (by decide) (by decide) (by decide)
    (f := Chip.enterCommand) (by unfold exec; rfl) ?_
  have hdelay : (RegData.of .low 1).upd 32 (inRange 10 10000) s.chip.flt.resetDelayMs = s.chip.flt.resetDelayMs :=
    upd_untouched _ _ _ _ (by decide)
  have hhold : (RegData.of .low 1).upd 16 (inRange 25 4000) s.chip.flt.holdUs = s.chip.flt.holdUs := by
    rw [upd_driven _ _ _ _ (by decide) (by decide)]
    rfl
  rw [Chip.regWrite, Chip.writeFlt, if_neg (by decide), if_pos rfl, Chip.modFlt, hdelay, hhold]
  rfl

omit hm in
/-- The clear register of a fault source (R395). -/
theorem regWrite_fltClear (c : Chip) {n : Nat} (hn : n < 192) (hv : v ≠ .high) :
    c.regWrite 2 (0x2000 + 8 * n) (RegData.of v data) =
      if data.getLsbD 0 then (if data.getLsbD 1 then c.clearSevere n else c).clearSticky n
      else if data.getLsbD 1 then c.clearSevere n else c := by
  rw [Chip.regWrite, Chip.writeFlt, if_neg (by omega), if_neg (by omega), regIdx_eq_none (by omega), regIdx_at hn,
    one_low v data (by decide) hv, one_low v data (by decide) hv]

theorem exec_severeClear (hv : v ≠ .high) {n : Nat} (hn : n < 192) (h0 : data.getLsbD 0 = false) (h1 : data.getLsbD 1 = true) :
    exec (.hostRegWrite m (BitVec.ofNat 40 (0x2_2000 + 8 * n)) v data) s
      = exec (.fltSrcSevereClear m (BitVec.ofNat 8 n) none) s := by
  have hsrc : (BitVec.ofNat 8 n).toNat = n := by rw [BitVec.toNat_ofNat]; omega
  rw [show 0x2_2000 + 8 * n = 2 * 0x1_0000 + (0x2000 + 8 * n) by omega]
  refine exec_regWrite_command hm v data (by decide) (by omega) (by omega)
    (f := fun c => if (BitVec.ofNat 8 n).toNat < 192 then c.clearSevere (BitVec.ofNat 8 n).toNat else c) (by unfold exec; rfl) ?_
  rw [regWrite_fltClear v data _ hn hv, h0, h1, hsrc, if_pos hn]
  rfl

theorem exec_stickyClear (hv : v ≠ .high) {n : Nat} (hn : n < 192) (h0 : data.getLsbD 0 = true) (h1 : data.getLsbD 1 = false) :
    exec (.hostRegWrite m (BitVec.ofNat 40 (0x2_2000 + 8 * n)) v data) s
      = exec (.fltSrcStickyClear m (BitVec.ofNat 8 n) none) s := by
  have hsrc : (BitVec.ofNat 8 n).toNat = n := by rw [BitVec.toNat_ofNat]; omega
  rw [show 0x2_2000 + 8 * n = 2 * 0x1_0000 + (0x2000 + 8 * n) by omega]
  refine exec_regWrite_command hm v data (by decide) (by omega) (by omega)
    (f := fun c => if (BitVec.ofNat 8 n).toNat < 192 then c.clearSticky (BitVec.ofNat 8 n).toNat else c) (by unfold exec; rfl) ?_
  rw [regWrite_fltClear v data _ hn hv, h0, h1, hsrc, if_pos hn]
  rfl

/-! #### Registers that ignore writes, and addresses outside the map -/

theorem exec_hkWrite {a : BitVec 40} (h1 : 0x3_0000 ≤ a.toNat) (h2 : a.toNat < 0x4_0000) :
    exec (.hostRegWrite m a v data) s = .next s := by
  have hmap : hostMap a = .reg 3 (a.toNat % 0x1_0000) := by
    rw [hostMap, if_pos (by omega), show a.toNat / 0x1_0000 = 3 by omega]
  exact exec_hostRegWrite hm hmap v data

theorem exec_unassigned {o : Nat} (ho : o ∈ [0x0000, 0x0008, 0x0010, 0x0018, 0x0108, 0x0210, 0x0218, 0x0300, 0x0308, 0x0400,
    0x0500, 0x0600, 0x0FF8, 0xFFF8]) : exec (.hostRegWrite m (BitVec.ofNat 40 o) v data) s = .next s := by
  have hplace : (o < 0x1_0000 ∧ o % 8 = 0 ∧ o ≠ 0x0608 ∧ (o < 0x0310 ∨ 0x0350 ≤ o))
      ∧ ∀ r ∈ [0x0100, 0x0110, 0x0200, 0x0208, 0x0418, 0x0700, 0x0708], o ≠ r := by
    revert o
    decide
  obtain ⟨⟨hlt, h8, h608, hso⟩, hne⟩ := hplace
  simp only [List.forall_mem_cons] at hne
  obtain ⟨n1, n2, n3, n4, n5, n6, n7, -⟩ := hne
  have hwrite : s.chip.regWrite 0 o (RegData.of v data) = s.chip := by
    rw [regWrite_sys _ _ h608 hso, Chip.writeSys, if_neg n1, if_neg n2, if_neg n3, if_neg n4, if_neg n5, if_neg n6, if_neg n7]
  have hexec := exec_regWrite_at hm v data (b := 0) (by decide) hlt h8
  rwa [hwrite, Nat.zero_mul, Nat.zero_add] at hexec

theorem exec_outsideWrite {a : BitVec 40} (ha : hostMap a = .outside) :
    exec (.hostRegWrite m a v data) s = .next { s with chip := { s.chip with sys := { s.chip.sys with
      lastAddr := if v = .high then a + 4 else a, lastWrite := true, unmapped := satAdd s.chip.sys.unmapped 1 } } } := by
  unfold exec execHostRegWrite
  simp only [onChip_hostAccess hm, ha]
  rfl

end
end Sys2Proof.Proofs

namespace Sys2Proof.Proofs
open Sys2Proof.Machine Sys2Proof.Laws

/-! ### The clauses of O9 on accesses outside the map and smaller than a half register -/

theorem hostMap_eq_reg {a : BitVec 40} {b o : Nat} :
    hostMap a = .reg b o ↔ a.toNat = b * 0x1_0000 + o ∧ b < 7 ∧ o < 0x1_0000 := by
  rw [hostMap]
  split
  · rw [HostPlace.reg.injEq]
    omega
  · split
    · simp only [reduceCtorEq, false_iff]
      omega
    · split <;> simp only [reduceCtorEq, false_iff] <;> omega

/-- An address further on in a block. -/
theorem hostMap_add {a : BitVec 40} {b o : Nat} (h : hostMap a = .reg b o) {i : Nat} (hi : o + i < 0x1_0000) :
    hostMap (a + BitVec.ofNat 40 i) = .reg b (o + i) := by
  obtain ⟨ha, hb, -⟩ := hostMap_eq_reg.1 h
  refine hostMap_eq_reg.2 ⟨?_, hb, hi⟩
  rw [BitVec.toNat_add, BitVec.toNat_ofNat]
  omega

theorem hostMap_sub {a : BitVec 40} {b o : Nat} (h : hostMap a = .reg b o) {i : Nat} (hi : i ≤ o) :
    hostMap (a - BitVec.ofNat 40 i) = .reg b (o - i) := by
  obtain ⟨ha, hb, ho⟩ := hostMap_eq_reg.1 h
  refine hostMap_eq_reg.2 ⟨?_, hb, by omega⟩
  rw [BitVec.toNat_sub, BitVec.toNat_ofNat]
  omega

theorem outsideBytes_block {a : BitVec 40} {b o n : Nat} (h : hostMap a = .reg b o) (hn : o + n ≤ 0x1_0000) :
    outsideBytes a n = 0 := by
  rw [outsideBytes, List.length_eq_zero_iff, List.filter_eq_nil_iff]
  intro i hi
  rw [hostMap_add h (by have := List.mem_range.1 hi; omega)]
  exact Bool.false_ne_true

theorem outsideBytes_past {a : BitVec 40} {n i : Nat} (hi : i < n) (h : hostMap (a + BitVec.ofNat 40 i) = .outside) :
    outsideBytes a n ≠ 0 := by
  rw [outsideBytes, ne_eq, List.length_eq_zero_iff, List.filter_eq_nil_iff]
  intro hall
  exact hall i (List.mem_range.2 hi) (by rw [h]; rfl)

/-- The bytes of a half register are those of its register (R520). -/
theorem leBytes_half (v h : Nat) (hh : h = 0 ∨ h = 4) :
    leBytes 4 (if h = 0 then v else v / 2 ^ 32) = (List.range 4).map fun j => (leBytes 8 v).getD (h + j) 0 := by
  obtain rfl | rfl := hh <;> simp [leBytes, List.range_succ, Nat.div_div_eq_div_mul]

/-- The bytes of a block from an aligned offset, as a half's read gives them. -/
theorem regByte_half (c : Chip) (b : Nat) {o : Nat} (ho : o % 4 = 0) :
    (List.range 4).map (fun j => regByte c b (o + j)) =
      leBytes 4 (if o % 8 = 0 then (regRead c b (o - o % 8)).toNat else (regRead c b (o - o % 8)).toNat / 2 ^ 32) := by
  rw [leBytes_half _ _ (by omega)]
  refine List.map_congr_left fun j hj => ?_
  have hj4 : j < 4 := List.mem_range.1 hj
  rw [regByte, show o + j - (o + j) % 8 = o - o % 8 by omega, show (o + j) % 8 = o % 8 + j by omega]

theorem readHalf_eq (c : Chip) {b o : Nat} (ho : o % 4 = 0) (h6 : b = 6 → 8 ≤ o) :
    c.readHalf b o = (c, (List.range 4).map fun j => regByte c b (o + j)) := by
  rw [Chip.readHalf, if_neg (by omega), if_neg (by omega), regByte_half c b ho]

/-- Halves of a block other than those of TICK_NOW, read one after the other, give its bytes and change nothing. -/
theorem readHalves_eq (c : Chip) (k : Nat) {a : BitVec 40} {b o : Nat} (ha : a.toNat = b * 0x1_0000 + o) (hb : b < 7)
    (hin : o + 4 * k ≤ 0x1_0000) (ho : o % 4 = 0) (h6 : b = 6 → 8 ≤ o) :
    Chip.readHalves k a c = (c, (List.range (4 * k)).map fun j => regByte c b (o + j)) := by
  induction k generalizing a o with
  | zero => rfl
  | succ k ih =>
    have hmap : hostMap a = .reg b o := hostMap_eq_reg.2 ⟨ha, hb, by omega⟩
    have hnext : (a + 4).toNat = b * 0x1_0000 + (o + 4) := by
      rw [BitVec.toNat_add, show (4 : BitVec 40).toNat = 4 from rfl]
      omega
    have hhalf : c.readHalfAt a = (c, (List.range 4).map fun j => regByte c b (o + j)) := by
      rw [Chip.readHalfAt, hmap]
      exact readHalf_eq c ho h6
    rw [Chip.readHalves, hhalf, ih hnext (by omega) (by omega) (by omega), show 4 * (k + 1) = 4 + 4 * k by omega, List.range_add,
      List.map_append, List.map_map]
    simp only [Function.comp_def, Nat.add_assoc]

/-- A part of a list of bytes of a block. -/
theorem drop_take_bytes (f : Nat → Byte) {k skip n o : Nat} (hs : skip ≤ o) (hn : skip + n ≤ k) :
    (((List.range k).map fun j => f (o - skip + j)).drop skip).take n = (List.range n).map fun j => f (o + j) := by
  apply List.ext_getElem
  · simp
    omega
  · intro i h1 h2
    simp [show o - skip + (skip + i) = o + i by omega]

section
variable {s : State} {m : UcieIx} {addr : BitVec 40} {n : Nat} (hm : s.chip.sys.ucieUp.getLsbD m.toNat = true)
include hm

/-- What an access outside the map leaves (R9, R10): it is counted, and a read answers ones. -/
def strayDone (c : Chip) (m : UcieIx) (addr : BitVec 40) (n : Nat) (write : Bool) : Chip :=
  if write then c.countUnmapped addr write else (c.countUnmapped addr write).emit (.readDone m (List.replicate n 0xFF#8))

theorem exec_unmappedAccess_outside (h : hostMap addr = .outside) (write : Bool) :
    exec (.unmappedAccess m addr n write) s = .next { s with chip := strayDone s.chip m addr n write } := by
  unfold exec execUnmappedAccess
  simp only [onChip_hostAccess hm, h]
  rfl

section
variable {b o : Nat} (h : hostMap addr = .reg b o)
include h

/-- Both kinds of access reach a block in the same way. -/
theorem exec_blockAccess (write : Bool) {i : Instr} (hi : i ∈ [Instr.unmappedAccess m addr n write, .subwordRegAccess m addr n write]) :
    exec i s = .next { s with chip := s.chip.regAccess m addr n write } := by
  simp only [List.mem_cons, List.not_mem_nil, or_false] at hi
  obtain rfl | rfl := hi
  · unfold exec execUnmappedAccess
    simp only [onChip_hostAccess hm, h]
  · unfold exec execSubwordRegAccess
    simp only [onChip_hostAccess hm, h]

theorem exec_blockWrite (hin : o + n ≤ 0x1_0000) {i : Instr}
    (hi : i ∈ [Instr.unmappedAccess m addr n true, .subwordRegAccess m addr n true]) : exec i s = .next s := by
  rw [exec_blockAccess hm h true hi, Chip.regAccess, outsideBytes_block h hin]
  rfl

theorem exec_blockWrite_past (hn : 1 ≤ n) (hpast : hostMap (addr + BitVec.ofNat 40 (n - 1)) = .outside) :
    exec (.subwordRegAccess m addr n true) s = .next { s with chip := s.chip.countUnmapped addr true } := by
  rw [exec_blockAccess hm h true (.tail _ (.head _)), Chip.regAccess, if_neg (outsideBytes_past (by omega) hpast)]
  rfl

theorem exec_blockRead (hin : o + n ≤ 0x1_0000) (h6 : b = 6 → 8 ≤ o) {i : Instr}
    (hi : i ∈ [Instr.unmappedAccess m addr n false, .subwordRegAccess m addr n false]) :
    exec i s = .next { s with chip := s.chip.emit (.readDone m ((List.range n).map fun k => regByte s.chip b (o + k))) } := by
  obtain ⟨ha, hb, ho⟩ := hostMap_eq_reg.1 h
  have hskip : addr.toNat % 4 = o % 4 := by omega
  have hbase := (hostMap_eq_reg.1 (hostMap_sub h (Nat.mod_le o 4))).1
  rw [exec_blockAccess hm h false hi, Chip.regAccess, outsideBytes_block h hin]
  simp only [if_true, Bool.false_eq_true, if_false, hskip]
  rw [readHalves_eq s.chip _ hbase hb (by omega) (by omega) (by omega), drop_take_bytes _ (Nat.mod_le o 4) (by omega)]

end

/-- A read of TICK_NOW's low half takes the latch of the high one (R182). -/
theorem exec_tickRead {o : Nat} (h : hostMap addr = .reg 6 o) (hn : 1 ≤ n) (hin : o + n ≤ 4) :
    exec (.subwordRegAccess m addr n false) s = .next { s with chip := { s.chip with
      tick := { s.chip.tick with latch := s.chip.tick.count.extractLsb' 32 32 }
      out := s.chip.out ++ [.readDone m ((List.range n).map fun k => regByte s.chip 6 (o + k))] } } := by
  have ha := (hostMap_eq_reg.1 h).1
  have hskip : addr.toNat % 4 = o := by omega
  have hbase : hostMap (addr - BitVec.ofNat 40 o) = .reg 6 0 := by rw [hostMap_sub h (Nat.le_refl _), Nat.sub_self]
  have hhalf : s.chip.readHalfAt (addr - BitVec.ofNat 40 o) =
      ({ s.chip with tick := { s.chip.tick with latch := s.chip.tick.count.extractLsb' 32 32 } },
        (List.range 4).map fun j => regByte s.chip 6 (o - o + j)) := by
    rw [Chip.readHalfAt, hbase, Nat.sub_self, regByte_half _ _ (by decide)]
    rfl
  rw [exec_blockAccess hm h false (.tail _ (.head _)), Chip.regAccess, outsideBytes_block h (by omega)]
  simp only [if_true, Bool.false_eq_true, if_false, hskip, show (o + n + 3) / 4 = 1 by omega, Chip.readHalves, hhalf, List.append_nil]
  rw [drop_take_bytes _ (Nat.le_refl _) (by omega)]
  rfl

end

/-- Settles O9: a plain register takes a write as its fields say, another as the command it is; stray accesses are counted, and
one inside a block reads its registers' bytes. -/
theorem registerAndStrayAccesses : Obligations.RegisterAndStrayAccesses := by
  unfold Obligations.RegisterAndStrayAccesses
  constructor
  · intro s m v data hm
    refine ⟨fun r hr harm hboot => exec_plainRegs hm v data harm hboot hr, fun n hn hdef => exec_fltSrcCfg hm v data hn hdef,
      fun harm hv => exec_lockedBudget hm v data harm hv, exec_mbxCtl hm v data, exec_bootLen hm v data, exec_tokenRingTail hm data,
      exec_tickClr hm v data, exec_evrFlush hm v data, exec_portEnable hm v data,
      fun hv q => ⟨exec_sqDoorbell hm v data hv q, exec_cqDoorbell hm v data hv q⟩, exec_summaryClr hm v data, exec_ctlEnter hm,
      fun hv n hn => ⟨exec_severeClear hm v data hv hn, exec_stickyClear hm v data hv hn⟩, fun a h1 h2 => exec_hkWrite hm v data h1 h2,
      fun o ho => exec_unassigned hm v data ho, fun a ha => exec_outsideWrite hm v data ha⟩
  · intro s m addr n hm hn
    exact ⟨fun h => ⟨exec_unmappedAccess_outside hm h false, exec_unmappedAccess_outside hm h true⟩,
      fun b o h hin i hi => exec_blockWrite hm h hin hi, fun b o h hin h6 i hi => exec_blockRead hm h hin h6 hi,
      fun o h hin => exec_tickRead hm h hn hin, fun b o h hpast _ => exec_blockWrite_past hm h hn hpast⟩

end Sys2Proof.Proofs

namespace Sys2Proof.Proofs
open Sys2Proof.Machine Sys2Proof.Laws

/-! ### O42: a crumb in the wrong place may start the list again (R155, R156, R171)

A crumb that comes out of place is reported as MESH_ORDER, whose default action halts the crumb's pass (R375, R379). A tile that has
retired that pass then makes the crumbs of its slots itself, with zero payloads (R171, R307). An output whose last entry was passed
by the crumb thus begins its list again for the halted pass, and stands at its second entry when the node comes to rest: not
between passes, as O42 says. Nothing of this shows before the report, so the node is quiet as O42 asks. -/

/-- A sealed header has the CRC that its fields give (R162). -/
theorem crc_sealed (h : CrumbHeader) : (CrumbHeader.sealed h).crc = CrumbHeader.crcOf (CrumbHeader.sealed h) := rfl

/-- What a crumb that comes to a node of a chip that is on leaves. -/
theorem chip_of_meshCrumbAccept {s u : State} (h : s.chip.on = true) {t : TileIx} {inp : NodePort} {k : Crumb} {n : Nat}
    {wrong : BitVec 704} (hexec : exec (.meshCrumbAccept t inp k n wrong) s = .next u) :
    u.chip = s.chip.meshAccept t inp k n wrong := by
  unfold exec at hexec
  simp only [execMeshCrumbAccept, State.onDevice, State.onChip, h, if_true] at hexec
  injection hexec with hexec
  rw [← hexec]

/-- A tile inside the grid, of whose ports none joins a ring region. -/
def innerTile : TileIx := 33

/-- A list that names first a slot of the tile, then one from the north. -/
def localThenNorth : NodeList := { tile := innerTile, out := .east, entries := [.slot .local' 1 0, .slot .north 2 0] }

/-- A recipe with that list alone. -/
def oneListRecipe : Recipe where
  repoch := 0
  buddyOff := true
  streaming := false
  draft := false
  layout := []
  report := []
  measure := []
  placement := {}
  tiles := []
  nodes := [localThenNorth]
  resInt := 16
  quant := {}
  desc := {}
  experts := none
  lengths := []
  streams := []
  fallbacks := []
  integrity := {}
  firing := { shares := [], peaks := [] }

/-- A pass that the tile has retired. -/
def retiredPass : PassRec :=
  { pass := 1, req := 0, variant := 0, wepoch := 0, pos := 0, positions := 1, kind := 0, began := 0 }

/-- A chip in that pass, with the list at its second entry for the pass before. -/
def retiredChip : Chip where
  pins := { powered := true, resetN := true }
  arr := { run := [(2 * innerTile.toNat, { last := some 1 })] }
  fab := { listPos := [(portKey innerTile .east, 2)], listPass := [(portKey innerTile .east, some 0)] }
  rcp := { active := some oneListRecipe, passes := [retiredPass] }

/-- A sound crumb of the retired pass whose slot the list does not name. -/
def strayCrumb : Crumb where
  hdr := CrumbHeader.sealed
    { slot := 5, req := 0, pass := 1, wepoch := 0, repoch := 0, variant := 0, kind := 0, flags := 0, pos := 0, crc := 0 }
  payload := List.replicate 64 0

/-- Before the report the pass does not run dry, and no crumb comes without an operation behind it. -/
theorem retiredChip_quiet : QuietNode retiredChip innerTile .east := by
  refine ⟨fun p => ⟨rfl, rfl⟩, fun l hl _ => ?_, fun r hr p x => ?_⟩
  · obtain rfl : l = localThenNorth := List.mem_singleton.1 hl
    rfl
  · obtain rfl : r = retiredPass := List.mem_singleton.1 hr
    cases p with
    | local' => exact (if_pos rfl).trans (if_neg (by decide))
    | north => rfl
    | east => rfl
    | south => rfl
    | west => rfl

/-- After the report it does: the list has begun again, and stands past the slot that the tile made. -/
theorem listAt_strayCrumb : (retiredChip.meshAccept innerTile .north strayCrumb 0 0).listAt innerTile .east = 2 := by
  decide +kernel

/-- Refutes O42: the list of an output need not stand between passes after a crumb that came in the wrong place of its last entry. -/
theorem not_meshNodesAndFarTransfers : ¬ Obligations.MeshNodesAndFarTransfers := by
  unfold Obligations.MeshNodesAndFarTransfers
  intro h
  obtain ⟨hmesh, -⟩ := h
  obtain ⟨-, -, hlist, -⟩ := hmesh { chip := retiredChip } innerTile .north .east strayCrumb 0 rfl (by decide) rfl
  have hdue := hlist (crc_sealed _) (by decide) (.inl (by decide)) rfl rfl retiredChip_quiet 1 rfl
  obtain ⟨hslot, -⟩ := hdue
  obtain ⟨-, hstray⟩ := hslot 2 0 (by decide) rfl (by decide) (by decide)
  obtain ⟨u, -, hexec, -, -, hrest, -⟩ := hstray (by decide)
  rw [chip_of_meshCrumbAccept rfl hexec] at hrest
  exact absurd (listAt_strayCrumb.symm.trans hrest) (by decide)

end Sys2Proof.Proofs
